-- ==== Sys2Proof/Word.lean ====
section
/-! DEFINITION. The words of the Spavos-128 and the payload formats of an entry word (R291, R294). -/

namespace Sys2Proof

/-- A byte of any memory. -/
abbrev Byte := BitVec 8

/-- A 32-bit register, link word or memory word. -/
abbrev Word := BitVec 32

/-- A 64-bit entry word of a schedule (R291). -/
abbrev EWord := BitVec 64

/-- Format T, two sources (R294). -/
structure FT where
  d   : BitVec 7
  a   : BitVec 7
  am  : BitVec 3
  b   : BitVec 7
  bm  : BitVec 3
  ty  : BitVec 4
  sub : BitVec 4
  deriving DecidableEq, Repr

/-- Format F, three sources (R294). -/
structure FF where
  d   : BitVec 7
  a   : BitVec 7
  am  : BitVec 2
  b   : BitVec 7
  bm  : BitVec 2
  c   : BitVec 7
  ty3 : BitVec 3
  deriving DecidableEq, Repr

/-- Format I, immediate (R294). -/
structure FI where
  d   : BitVec 7
  a   : BitVec 7
  imm : BitVec 21
  deriving DecidableEq, Repr

/-- Format M, memory and stream (R294). -/
structure FM where
  d    : BitVec 7
  strm : BitVec 3
  mode : BitVec 4
  off  : BitVec 21
  deriving DecidableEq, Repr

/-- Format W, windowed (R294). -/
structure FW where
  d   : BitVec 7
  a   : BitVec 7
  b   : BitVec 7
  win : BitVec 9
  wm  : BitVec 2
  sub : BitVec 3
  deriving DecidableEq, Repr

/-- Format X, matrix (R294). -/
structure FX where
  asl : BitVec 6
  bsl : BitVec 6
  acc : BitVec 2
  shp : BitVec 4
  opt : BitVec 3
  d   : BitVec 7
  rsv : BitVec 7
  deriving DecidableEq, Repr

/-- Format K, control and system (R294). -/
structure FK where
  d     : BitVec 7
  a     : BitVec 7
  param : BitVec 21
  deriving DecidableEq, Repr

/-- The header of a host message (R37). `bad` records that the message is malformed by its
form: a wrong UNITS, a nonzero reserved bit, or a selector of the kind outside its range (R44). -/
structure MsgHdr where
  seq  : BitVec 32
  func : BitVec 6
  ackn : BitVec 32
  tag  : BitVec 32
  bad  : Bool
  deriving DecidableEq, Repr

/-- A viaduct flit as its receiver sees it: 120 B of payload, the trailer's fields, and whether
the CRC-32 agrees (R11). -/
structure Flit where
  crcOk   : Bool
  seq     : BitVec 12
  ack     : BitVec 12
  cls     : BitVec 2
  av      : Bool
  rsv     : BitVec 5
  payload : List Byte
  deriving DecidableEq, Repr

end Sys2Proof
end

