-- ==== Sys2Proof/Machine/Bits.lean ====
section
/-! DEFINITION. Integer, bit, lane, byte and table helpers (R306, R198, R37). -/

namespace Sys2Proof.Machine

open Sys2Proof

/-- A finite map from natural keys, as plain data: the first pair of a key counts. -/
abbrev Tbl (α : Type) := List (Nat × α)

namespace Tbl

/-- The value of key `k`, or `d` when the table does not list it. -/
def get {α : Type} (d : α) : Tbl α → Nat → α
  | [], _ => d
  | (k', v) :: t, k => if k' = k then v else get d t k

/-- The value of key `k`, if listed. -/
def find {α : Type} : Tbl α → Nat → Option α
  | [], _ => none
  | (k', v) :: t, k => if k' = k then some v else find t k

/-- The table with key `k` bound to `v`, in the place the key had, or at the end. -/
def set {α : Type} : Tbl α → Nat → α → Tbl α
  | [], k, v => [(k, v)]
  | (k', v') :: t, k, v => if k' = k then (k, v) :: t else (k', v') :: set t k v

/-- The table without key `k`. -/
def del {α : Type} : Tbl α → Nat → Tbl α
  | [], _ => []
  | (k', v') :: t, k => if k' = k then del t k else (k', v') :: del t k

/-- The table with the value of key `k` changed by `f`, where listed. -/
def modify {α : Type} : Tbl α → Nat → (α → α) → Tbl α
  | [], _, _ => []
  | (k', v') :: t, k, f => if k' = k then (k', f v') :: t else (k', v') :: modify t k f

/-- The listed values, in order. -/
def vals {α : Type} (t : Tbl α) : List α := t.map Prod.snd

/-- The listed keys, in order. -/
def keys {α : Type} (t : Tbl α) : List Nat := t.map Prod.fst

end Tbl

/-- `sN(x)`: the representative of x modulo 2^n in the signed range (R306). -/
def sN (n : Nat) (x : Int) : Int := Int.bmod x (2 ^ n)

/-- `nN(x)`: the representative of x modulo 2^n in 0 to 2^n - 1 (R306). -/
def nN (n : Nat) (x : Int) : Int := x % (2 ^ n : Nat)

/-- `n32(x)` as a register value (R306). -/
def n32 (x : Int) : Word := BitVec.ofInt 32 x

/-- `sext(v, n)` of the low n bits of v (R306). -/
def sextN (n : Nat) (v : Nat) : Int :=
  if v % 2 ^ n < 2 ^ (n - 1) then (v % 2 ^ n : Nat) else ((v % 2 ^ n : Nat) : Int) - (2 ^ n : Nat)

/-- `sat_s(x, n)` (R306). -/
def satS (n : Nat) (x : Int) : Int :=
  if x < -(2 ^ (n - 1) : Nat) then -(2 ^ (n - 1) : Nat)
  else if x > (2 ^ (n - 1) : Nat) - 1 then (2 ^ (n - 1) : Nat) - 1 else x

/-- `sat_n(x, n)` (R306). -/
def satN (n : Nat) (x : Int) : Int :=
  if x < 0 then 0 else if x > (2 ^ n : Nat) - 1 then (2 ^ n : Nat) - 1 else x

/-- `lane(x, w, i)` as a natural number (R306). -/
def lane (x : Word) (w i : Nat) : Nat := (x.toNat >>> (w * i)) % 2 ^ w

/-- The register whose lane i of width w is the low w bits of `f i` (R198, R306). -/
def ofLanes (w : Nat) (f : Nat → Int) : Word :=
  BitVec.ofNat 32 ((List.range (32 / w)).foldl (fun acc i => acc + (nN w (f i)).toNat * 2 ^ (w * i)) 0)

/-- Bits [hi:lo] of a word (R2). -/
def bitsOf {n : Nat} (v : BitVec n) (hi lo : Nat) : Nat := (v.toNat >>> lo) % 2 ^ (hi + 1 - lo)

/-- A bit of a word as a Bool (R2). -/
def bitAt {n : Nat} (v : BitVec n) (i : Nat) : Bool := v.getLsbD i

/-- 1 or 0 as a word. -/
def boolWord (b : Bool) : Word := if b then 1#32 else 0#32

/-- Little-endian value of a byte list (R37). -/
def leNat : List Byte → Nat
  | [] => 0
  | b :: t => b.toNat + 256 * leNat t

/-- The `n` little-endian bytes of a number (R37). -/
def leBytes : Nat → Nat → List Byte
  | 0, _ => []
  | n + 1, v => BitVec.ofNat 8 v :: leBytes n (v / 256)

/-- `n` bytes of `l` from offset `o`, zero beyond its end. -/
def sliceBytes (l : List Byte) (o n : Nat) : List Byte :=
  let t := (l.drop o).take n
  t ++ List.replicate (n - t.length) 0#8

/-- Little-endian number in bytes o to o+n-1 of a byte list. -/
def leAt (l : List Byte) (o n : Nat) : Nat := leNat (sliceBytes l o n)

/-- Position of the greatest 1 bit plus 1, by fuel: the length of v in bits. -/
def bitLen (v : Nat) : Nat := if v = 0 then 0 else Nat.log2 v + 1

/-- Rounding up of a quotient. -/
def ceilDiv (a b : Nat) : Nat := (a + b - 1) / b

/-- The number aligned down to a multiple. -/
def alignDown (a b : Nat) : Nat := a / b * b

/-- The number aligned up to a multiple. -/
def alignUp (a b : Nat) : Nat := ceilDiv a b * b

/-- Rotation of a 32-bit value left by k bits (R307). -/
def rotl32 (v : Word) (k : Nat) : Word := v.rotateLeft k

/-- The greatest element of a list of naturals, 0 when empty. -/
def maxNat (l : List Nat) : Nat := l.foldl max 0

/-- Insertion into an ascending list without duplicates. -/
def insertUniq (x : Nat) : List Nat → List Nat
  | [] => [x]
  | y :: t => if x = y then y :: t else if x < y then x :: y :: t else y :: insertUniq x t

/-- Stable insertion by a strict order. -/
def insertBy {α : Type} (lt : α → α → Bool) (x : α) : List α → List α
  | [] => [x]
  | y :: t => if lt x y then x :: y :: t else y :: insertBy lt x t

/-- Stable sort by a strict order. -/
def sortBy {α : Type} (lt : α → α → Bool) (l : List α) : List α :=
  l.foldl (fun acc x => insertBy lt x acc) []

/-- The value of a modifier code on a word (R299). -/
def modify (v : Word) (m : Nat) : Word :=
  match m with
  | 0 => v
  | 1 => v.extractLsb' 0 16 ++ v.extractLsb' 16 16
  | 2 => v.extractLsb' 0 16 ++ v.extractLsb' 0 16
  | 3 => v.extractLsb' 16 16 ++ v.extractLsb' 16 16
  | 4 => v.extractLsb' 0 8 ++ v.extractLsb' 8 8 ++ v.extractLsb' 16 8 ++ v.extractLsb' 24 8
  | 5 => v.extractLsb' 0 8 ++ v.extractLsb' 0 8 ++ v.extractLsb' 0 8 ++ v.extractLsb' 0 8
  | 6 => v.extractLsb' 24 4 ++ v.extractLsb' 28 4 ++ v.extractLsb' 16 4 ++ v.extractLsb' 20 4
      ++ v.extractLsb' 8 4 ++ v.extractLsb' 12 4 ++ v.extractLsb' 0 4 ++ v.extractLsb' 4 4
  | _ => v.extractLsb' 0 4 ++ v.extractLsb' 0 4 ++ v.extractLsb' 0 4 ++ v.extractLsb' 0 4
      ++ v.extractLsb' 0 4 ++ v.extractLsb' 0 4 ++ v.extractLsb' 0 4 ++ v.extractLsb' 0 4

end Sys2Proof.Machine
end

