-- ==== Sys2Proof/Machine/Num.lean ====
section
/-! DEFINITION. Number formats and exact arithmetic with one rounding (R193 to R208, R370 to R379). -/

namespace Sys2Proof.Machine

open Sys2Proof

/-- A floating-point format (R193): widths, bias, whether the top exponent code holds infinities,
and the code of its greatest finite magnitude. -/
structure Fmt where
  w       : Nat
  eb      : Nat
  mb      : Nat
  bias    : Int
  hasInf  : Bool
  maxFin  : Nat
  nanCode : Nat
  deriving DecidableEq, Repr

/-- FP32 (R193, R194). -/
def fp32 : Fmt := ⟨32, 8, 23, 127, true, 0x7F7FFFFF, 0x7FC00000⟩
/-- FP16 (R193, R194). -/
def fp16 : Fmt := ⟨16, 5, 10, 15, true, 0x7BFF, 0x7E00⟩
/-- BF16 (R193, R194). -/
def bf16 : Fmt := ⟨16, 8, 7, 127, true, 0x7F7F, 0x7FC0⟩
/-- E5M2 (R193, R194). -/
def e5m2 : Fmt := ⟨8, 5, 2, 15, true, 0x7B, 0x7E⟩
/-- E4M3 (R193, R194). -/
def e4m3 : Fmt := ⟨8, 4, 3, 7, false, 0x7E, 0x7F⟩
/-- E2M1: its NaN code stands for the block special's code 0b1000 (R193, R206). -/
def e2m1 : Fmt := ⟨4, 2, 1, 1, false, 0x7, 0x8⟩

/-- A value that a code denotes: NaN, an infinity, or (-1)^neg · m · 2^e, where m = 0 is a signed
zero. -/
inductive FV where
  | nan
  | inf (neg : Bool)
  | fin (neg : Bool) (m : Nat) (e : Int)
  deriving DecidableEq, Repr

/-- A signed dyadic number m · 2^e. -/
structure Dy where
  m : Int
  e : Int
  deriving DecidableEq, Repr

/-- An exact quotient num / den, den positive. -/
structure Q where
  num : Int
  den : Nat
  deriving DecidableEq, Repr

namespace FV

def isNan : FV → Bool
  | nan => true
  | _ => false

def isInf : FV → Bool
  | inf _ => true
  | _ => false

def isFinite : FV → Bool
  | fin _ _ _ => true
  | _ => false

def isZero : FV → Bool
  | fin _ m _ => m == 0
  | _ => false

/-- The sign bit of a value that is no NaN. -/
def neg : FV → Bool
  | nan => false
  | inf s => s
  | fin s _ _ => s

/-- −x; NaN stays NaN. -/
def negate : FV → FV
  | nan => nan
  | inf s => inf !s
  | fin s m e => fin (!s) m e

/-- |x|. -/
def abs : FV → FV
  | nan => nan
  | inf _ => inf false
  | fin _ m e => fin false m e

/-- The dyadic number of a finite value. -/
def toDy : FV → Dy
  | fin s m e => ⟨if s then -(m : Int) else m, e⟩
  | _ => ⟨0, 0⟩

end FV

namespace Dy

/-- The mantissa of x when written with exponent e, e at most x's exponent. -/
def align (x : Dy) (e : Int) : Int := x.m * (2 ^ (x.e - e).toNat : Nat)

/-- Exact sum. -/
def add (x y : Dy) : Dy :=
  let e := min x.e y.e
  ⟨x.align e + y.align e, e⟩

/-- Exact product. -/
def mul (x y : Dy) : Dy := ⟨x.m * y.m, x.e + y.e⟩

def neg (x : Dy) : Dy := ⟨-x.m, x.e⟩

/-- Comparison by value. -/
def lt (x y : Dy) : Bool :=
  let e := min x.e y.e
  decide (x.align e < y.align e)

def le (x y : Dy) : Bool := !(lt y x)

def eq (x y : Dy) : Bool := le x y && le y x

/-- x · 2^k. -/
def scale (x : Dy) (k : Int) : Dy := ⟨x.m, x.e + k⟩

/-- The exact quotient form of a dyadic number. -/
def toQ (x : Dy) : Q :=
  if 0 ≤ x.e then ⟨x.m * (2 ^ x.e.toNat : Nat), 1⟩ else ⟨x.m, 2 ^ (-x.e).toNat⟩

/-- The value as an FV, zero taking the sign given. -/
def toFV (x : Dy) (zeroNeg : Bool) : FV :=
  if x.m = 0 then .fin zeroNeg 0 0 else .fin (decide (x.m < 0)) x.m.natAbs x.e

/-- floor(x). -/
def floor (x : Dy) : Int :=
  if 0 ≤ x.e then x.m * (2 ^ x.e.toNat : Nat) else x.m / (2 ^ (-x.e).toNat : Nat)

/-- An integer. -/
def ofInt (i : Int) : Dy := ⟨i, 0⟩

end Dy

namespace Q

def add (x y : Q) : Q := ⟨x.num * y.den + y.num * x.den, x.den * y.den⟩
def mul (x y : Q) : Q := ⟨x.num * y.num, x.den * y.den⟩
/-- x / y for y ≠ 0. -/
def div (x y : Q) : Q :=
  if y.num < 0 then ⟨-(x.num * y.den), x.den * y.num.natAbs⟩ else ⟨x.num * y.den, x.den * y.num.natAbs⟩
def lt (x y : Q) : Bool := decide (x.num * y.den < y.num * x.den)
def le (x y : Q) : Bool := decide (x.num * y.den ≤ y.num * x.den)
def eq (x y : Q) : Bool := decide (x.num * y.den = y.num * x.den)
def neg (x : Q) : Q := ⟨-x.num, x.den⟩
def abs (x : Q) : Q := ⟨x.num.natAbs, x.den⟩
def sub (x y : Q) : Q := x.add y.neg

end Q

/-- `floor_log2(n / d)` for positive n and d (R306). -/
def floorLog2Q (n d : Nat) : Int :=
  let k : Int := (Nat.log2 n : Int) - Nat.log2 d
  -- 2^k ≤ n/d holds for k or k - 1
  if 0 ≤ k then (if d * 2 ^ k.toNat ≤ n then k else k - 1)
  else (if d ≤ n * 2 ^ (-k).toNat then k else k - 1)

/-- Rounding of the magnitude n / d with sign `neg` to an integer under a mode (R201). -/
def roundIntMag (mode : Nat) (neg : Bool) (n d : Nat) : Nat :=
  let q := n / d
  let r := n % d
  if r = 0 then q
  else match mode with
    | 0 => if 2 * r < d then q else if 2 * r > d then q + 1 else if q % 2 = 0 then q else q + 1
    | 1 => q
    | 2 => if neg then q + 1 else q
    | 3 => if neg then q else q + 1
    | _ => if 2 * r < d then q else q + 1

/-- The code of the magnitude beyond the greatest finite one (R202). -/
def overflowCode (f : Fmt) (mode : Nat) (neg : Bool) : Nat :=
  if !f.hasInf then f.maxFin
  else match mode with
    | 1 => f.maxFin
    | 2 => if neg then f.maxFin + 1 else f.maxFin
    | 3 => if neg then f.maxFin else f.maxFin + 1
    | _ => f.maxFin + 1

/-- The sign bit of a format; E2M1 has no −0 (R196, R202). -/
def withSign (f : Fmt) (neg : Bool) (mag : Nat) : Nat :=
  if neg && !(f.w == 4 && mag == 0) then mag + 2 ^ (f.w - 1) else mag

/-- Rounding of the positive magnitude n / d to a format: its code without the sign (R201, R202). -/
def roundMag (f : Fmt) (mode : Nat) (neg : Bool) (n d : Nat) : Nat :=
  if n = 0 then 0
  else
    let emin : Int := 1 - f.bias
    let e : Int := max (floorLog2Q n d) emin
    let q : Int := e - f.mb
    let r := if 0 ≤ q then roundIntMag mode neg n (d * 2 ^ q.toNat)
             else roundIntMag mode neg (n * 2 ^ (-q).toNat) d
    let code := (e - emin).toNat * 2 ^ f.mb + r
    if code > f.maxFin then overflowCode f mode neg else code

/-- `round_f(v, f, m)` of a value (R306). -/
def roundFV (f : Fmt) (mode : Nat) (v : FV) : Nat :=
  match v with
  | .nan => f.nanCode
  | .inf s => withSign f s (if f.hasInf then f.maxFin + 1 else f.maxFin)
  | .fin s m e =>
    withSign f s (if 0 ≤ e then roundMag f mode s (m * 2 ^ e.toNat) 1 else roundMag f mode s m (2 ^ (-e).toNat))

/-- `round_f` of an exact nonzero quotient; an exact zero gives +0 (R202). -/
def roundQ (f : Fmt) (mode : Nat) (x : Q) : Nat :=
  withSign f (decide (x.num < 0)) (roundMag f mode (decide (x.num < 0)) x.num.natAbs x.den)

/-- `round_rne_f32(v)` (R306). -/
def roundRneF32 (v : FV) : Word := BitVec.ofNat 32 (roundFV fp32 0 v)

/-- `value_of(c, f)` (R193, R306). E2M1's code 0b1000 is not its business (R196). -/
def valueOf (f : Fmt) (code : Nat) : FV :=
  let s := decide ((code / 2 ^ (f.w - 1)) % 2 = 1)
  let mag := code % 2 ^ (f.w - 1)
  let ex := mag / 2 ^ f.mb
  let mn := mag % 2 ^ f.mb
  if f.hasInf && ex == 2 ^ f.eb - 1 then (if mn = 0 then .inf s else .nan)
  else if f.w == 8 && !f.hasInf && mag == 0x7F then .nan
  else if ex = 0 then .fin s mn (1 - f.bias - f.mb)
  else .fin s (mn + 2 ^ f.mb) ((ex : Int) - f.bias - f.mb)

/-- The value of an FP32 register. -/
def f32 (v : Word) : FV := valueOf fp32 v.toNat

/-- An integer as a value. -/
def FV.ofInt (i : Int) : FV := .fin (decide (i < 0)) i.natAbs 0

/-- The class order of comparison: true when x < y; false with a NaN (R374). −0 equals +0. -/
def FV.lt : FV → FV → Bool
  | .nan, _ => false
  | _, .nan => false
  | .inf s, .inf t => s && !t
  | .inf s, .fin _ _ _ => s
  | .fin _ _ _, .inf t => !t
  | .fin s m e, .fin t n g => Dy.lt (FV.fin s m e).toDy (FV.fin t n g).toDy

/-- x = y; false with a NaN (R374). -/
def FV.eq : FV → FV → Bool
  | .nan, _ => false
  | _, .nan => false
  | .inf s, .inf t => s == t
  | .inf _, .fin _ _ _ => false
  | .fin _ _ _, .inf _ => false
  | .fin s m e, .fin t n g => Dy.eq (FV.fin s m e).toDy (FV.fin t n g).toDy

/-- Order with −0 below +0, for values that are no NaN (R373, R397). -/
def FV.ltTotal (x y : FV) : Bool :=
  x.lt y || (x.isZero && y.isZero && x.neg && !y.neg)

/-- Exact product; 0 × ∞ and NaN give NaN (R371). -/
def FV.mul : FV → FV → FV
  | .nan, _ => .nan
  | _, .nan => .nan
  | .inf s, .inf t => .inf (s != t)
  | .inf s, .fin t m _ => if m = 0 then .nan else .inf (s != t)
  | .fin s m _, .inf t => if m = 0 then .nan else .inf (s != t)
  | .fin s m e, .fin t n g => .fin (s != t) (m * n) (e + g)

/-- The exact sum of a list of values with the sign of zero of R202 and the special values of
R203: +0 for an empty list. -/
def sumFV (mode : Nat) (l : List FV) : FV :=
  if l.any FV.isNan then .nan
  else if l.any (fun v => v == .inf true) && l.any (fun v => v == .inf false) then .nan
  else if l.any (fun v => v == .inf true) then .inf true
  else if l.any (fun v => v == .inf false) then .inf false
  else
    let s := (l.map FV.toDy).foldl Dy.add ⟨0, 0⟩
    if s.m ≠ 0 then s.toFV false
    else if l.all (fun v => v.neg) && !l.isEmpty then .fin true 0 0
    else if l.all (fun v => v.isZero && !v.neg) then .fin false 0 0
    else .fin (mode == 2) 0 0

/-- Exact sum of two values (R202). -/
def FV.add (mode : Nat) (x y : FV) : FV := sumFV mode [x, y]

/-- Exact difference of two values. -/
def FV.sub (mode : Nat) (x y : FV) : FV := sumFV mode [x, y.negate]

/-- x · 2^k, exact. -/
def FV.scale (x : FV) (k : Int) : FV :=
  match x with
  | .fin s m e => .fin s m (e + k)
  | v => v

/-- `round_f(x / y)` with the special results of R377. -/
def divRound (f : Fmt) (mode : Nat) (x y : FV) : Nat :=
  match x, y with
  | .nan, _ => f.nanCode
  | _, .nan => f.nanCode
  | .inf _, .inf _ => f.nanCode
  | .inf s, .fin t _ _ => roundFV f mode (.inf (s != t))
  | .fin s _ _, .inf t => roundFV f mode (.fin (s != t) 0 0)
  | .fin s m e, .fin t n g =>
    if n = 0 then (if m = 0 then f.nanCode else roundFV f mode (.inf (s != t)))
    else if m = 0 then roundFV f mode (.fin (s != t) 0 0)
    else
      let k := e - g
      let nm := if 0 ≤ k then m * 2 ^ k.toNat else m
      let dn := if 0 ≤ k then n else n * 2 ^ (-k).toNat
      withSign f (s != t) (roundMag f mode (s != t) nm dn)

/-- Integer square root of v, by bits from position k down. -/
def isqrtFrom : Nat → Nat → Nat → Nat
  | 0, _, acc => acc
  | k + 1, v, acc =>
    let c := acc + 2 ^ k
    isqrtFrom k v (if c * c ≤ v then c else acc)

/-- Integer square root. -/
def isqrt (v : Nat) : Nat := isqrtFrom (bitLen v / 2 + 1) v 0

/-- `round_f(√x)` (R377): the root is taken to 64 bits beyond the point of the format with a sticky
half, which no rounding mode can tell from the exact irrational root. -/
def sqrtRound (f : Fmt) (mode : Nat) (x : FV) : Nat :=
  match x with
  | .nan => f.nanCode
  | .inf s => if s then f.nanCode else roundFV f mode (.inf false)
  | .fin s m e =>
    if m = 0 then roundFV f mode (.fin s 0 0)
    else if s then f.nanCode
    else
      -- m · 2^e = a · 2^(2h), with a of at least 128 bits
      let sh : Nat := 128 + (if (e - 128) % 2 = 0 then 0 else 1)
      let a := m * 2 ^ sh
      let h : Int := (e - sh) / 2
      let r := isqrt a
      let mant := if r * r = a then 2 * r else 2 * r + 1
      roundFV f mode (.fin false mant (h - 1))

/-- A value rounded to an integer under a mode; NaN and infinities are the caller's (R381). -/
def roundToInt (mode : Nat) (x : FV) : Int :=
  match x with
  | .fin s m e =>
    let r := if 0 ≤ e then m * 2 ^ e.toNat else roundIntMag mode s m (2 ^ (-e).toNat)
    if s then -(r : Int) else r
  | _ => 0

/-- `fsum_tree` of R204 over codes of a format: one level. -/
def treeLevel (f : Fmt) (mode : Nat) : List Nat → List Nat
  | x :: y :: t => roundFV f mode ((valueOf f x).add mode (valueOf f y)) :: treeLevel f mode t
  | l => l

/-- `fsum_tree` of R204 by fuel: levels until one value is left. -/
def treeSumFuel (f : Fmt) (mode : Nat) : Nat → List Nat → Nat
  | 0, l => l.headD 0
  | k + 1, l =>
    match l with
    | [] => 0
    | [x] => x
    | l => treeSumFuel f mode k (treeLevel f mode l)

/-- The pairwise tree of R204; +0 for no value. -/
def treeSum (f : Fmt) (mode : Nat) (l : List Nat) : Nat := treeSumFuel f mode (bitLen l.length + 1) l

/-- `fsum_tree_f32` (R306). -/
def fsumTreeF32 (l : List Word) : Word := BitVec.ofNat 32 (treeSum fp32 0 (l.map BitVec.toNat))

/-- The lane format of a floating TY code (R198). -/
def tyFmt (ty : Nat) : Fmt :=
  match ty with
  | 8 => fp32
  | 9 => fp16
  | 10 => bf16
  | 11 => e4m3
  | 12 => e5m2
  | _ => e2m1

/-- The lane width of a TY code (R198). -/
def tyWidth (ty : Nat) : Nat :=
  match ty with
  | 0 => 32 | 1 => 32 | 2 => 16 | 3 => 16 | 4 => 8 | 5 => 8 | 6 => 4 | 7 => 4
  | 8 => 32 | 9 => 16 | 10 => 16 | 11 => 8 | 12 => 8 | _ => 4

/-- Whether an integer TY code is signed (R198). -/
def tySigned (ty : Nat) : Bool := ty % 2 == 0

/-- The narrow formats of NFMT (R199): element width. -/
def nfWidth (nf : Nat) : Nat :=
  match nf with
  | 0 => 4 | 1 => 8 | 2 => 8 | 3 => 8 | 4 => 8 | 5 => 4 | 6 => 4 | _ => 8

/-- The block length of a BLEN code, 0 when reserved (R199). -/
def blenLen (b : Nat) : Nat :=
  match b with
  | 0 => 16 | 1 => 32 | 2 => 64 | 3 => 128 | _ => 0

/-- `e4m3_value` (R306). -/
def e4m3Value (c : Nat) : FV := valueOf e4m3 c

/-- The value, relative to the scale, of an E2M1 code under a special (R196). -/
def e2m1Rel (special code : Nat) : FV := if code = 8 then e4m3Value special else valueOf e2m1 code

/-- The value, relative to the scale, of a code of narrow format nf under a special (R196, R386). -/
def nfRel (nf special code : Nat) : FV :=
  match nf with
  | 0 => e2m1Rel special code
  | 1 => e4m3Value code
  | 2 => valueOf e5m2 code
  | 3 => FV.ofInt (sextN 8 code)
  | 4 => FV.ofInt (code % 256 : Nat)
  | 5 => FV.ofInt (sextN 4 code)
  | _ => FV.ofInt (code % 16 : Nat)

/-- The scaled value of a code under a header word (R196). -/
def scaledValue (nf : Nat) (hdr : Word) (code : Nat) : FV :=
  if bitsOf hdr 31 24 = 0xFF then .nan
  else (nfRel nf (bitsOf hdr 23 16) code).scale ((bitsOf hdr 31 24 : Int) - 127)

/-- The exact quotient of a finite value by a positive finite scale. -/
def quotQ (x s : FV) : Q := x.toDy.toQ.div s.toDy.toQ

/-- The member of a list of (code, value) that a test picks, keeping the first of equals. -/
def pickBest (better : Q → Q → Bool) : List (Nat × Q) → Option (Nat × Q)
  | [] => none
  | p :: t =>
    match pickBest better t with
    | none => some p
    | some q => if better q.2 p.2 then some q else some p

/-- The fifteen fixed values of E2M1 with their codes (R196). -/
def e2m1Fixed : List (Nat × Q) :=
  [(0, ⟨0, 1⟩), (1, ⟨1, 2⟩), (2, ⟨1, 1⟩), (3, ⟨3, 2⟩), (4, ⟨2, 1⟩), (5, ⟨3, 1⟩), (6, ⟨4, 1⟩), (7, ⟨6, 1⟩),
   (9, ⟨-1, 2⟩), (10, ⟨-1, 1⟩), (11, ⟨-3, 2⟩), (12, ⟨-2, 1⟩), (13, ⟨-3, 1⟩), (14, ⟨-4, 1⟩), (15, ⟨-6, 1⟩)]

/-- Rounding of an exact quotient to E2M1 with the block special (R206). -/
def roundE2M1 (mode special : Nat) (v : Q) : Nat :=
  let sp : List (Nat × Q) :=
    match e4m3Value special with
    | .fin s m e => [(8, (FV.fin s m e).toDy.toQ)]
    | _ => []
  let set := e2m1Fixed ++ sp
  match set.find? (fun p => p.2.eq v) with
  | some p => p.1
  | none =>
    let lo := pickBest (fun a b => Q.lt b a) (set.filter (fun p => p.2.lt v))
    let hi := pickBest (fun a b => Q.lt a b) (set.filter (fun p => v.lt p.2))
    match lo, hi with
    | none, some h => h.1
    | some l, none => l.1
    | none, none => 0
    | some l, some h =>
      match mode with
      | 1 => if l.2.abs.lt h.2.abs then l.1 else h.1
      | 2 => l.1
      | 3 => h.1
      | _ =>
        -- the nearest fixed value, then the special when strictly nearer (R206)
        let fixed := withSign e2m1 (decide (v.num < 0)) (roundMag e2m1 mode (decide (v.num < 0)) v.num.natAbs v.den)
        let fv := ((e2m1Fixed.find? (fun p => p.1 == fixed)).map Prod.snd).getD ⟨0, 1⟩
        match sp with
        | [p] => if ((p.2.sub v).abs).lt ((fv.sub v).abs) then 8 else fixed
        | _ => fixed

/-- The NaN code of QNT (R206). -/
def qntNan (nf : Nat) : Nat :=
  match nf with
  | 0 => 8 | 1 => 0x7F | 2 => 0x7E | _ => 0

/-- QNT of one element: x quantised by scale s to narrow format nf under a mode, with the special of
E2M1 (R206). -/
def qntCode (nf mode special : Nat) (x s : FV) : Nat :=
  let badScale := s.isNan || s.isInf || s.isZero || s.neg
  if badScale || x.isNan then qntNan nf
  else match nf with
    | 0 =>
      match x with
      | .inf neg =>
        -- the greatest or least value of the set
        let sp : List (Nat × Q) :=
          match e4m3Value special with
          | .fin t m e => [(8, (FV.fin t m e).toDy.toQ)]
          | _ => []
        let set := e2m1Fixed ++ sp
        ((pickBest (fun a b => if neg then Q.lt a b else Q.lt b a) set).map Prod.fst).getD 0
      | _ => roundE2M1 mode special (quotQ x s)
    | 1 =>
      match x with
      | .inf neg => withSign e4m3 neg e4m3.maxFin
      | _ => let q := quotQ x s
             withSign e4m3 (x.neg) (roundMag e4m3 mode x.neg q.num.natAbs q.den)
    | 2 =>
      match x with
      | .inf neg => withSign e5m2 neg (e5m2.maxFin + 1)
      | _ => let q := quotQ x s
             withSign e5m2 x.neg (min (roundMag e5m2 mode x.neg q.num.natAbs q.den) e5m2.maxFin)
    | _ =>
      let w := nfWidth nf
      let signed := nf == 3 || nf == 5
      let sat := fun i : Int => if signed then satS w i else satN w i
      match x with
      | .inf neg => (nN w (sat (if neg then -(2 ^ 40 : Nat) else (2 ^ 40 : Nat)))).toNat
      | _ => let q := quotQ x s
             let r := roundIntMag mode x.neg q.num.natAbs q.den
             (nN w (sat (if x.neg then -(r : Int) else r))).toNat

/-- emax of R207. -/
def emaxOf (nf : Nat) : Int :=
  match nf with
  | 0 => 2 | 1 => 8 | 2 => 15 | 3 => 6 | 4 => 7 | 5 => 2 | _ => 3

/-- `floor_log2` of a positive dyadic number. -/
def floorLog2Dy (x : Dy) : Int := (Nat.log2 x.m.natAbs : Int) + x.e

/-- The greatest magnitude of a list. -/
def amaxDy (l : List Dy) : Dy := l.foldl (fun acc x => if acc.lt x then x else acc) ⟨0, 0⟩

/-- `round_rne(v)`: the integer nearest a finite value, ties to even (R306). -/
def FV.roundInt : FV → FV
  | .fin s m e => if 0 ≤ e then .fin s m e else .fin s (roundIntMag 0 s m (2 ^ (-e).toNat)) 0
  | v => v

/-- The block scale and special of a block of values (R207). -/
def blockScale (nf : Nat) (vals : List FV) : Nat × Nat :=
  if vals.any (fun v => !v.isFinite) then (0xFF, 0)
  else
    let mags := vals.map (fun v => v.abs.toDy)
    let amax := amaxDy mags
    if amax.m = 0 then (0x7F, 0)
    else
      let clampS := fun t : Int => (max 0 (min 254 (t + 127))).toNat
      if nf = 0 then
        let j := mags.findIdx (fun m => m.eq amax)
        let amax2 := amaxDy (mags.eraseIdx j)
        let t := if amax2.m = 0 then floorLog2Dy amax - 8
                 else max (floorLog2Dy amax2 - 2) (floorLog2Dy amax - 8)
        let v := ((vals[j]?).getD (.fin false 0 0)).scale (-t)
        (clampS t, roundFV e4m3 0 v.roundInt)
      else (clampS (floorLog2Dy amax - emaxOf nf), 0)

/-- One stage of the butterfly of R208 over the codes of an FP32 block. -/
def butterflyStage (m : Nat) (v : List Word) : List Word :=
  (List.range v.length).map fun i =>
    if (i / 2 ^ m) % 2 = 0 then
      roundRneF32 (FV.add 0 (f32 ((v[i]?).getD 0#32)) (f32 ((v[i + 2 ^ m]?).getD 0#32)))
    else
      roundRneF32 (FV.sub 0 (f32 ((v[i - 2 ^ m]?).getD 0#32)) (f32 ((v[i]?).getD 0#32)))

/-- Stages 0 to k − 1 of R208. -/
def butterfly : Nat → List Word → List Word
  | 0, v => v
  | k + 1, v => butterflyStage k (butterfly k v)

/-- The table T of R378: round_rne_f32(2^(i/64)). -/
def exp2Table : List Nat :=
  [0x3F800000, 0x3F8164D2, 0x3F82CD87, 0x3F843A29, 0x3F85AAC3, 0x3F871F62, 0x3F88980F, 0x3F8A14D5] ++
  [0x3F8B95C2, 0x3F8D1ADF, 0x3F8EA43A, 0x3F9031DC, 0x3F91C3D3, 0x3F935A2B, 0x3F94F4F0, 0x3F96942D] ++
  [0x3F9837F0, 0x3F99E046, 0x3F9B8D3A, 0x3F9D3EDA, 0x3F9EF532, 0x3FA0B051, 0x3FA27043, 0x3FA43516] ++
  [0x3FA5FED7, 0x3FA7CD94, 0x3FA9A15B, 0x3FAB7A3A, 0x3FAD583F, 0x3FAF3B79, 0x3FB123F6, 0x3FB311C4] ++
  [0x3FB504F3, 0x3FB6FD92, 0x3FB8FBAF, 0x3FBAFF5B, 0x3FBD08A4, 0x3FBF179A, 0x3FC12C4D, 0x3FC346CD] ++
  [0x3FC5672A, 0x3FC78D75, 0x3FC9B9BE, 0x3FCBEC15, 0x3FCE248C, 0x3FD06334, 0x3FD2A81E, 0x3FD4F35B] ++
  [0x3FD744FD, 0x3FD99D16, 0x3FDBFBB8, 0x3FDE60F5, 0x3FE0CCDF, 0x3FE33F89, 0x3FE5B907, 0x3FE8396A] ++
  [0x3FEAC0C7, 0x3FED4F30, 0x3FEFE4BA, 0x3FF28177, 0x3FF5257D, 0x3FF7D0DF, 0x3FFA83B3, 0x3FFD3E0C]

/-- The table L of R379: round_rne_f32(log2(1 + i/64)). -/
def log2Table : List Nat :=
  [0x00000000, 0x3CB73CB4, 0x3D35D69C, 0x3D8759C5, 0x3DB31FB8, 0x3DDE4212, 0x3E0462C4, 0x3E19574F] ++
  [0x3E2E00D2, 0x3E42615F, 0x3E567AF1, 0x3E6A4F72, 0x3E7DE0B6, 0x3E88983F, 0x3E92203D, 0x3E9B8926] ++
  [0x3EA4D3C2, 0x3EAE00D2, 0x3EB7110E, 0x3EC0052B, 0x3EC8DDD4, 0x3ED19BB0, 0x3EDA3F60, 0x3EE2C97D] ++
  [0x3EEB3A9F, 0x3EF39355, 0x3EFBD42B, 0x3F01FED4, 0x3F060828, 0x3F0A0650, 0x3F0DF989, 0x3F11E20F] ++
  [0x3F15C01A, 0x3F1993E3, 0x3F1D5DA0, 0x3F211D84, 0x3F24D3C2, 0x3F28808C, 0x3F2C2411, 0x3F2FBE80] ++
  [0x3F335004, 0x3F36D8CB, 0x3F3A58FF, 0x3F3DD0C8, 0x3F41404F, 0x3F44A7BA, 0x3F480731, 0x3F4B5ED7] ++
  [0x3F4EAED0, 0x3F51F740, 0x3F553848, 0x3F587209, 0x3F5BA4A4, 0x3F5ED039, 0x3F61F4E5, 0x3F6512C7] ++
  [0x3F6829FB, 0x3F6B3A9F, 0x3F6E44CD, 0x3F7148A1, 0x3F744636, 0x3F773DA4, 0x3F7A2F04, 0x3F7D1A71]

/-- FEX2 (R378). -/
def fex2 (x : FV) : Word :=
  match x with
  | .nan => BitVec.ofNat 32 fp32.nanCode
  | .inf s => if s then 0#32 else BitVec.ofNat 32 (fp32.maxFin + 1)
  | .fin s m e =>
    let d := (FV.fin s m e).toDy
    let n := d.floor
    let f := d.add ⟨-n, 0⟩
    let i := (f.scale 6).floor
    let r := f.add ⟨-i, -6⟩
    let t := (valueOf fp32 ((exp2Table[i.toNat]?).getD 0)).toDy
    let c1 := (valueOf fp32 0x3F317218).toDy
    let c2 := (valueOf fp32 0x3E75FDF0).toDy
    let c3 := (valueOf fp32 0x3D635847).toDy
    let poly := (((Dy.ofInt 1).add (c1.mul r)).add (c2.mul (r.mul r))).add (c3.mul (r.mul (r.mul r)))
    -- beyond 2^±400 the single rounding gives the same result as at the bound
    let n' := max (-400) (min 400 n)
    roundRneF32 (((t.mul poly).scale n').toFV false)

/-- FLG2 (R379). -/
def flg2 (x : FV) : Word :=
  match x with
  | .nan => BitVec.ofNat 32 fp32.nanCode
  | .inf s => BitVec.ofNat 32 (if s then fp32.nanCode else fp32.maxFin + 1)
  | .fin s m ex =>
    if m = 0 then BitVec.ofNat 32 0xFF800000
    else if s then BitVec.ofNat 32 fp32.nanCode
    else
      let k := Nat.log2 m
      let e : Int := ex + k
      -- mantissa m / 2^k in [1, 2)
      let i := (m - 2 ^ k) * 64 / 2 ^ k
      let mi : Q := ⟨64 + i, 64⟩
      let mq : Q := ⟨m, 2 ^ k⟩
      let z := (mq.sub mi).div mi
      let l := (valueOf fp32 ((log2Table[i]?).getD 0)).toDy.toQ
      let q1 := (valueOf fp32 0x3FB8AA3B).toDy.toQ
      let q2 := (valueOf fp32 0xBF38AA3B).toDy.toQ
      let q3 := (valueOf fp32 0x3EF6384F).toDy.toQ
      let z2 := z.mul z
      BitVec.ofNat 32 (roundQ fp32 0 ((((Q.add ⟨e, 1⟩ l).add (q1.mul z)).add (q2.mul z2)).add (q3.mul (z2.mul z))))

end Sys2Proof.Machine
end

