-- ==== Sys2Proof/Config.lean ====
section
/-! DEFINITION. What an implementation fixes and the spec does not say, as constants without a body, and
the fixed figures of R1. -/

namespace Sys2Proof.Config

open Sys2Proof

/-- Verification of a pure SLH-DSA-SHAKE-256s signature with an empty context string: public key,
message, signature (R49, R63). The scheme is a standard outside the spec: a free function (DESIGN CHOICE, log 4). -/
opaque slhDsaVerify : List Byte → List Byte → List Byte → Bool

/-- The image key table of the boot bundle: the public key of image key k, 64 zero bytes when absent
(R65). Its contents are the installed bundle's: free (DESIGN CHOICE, log 4). -/
opaque bootImageKey : Nat → List Byte

/-- The Asuaman root key, whose hash is fused (R59): free (DESIGN CHOICE, log 4). -/
opaque rootKey : List Byte

/-- The CRC-32 of a flit's other 124 bytes, whose polynomial and bit order R11 does not give: free (DESIGN CHOICE, log 61). -/
opaque crc32 : List Byte → Word

/-- Ways of a slice, sets of a slice, slices of a die (R1, R144). -/
def ways : Nat := 16
def sets : Nat := 32
def slices : Nat := 512

/-- Bytes of device DRAM (R143). -/
def dramBytes : Nat := 2 ^ 40

/-- Bytes of one stack (R143). -/
def stackBytes : Nat := 2 ^ 36

/-- The round limit in cycles (R1, R87). -/
def roundLimit : Nat := 12500

/-- The freeze bound in cycles (R113). -/
def freezeBound : Nat := 65536

/-- DEVID (R32). -/
def devid : Word := 0xA5C10128#32

/-- The abutment at which the routes of a page end, 64 per die: DESIGN CHOICE, log 14. -/
def abutmentOf (page : Nat) : Nat := page / 16 * 64 + page % 16 * 4

end Sys2Proof.Config
end

