-- ==== Sys2Proof/Syntax.lean ====
section
/-! DEFINITION. Every step of the Spavos-128, one constructor per row of the table of operations and events. -/

namespace Sys2Proof

/-- The steps of the part. A fabric entry carries its payload (R294), unless its payload is all zeros; its header
is in `Entry`. A host message carries its fields (R45). A step of the fabric without arguments happens to what
`State.focus` names. -/
inductive Instr where
  /-- TENANT_CREATE (R45). -/
  | tenantCreate (h : MsgHdr) (tgt cls : Byte) (ways : BitVec 16) (pages prio : Byte) (keys : BitVec 16) (rows quant rate : Word)
  /-- TENANT_BUDGET (R45). -/
  | tenantBudget (h : MsgHdr) (tgt cls : Byte) (ways : BitVec 16) (pages prio : Byte) (keys : BitVec 16) (rows quant rate : Word)
  /-- TENANT_DESTROY (R55). -/
  | tenantDestroy (h : MsgHdr) (tgt : Byte)
  /-- TENANT_DESTROY_DONE (R55). -/
  | tenantDestroyDone (func : Nat)
  /-- IMAGE_LOAD (R49). -/
  | imageLoad (h : MsgHdr) (slot : Byte) (haddr : BitVec 64) (len : Word)
  /-- IMAGE_LOAD_DONE (R49). -/
  | imageLoadDone (func slot : Nat) (readOk : Bool)
  /-- ENDPOINT_BIND (R50). -/
  | endpointBind (h : MsgHdr) (slot set ep : Byte) (haddr ext : BitVec 64)
  /-- LAUNCH (R51). -/
  | launch (h : MsgHdr) (slot set : Byte) (graph : BitVec 16) (prio plen : Byte) (param : BitVec 384)
  /-- SIGNAL_VALUE (R53). -/
  | signalValue (h : MsgHdr) (ltag value : Word)
  /-- SIGNAL_RESUME (R53). -/
  | signalResume (h : MsgHdr) (ltag fid : Word)
  /-- SIGNAL_ABORT (R53). -/
  | signalAbort (h : MsgHdr) (ltag fid : Word)
  /-- CANCEL (R54). -/
  | cancel (h : MsgHdr) (scope : Byte) (ltag : Word)
  /-- QUERY (R48). -/
  | query (h : MsgHdr) (sel : Byte) (ltag : Word)
  /-- FW_STAGE (R59). -/
  | fwStage (h : MsgHdr) (haddr : BitVec 64) (len : Word)
  /-- FW_STAGE_DONE (R59). -/
  | fwStageDone (readOk : Bool)
  /-- FW_ACTIVATE (R60). -/
  | fwActivate (h : MsgHdr) (dies comp : Byte)
  /-- FW_ACTIVATE_DIE_DONE (R60). -/
  | fwActivateDieDone (ok : Bool)
  /-- CAL_RUN (R61). -/
  | calRun (h : MsgHdr) (tkind index : Byte)
  /-- CAL_RUN_DONE (R61). -/
  | calRunDone (ok : Bool)
  /-- RETIRE (R62). -/
  | retire (h : MsgHdr) (tkind index lane : Byte) (base ext : BitVec 64)
  /-- LAUNCH_COMPLETE (R52). -/
  | launchComplete (func : Nat) (ltag : Word)
  /-- RESET_SEQUENCE (R34). -/
  | resetSequence (fwOk : Bool) (badPages badDies badModules : List Nat)
  /-- DROOP_COUNT_CLEAR (R32). -/
  | droopCountClear (die : Nat)
  /-- NMPDACK_WRITE (R56). -/
  | nmpdackWrite (v : Word)
  /-- NMPERR_CLEAR (R56). -/
  | nmperrClear (v : Word)
  /-- ECC_COUNT_CLEAR (R256). -/
  | eccCountClear (uncorrectable : Bool)
  /-- REGISTER_WRITE_IGNORED (R32). -/
  | registerWriteIgnored (off v : Word)
  /-- FLIT_RECEIVE (R12). -/
  | flitReceive (port : Nat) (f : Flit)
  /-- REPLAY_REQUEST (R12). -/
  | replayRequest (port : Nat)
  /-- LANE_EYE_FAIL (R14). -/
  | laneEyeFail (port lane : Nat)
  /-- PORT_RETRAIN_DONE (R15). -/
  | portRetrainDone (port : Nat) (failedLanes : List Nat) (farAcc : BitVec 12)
  /-- HOST_LINK_MODULE_LOSS (R10). -/
  | hostLinkModuleLoss (module : Nat)
  /-- PORT_WRITE (R166). -/
  | portWrite (port pa : Nat) (data : List Byte)
  /-- PORT_READ (R166). -/
  | portRead (port pa n : Nat)
  /-- DROOP_DETECT (R26). -/
  | droopDetect (die : Nat)
  /-- DROOP_RECOVER (R26). -/
  | droopRecover (die : Nat)
  /-- THERMAL_LIMIT (R28). -/
  | thermalLimit (die : Nat)
  /-- THERMAL_RECOVER (R28). -/
  | thermalRecover (die : Nat)
  /-- L2_WAY_GATE (R31). -/
  | l2WayGate (die way : Nat) (gate : Bool)
  /-- SCRUB_PASS (R255). -/
  | scrubPass (shared : Bool)
  /-- LAUNCH_ACTIVATE (R66). -/
  | launchActivate (func : Nat) (ltag : Word)
  /-- FABRIC_LOAD_RELEASE (R68). -/
  | fabricLoadRelease (func : Nat) (ltag : Word) (load : Nat)
  /-- WALK_COMPLETE (R137). -/
  | walkComplete (id : Nat)
  /-- HOLD_TAKES_EFFECT (R159). -/
  | holdTakesEffect (line : Nat)
  /-- HOLD_SUSPEND (R161). -/
  | holdSuspend (row : Nat)
  /-- HOLD_RESUME (R161). -/
  | holdResume (row : Nat)
  /-- HOT_BLOCK_TIMEOUT (R155). -/
  | hotBlockTimeout (block : Nat)
  /-- MOV (R310). -/
  | mov (f : FT)
  /-- MOVI (R310). -/
  | movi (f : FI)
  /-- MOVHI (R310). -/
  | movhi (f : FI)
  /-- ADD (R312). -/
  | add (f : FT)
  /-- ADDI (R310). -/
  | addi (f : FI)
  /-- SUB (R312). -/
  | sub (f : FT)
  /-- ADDS (R312). -/
  | adds (f : FT)
  /-- SUBS (R312). -/
  | subs (f : FT)
  /-- NEG (R312). -/
  | neg (f : FT)
  /-- ABS (R312). -/
  | abs (f : FT)
  /-- MIN (R312). -/
  | min (f : FT)
  /-- MAX (R312). -/
  | max (f : FT)
  /-- MUL (R312). -/
  | mul (f : FT)
  /-- MULH (R312). -/
  | mulh (f : FT)
  /-- MAD (R313). -/
  | mad (f : FF)
  /-- DIV (R319). -/
  | div (f : FW)
  /-- REM (R319). -/
  | rem (f : FW)
  /-- AND (R312). -/
  | andW (f : FT)
  /-- OR (R312). -/
  | orW (f : FT)
  /-- XOR (R312). -/
  | xorW (f : FT)
  /-- ANDN (R312). -/
  | andn (f : FT)
  /-- ANDI (R310). -/
  | andi (f : FI)
  /-- ORI (R310). -/
  | ori (f : FI)
  /-- XORI (R310). -/
  | xori (f : FI)
  /-- SHL (R312). -/
  | shl (f : FT)
  /-- SHR (R312). -/
  | shr (f : FT)
  /-- SHRA (R312). -/
  | shra (f : FT)
  /-- ROT (R312). -/
  | rot (f : FT)
  /-- SHI (R316). -/
  | shi (f : FI)
  /-- CLZ (R312). -/
  | clz (f : FT)
  /-- POPC (R312). -/
  | popc (f : FT)
  /-- BREV (R312). -/
  | brev (f : FT)
  /-- BFX (R315). -/
  | bfx (f : FI)
  /-- BFI (R315). -/
  | bfi (f : FI)
  /-- CMP (R321). -/
  | cmp (f : FT)
  /-- SEL (R313). -/
  | sel (f : FF)
  /-- PSET (R322). -/
  | pset (f : FK)
  /-- LEA (R310). -/
  | lea (f : FT)
  /-- ADDC (R314). -/
  | addc (f : FT)
  /-- PACK (R317). -/
  | pack (f : FT)
  /-- UNPK (R317). -/
  | unpk (f : FT)
  /-- SHUF (R318). -/
  | shuf (f : FI)
  /-- DOT4 (R313). -/
  | dot4 (f : FF)
  /-- DOT2 (R313). -/
  | dot2 (f : FF)
  /-- CNTI (R324). -/
  | cnti (f : FK)
  /-- CNTS (R324). -/
  | cnts (f : FK)
  /-- CNTV (R324). -/
  | cntv (f : FK)
  /-- CNTT (R325). -/
  | cntt (f : FK)
  /-- SWS (R326). -/
  | sws (f : FK)
  /-- ROTB (R327). -/
  | rotb (f : FK)
  /-- TOKS (R330). -/
  | toks (f : FK)
  /-- TOKW (R331). -/
  | tokw (f : FW)
  /-- TOKT (R330). -/
  | tokt (f : FK)
  /-- LOOPB (R332). -/
  | loopb (f : FK)
  /-- LOOPE (R333). -/
  | loope (f : FK)
  /-- WAITW (R334). -/
  | waitw (f : FW)
  /-- LATCH (R335). -/
  | latch (f : FW)
  /-- HANDL (R336). -/
  | handl (f : FK)
  /-- LDL (R341). -/
  | ldl (f : FM)
  /-- STL (R341). -/
  | stl (f : FM)
  /-- LDS (R343). -/
  | lds (f : FM)
  /-- STS (R344). -/
  | sts (f : FM)
  /-- SOPEN (R347). -/
  | sopen (f : FK)
  /-- SMARK (R347). -/
  | smark (f : FM)
  /-- SREW (R347). -/
  | srew (f : FM)
  /-- SCLOSE (R347). -/
  | sclose (f : FM)
  /-- FPUSH (R348). -/
  | fpush (f : FM)
  /-- FPOP (R348). -/
  | fpop (f : FM)
  /-- LBSH (R348). -/
  | lbsh (f : FM)
  /-- LBRD (R348). -/
  | lbrd (f : FM)
  /-- CPY (R349). -/
  | cpy (f : FK)
  /-- CPYW (R353). -/
  | cpyw (f : FW)
  /-- CPYT (R349). -/
  | cpyt (f : FK)
  /-- GATH (R355). -/
  | gath (f : FM)
  /-- SCAT (R355). -/
  | scat (f : FM)
  /-- RMW (R356). -/
  | rmw (f : FM)
  /-- RED (R358). -/
  | red (f : FM)
  /-- CMO (R359). -/
  | cmo (f : FK)
  /-- RETN (R360). -/
  | retn (f : FK)
  /-- UNPIN (R360). -/
  | unpin (f : FK)
  /-- HINT (R361). -/
  | hint (f : FM)
  /-- PREF (R361). -/
  | pref (f : FM)
  /-- HEPR (R345). -/
  | hepr (f : FM)
  /-- HEPW (R346). -/
  | hepw (f : FM)
  /-- STAG (R348). -/
  | stag (f : FM)
  /-- BUFSW (R348). -/
  | bufsw (f : FM)
  /-- SBAR (R362). -/
  | sbar (f : FK)
  /-- FENCE (R362). -/
  | fence (f : FK)
  /-- BARA (R366). -/
  | bara (f : FK)
  /-- BARW (R367). -/
  | barw (f : FW)
  /-- BART (R367). -/
  | bart (f : FK)
  /-- KEYW (R368). -/
  | keyw (f : FW)
  /-- ACQ (R363). -/
  | acq (f : FK)
  /-- REL (R363). -/
  | rel (f : FK)
  /-- DRAIN (R364). -/
  | drain (f : FW)
  /-- FADD (R372). -/
  | fadd (f : FT)
  /-- FSUB (R372). -/
  | fsub (f : FT)
  /-- FMUL (R372). -/
  | fmul (f : FT)
  /-- FMA (R376). -/
  | fma (f : FF)
  /-- FMIN (R373). -/
  | fmin (f : FT)
  /-- FMAX (R373). -/
  | fmax (f : FT)
  /-- FABS (R372). -/
  | fabs (f : FT)
  /-- FNEG (R372). -/
  | fneg (f : FT)
  /-- FCMP (R374). -/
  | fcmp (f : FT)
  /-- FCLS (R375). -/
  | fcls (f : FT)
  /-- FDIV (R377). -/
  | fdiv (f : FW)
  /-- FSQRT (R377). -/
  | fsqrt (f : FW)
  /-- FEX2 (R378). -/
  | fex2 (f : FT)
  /-- FLG2 (R379). -/
  | flg2 (f : FT)
  /-- FRND (R372). -/
  | frnd (f : FT)
  /-- CVT (R381). -/
  | cvt (f : FT)
  /-- CVTI (R381). -/
  | cvti (f : FT)
  /-- CVTF (R381). -/
  | cvtf (f : FT)
  /-- QNT (R385). -/
  | qnt (f : FF)
  /-- DQNT (R386). -/
  | dqnt (f : FF)
  /-- BSC (R383). -/
  | bsc (f : FT)
  /-- HDRW (R387). -/
  | hdrw (f : FT)
  /-- HDRR (R387). -/
  | hdrr (f : FT)
  /-- BFLY (R384). -/
  | bfly (f : FT)
  /-- FSUM (R380). -/
  | fsum (f : FT)
  /-- FDOT (R376). -/
  | fdot (f : FF)
  /-- FMAXA (R380). -/
  | fmaxa (f : FT)
  /-- FSCL (R372). -/
  | fscl (f : FT)
  /-- MCLM (R391). -/
  | mclm (f : FX)
  /-- MREL (R391). -/
  | mrel (f : FX)
  /-- MLD (R392). -/
  | mld (f : FX)
  /-- MST (R392). -/
  | mst (f : FX)
  /-- MZRO (R393). -/
  | mzro (f : FX)
  /-- MMA (R394). -/
  | mma (f : FX)
  /-- MMAS (R395). -/
  | mmas (f : FX)
  /-- MOUT (R392). -/
  | mout (f : FX)
  /-- MTRN (R392). -/
  | mtrn (f : FX)
  /-- MCTR (R396). -/
  | mctr (f : FX)
  /-- MSRT (R397). -/
  | msrt (f : FX)
  /-- MKEY (R397). -/
  | mkey (f : FX)
  /-- MACC (R393). -/
  | macc (f : FX)
  /-- FOLB (R218). -/
  | folb (f : FK)
  /-- FOLV (R218). -/
  | folv (f : FK)
  /-- FOLD (R403). -/
  | fold (f : FM)
  /-- FOLM (R404). -/
  | folm (f : FX)
  /-- FOLC (R218). -/
  | folc (f : FK)
  /-- FOLR (R221). -/
  | folr (f : FK)
  /-- FOLI (R221). -/
  | foli (f : FK)
  /-- FOLQ (R405). -/
  | folq (f : FK)
  /-- ROWOPEN (R406). -/
  | rowopen (f : FK)
  /-- ROWHOLD (R158). -/
  | rowhold (f : FK)
  /-- ROWREL (R160). -/
  | rowrel (f : FK)
  /-- ROWRD (R407). -/
  | rowrd (f : FM)
  /-- ROWWR (R407). -/
  | rowwr (f : FM)
  /-- ROWQ (R406). -/
  | rowq (f : FK)
  /-- STKH (R231). -/
  | stkh (f : FK)
  /-- STKM (R231). -/
  | stkm (f : FK)
  /-- STKA (R231). -/
  | stka (f : FK)
  /-- STKN (R231). -/
  | stkn (f : FK)
  /-- STKE (R233). -/
  | stke (f : FM)
  /-- STKQ (R409). -/
  | stkq (f : FK)
  /-- COLLAPSE (R240). -/
  | collapse (f : FK)
  /-- GMSK (R241). -/
  | gmsk (f : FK)
  /-- GSTP (R241). -/
  | gstp (f : FK)
  /-- VTXT (R410). -/
  | vtxt (f : FW)
  /-- STOP (R244). -/
  | stopStr (f : FK)
  /-- PLOG (R235). -/
  | plog (f : FK)
  /-- PHSH (R411). -/
  | phsh (f : FW)
  /-- PRPL (R239). -/
  | prpl (f : FK)
  /-- TRAP (R413). -/
  | trap (f : FK)
  /-- IDNT (R414). -/
  | idnt (f : FK)
  /-- TIME (R414). -/
  | time (f : FK)
  /-- PMCF (R415). -/
  | pmcf (f : FK)
  /-- PMRD (R261). -/
  | pmrd (f : FK)
  /-- PMWR (R415). -/
  | pmwr (f : FK)
  /-- RNGS (R416). -/
  | rngs (f : FK)
  /-- CFGR (R270). -/
  | cfgr (f : FK)
  /-- DBRK (R257). -/
  | dbrk (f : FK)
  /-- FLTM (R418). -/
  | fltm (f : FK)
  /-- SIGQ (R419). -/
  | sigq (f : FK)
  /-- SOFT_ERROR (R252). -/
  | softError (kind loc : Nat) (uncorrectable : Bool)
  /-- UNKNOWN_KIND (R44). -/
  | unknownKind (h : MsgHdr) (kind : Byte)
  /-- HOST_WRITE_FAILED (R162). -/
  | hostWriteFailed (func : Nat) (ltag : Word)
  /-- PREFIX_ENTRY_RECLAIM (R238). -/
  | prefixEntryReclaim (func idx : Nat)
  /-- RETIRE_DONE (R62). -/
  | retireDone
  /-- DEVICE_MESSAGE_SEND (R40). -/
  | deviceMessageSend
  /-- RSTCTL_WARM_RESET (R33). -/
  | rstctlWarmReset
  /-- RSTCTL_COLD_RESET (R33). -/
  | rstctlColdReset
  /-- POWER_ON (R34). -/
  | powerOn
  /-- NMPCTL_HOLD_SET (R57). -/
  | nmpctlHoldSet
  /-- HOLD_ESTABLISHED (R57). -/
  | holdEstablished
  /-- NMPCTL_RESYNC (R57). -/
  | nmpctlResync
  /-- NMPCTL_HOLD_RELEASE (R57). -/
  | nmpctlHoldRelease
  /-- NMPCTL_RESEND (R41). -/
  | nmpctlResend
  /-- RESEND_START (R41). -/
  | resendStart
  /-- ADDER_ELEMENT (R20). -/
  | adderElement
  /-- THERMAL_TRIP (R28). -/
  | thermalTrip
  /-- FIRMWARE_FATAL (R23). -/
  | firmwareFatal
  /-- BANK_WAKE_DONE (R29). -/
  | bankWakeDone
  /-- FABRIC_LOAD_BIND (R78). -/
  | fabricLoadBind
  /-- BIND_COMPLETE (R102). -/
  | bindComplete
  /-- YIELD_SAVE_DONE (R88). -/
  | yieldSaveDone
  /-- SPAN_WRAP (R103). -/
  | spanWrap
  /-- SCHEDULE_SWITCH_END (R104). -/
  | scheduleSwitchEnd
  /-- ROUND_BOUNDARY (R120). -/
  | roundBoundary
  /-- ROUND_START (R120). -/
  | roundStart
  /-- ROUND_COMMIT (R121). -/
  | roundCommit
  /-- COMMIT_EPOCH_PERFORM (R171). -/
  | commitEpochPerform
  /-- ROUND_LIMIT_EXPIRY (R87). -/
  | roundLimitExpiry
  /-- REPLAY_START (R123). -/
  | replayStart
  /-- WINDOW_CLOSE (R113). -/
  | windowClose
  /-- FREEZE_BOUND_EXPIRY (R113). -/
  | freezeBoundExpiry
  /-- WINDOWED_RESULT_ARRIVAL (R113). -/
  | windowedResultArrival
  /-- FREEZE_RELEASE (R111). -/
  | freezeRelease
  /-- TOKEN_ARRIVAL (R115). -/
  | tokenArrival
  /-- HANDLER_TOKEN_ARRIVAL (R117). -/
  | handlerTokenArrival
  /-- HANDLER_WRITE_EFFECT (R336). -/
  | handlerWriteEffect
  /-- KEYSTONE_ARRIVAL (R118). -/
  | keystoneArrival
  /-- KEYSTONE_PASS (R119). -/
  | keystonePass
  /-- BARRIER_ARRIVAL (R366). -/
  | barrierArrival
  /-- DEBUG_BREAK_TIMEOUT (R257). -/
  | debugBreakTimeout
  /-- STREAM_READ_REPLY (R343). -/
  | streamReadReply
  /-- HEPR_BEAT_FETCH (R345). -/
  | heprBeatFetch
  /-- RMW_PERFORM (R177). -/
  | rmwPerform
  /-- RMW_RETURN (R357). -/
  | rmwReturn
  /-- COPY_COMPLETE (R351). -/
  | copyComplete
  /-- SLOT_PORT_EFFECT (R392). -/
  | slotPortEffect
  /-- NODE_OPERATION_LAND (R394). -/
  | nodeOperationLand
  /-- SOFT_TOKEN_COMPLETE (R229). -/
  | softTokenComplete
  /-- FOLD_COMPLETE (R403). -/
  | foldComplete
  /-- NOP (R310). -/
  | nop
  /-- HALTS (R328). -/
  | halts
  /-- ENDP (R329). -/
  | endp
  /-- KEYS (R368). -/
  | keys
  /-- HALT (R417). -/
  | halt
  /-- FIRMWARE_INITIATED_RESET (R33). -/
  | firmwareInitiatedReset
  /-- PASS_THROUGH (R109). -/
  | passThrough
  deriving DecidableEq, Repr

end Sys2Proof
end

