-- ==== Sys2Proof/WellFormed.lean ====
section
/-! DEFINITION. The checks on one entry word that need its element's kind and format word alone
(R295, R296, R300, R301, R304 steps 2 to 7, R309, and the limits of the instruction chapters). -/

namespace Sys2Proof

open Sys2Proof.Machine

/-- The kind of an element (R94). -/
inductive Kind where
  | ce
  | me
  deriving DecidableEq, Repr

/-- Why a word is refused, by the steps of R304. -/
inductive Bad where
  | kind      -- step 2
  | field     -- step 3
  | reserved  -- step 4
  | code      -- step 5
  | role      -- step 6
  | limit     -- step 7
  deriving DecidableEq, Repr

/-- What an operand field of an instruction may name (R295, R296). -/
inductive Role where
  | unused   -- the field is not used: it must be 0
  | src      -- any source
  | dst      -- any destination
  | wdst     -- g, k, p or z (R309, R323)
  | pred     -- a predicate destination
  | gk       -- g or k
  | gz       -- g0 to g15 or z (R342)
  | greg     -- g0 to g15 (R349, R355)
  | nodst    -- a destination that is no predicate (R314)
  | mdst     -- g, k, p, z or out (R390)
  | msrc     -- any source, but in an ME g, z and the read-only codes alone (R401)
  | sdst     -- any destination, but in an ME g, z and its partner's predicates alone (R401)
  | lit      -- a literal, checked by the instruction's limits
  deriving DecidableEq, Repr

/-- The codes of R296 that no entry may name. -/
def codeReserved (c : Nat) : Bool := (88 ≤ c && c ≤ 95) || 104 ≤ c

def codeG (k : Kind) (c : Nat) : Bool := c < 16 || (k == .ce && c < 32)
def codeK (k : Kind) (c : Nat) : Bool := k == .ce && 32 ≤ c && c < 64
def codeIn (c : Nat) : Bool := 64 ≤ c && c < 68
def codeOut (c : Nat) : Bool := 68 ≤ c && c < 72
def codeZ (c : Nat) : Bool := c == 72
def codeRo (c : Nat) : Bool := 73 ≤ c && c < 80
def codeC (k : Kind) (c : Nat) : Bool := k == .ce && 80 ≤ c && c < 88
def codeP (c : Nat) : Bool := 96 ≤ c && c < 104

/-- A code that a source field may hold in an element of a kind (R296). -/
def isSrc (k : Kind) (c : Nat) : Bool :=
  codeG k c || codeK k c || codeIn c || codeZ c || codeRo c || codeC k c || codeP c

/-- A code that a destination field may hold (R296). -/
def isDst (k : Kind) (c : Nat) : Bool := codeG k c || codeK k c || codeOut c || codeZ c || codeP c

/-- Whether code c meets a role in an element of kind k. -/
def Role.ok (k : Kind) (r : Role) (c : Nat) : Bool :=
  match r with
  | .unused => c == 0
  | .src => isSrc k c
  | .dst => isDst k c
  | .wdst => codeG k c || codeK k c || codeZ c || codeP c
  | .pred => codeP c
  | .gk => codeG k c || codeK k c
  | .gz => c < 16 || codeZ c
  | .greg => c < 16
  | .nodst => codeG k c || codeK k c || codeOut c || codeZ c
  | .mdst => codeG k c || codeK k c || codeOut c || codeZ c || codeP c
  | .msrc => isSrc k c && (k == .ce || c < 16 || codeZ c || codeRo c)
  | .sdst => isDst k c && (k == .ce || c < 16 || codeZ c || codeP c)
  | .lit => true

/-- Whether a field of this role holds an operand code. -/
def Role.isCode : Role → Bool
  | .unused => false
  | .lit => false
  | _ => true

/-- Which kinds an opcode lists (R302). -/
inductive Kinds where
  | both
  | ce
  | me
  deriving DecidableEq, Repr

def Kinds.has : Kinds → Kind → Bool
  | .both, _ => true
  | .ce, k => k == .ce
  | .me, k => k == .me

/-- The first of a list of named conditions that fails. -/
def firstBad : List (Bool × Bad) → Option Bad
  | [] => none
  | (ok, b) :: t => if ok then firstBad t else some b

/-- Roles of up to three operand fields: unused ones are 0, codes exist, roles are met. -/
def rolesBad (k : Kind) (l : List (Role × Nat)) : List (Bool × Bad) :=
  [(l.all (fun p => p.1 != .unused || p.2 == 0), .reserved),
   (l.all (fun p => !p.1.isCode || !codeReserved p.2), .code),
   (l.all (fun p => p.1.ok k p.2), .role)]

/-- Format T: kinds, roles of D, A, B, the types accepted, the SUB values accepted, and the
instruction's own limit. -/
def chkT (ks : Kinds) (k : Kind) (f : FT) (d a b : Role) (tys : List Nat) (sub : Nat → Bool) (lim : Bool) :
    Option Bad :=
  firstBad <|
    [(ks.has k, .kind),
     (f.ty.toNat < 14 && (k == .ce || f.ty.toNat < 2), .field),
     ((a != .unused || f.am == 0#3) && ((b != .unused && b != .lit) || f.bm == 0#3), .reserved)] ++
    rolesBad k [(d, f.d.toNat), (a, f.a.toNat), (b, f.b.toNat)] ++
    [(tys.contains f.ty.toNat && sub f.sub.toNat && lim, .limit)]

/-- Format F. -/
def chkF (ks : Kinds) (k : Kind) (f : FF) (tys : List Nat) (float : Bool) : Option Bad :=
  firstBad <|
    [(ks.has k, .kind), (!float || f.ty3.toNat < 4, .field)] ++
    rolesBad k [(.dst, f.d.toNat), (.src, f.a.toNat), (.src, f.b.toNat), (.src, f.c.toNat)] ++
    [(tys.contains f.ty3.toNat, .limit)]

/-- Format I. -/
def chkI (ks : Kinds) (k : Kind) (f : FI) (d a : Role) (rsv lim : Bool) : Option Bad :=
  firstBad <|
    [(ks.has k, .kind), (rsv, .reserved)] ++ rolesBad k [(d, f.d.toNat), (a, f.a.toNat)] ++ [(lim, .limit)]

/-- Format M. -/
def chkM (ks : Kinds) (k : Kind) (f : FM) (d : Role) (rsv lim : Bool) : Option Bad :=
  firstBad <| [(ks.has k, .kind), (rsv, .reserved)] ++ rolesBad k [(d, f.d.toNat)] ++ [(lim, .limit)]

/-- Format W: a window of 1 to 511 and a mode other than 11 (R294). -/
def chkW (ks : Kinds) (k : Kind) (f : FW) (d a b : Role) (sub : Nat → Bool) (lim : Bool) : Option Bad :=
  firstBad <|
    [(ks.has k, .kind), (f.win != 0#9 && f.wm != 3#2, .field)] ++
    rolesBad k [(d, f.d.toNat), (a, f.a.toNat), (b, f.b.toNat)] ++ [(sub f.sub.toNat && lim, .limit)]

/-- Format X: bits [6:0] are 0 (R304). -/
def chkX (k : Kind) (f : FX) (d : Role) (rsv lim : Bool) : Option Bad :=
  firstBad <|
    [(k == .ce, .kind), (f.rsv == 0#7 && rsv, .reserved)] ++ rolesBad k [(d, f.d.toNat)] ++ [(lim, .limit)]

/-- Format K. -/
def chkK (ks : Kinds) (k : Kind) (f : FK) (d a : Role) (rsv lim : Bool) : Option Bad :=
  firstBad <|
    [(ks.has k, .kind), (rsv, .reserved)] ++ rolesBad k [(d, f.d.toNat), (a, f.a.toNat)] ++ [(lim, .limit)]

/-- Bits [hi:lo] of a PARAM21, IMM21 or OFF21 are 0. -/
def zero21 (p : BitVec 21) (hi lo : Nat) : Bool := bitsOf p hi lo == 0

def tysInt : List Nat := [0, 1, 2, 3, 4, 5, 6, 7]
def tysSgn : List Nat := [0, 2, 4, 6]
def tysFlt : List Nat := [8, 9, 10, 11, 12]

/-- Lanes of a type (R198). -/
def tyLanes (ty : Nat) : Nat := 32 / tyWidth ty

/-- MFA of a format word (R209). -/
def cfMfa (cf : Word) : Nat := bitsOf cf 3 0
def cfMfb (cf : Word) : Nat := bitsOf cf 6 4
def cfRnd (cf : Word) : Nat := bitsOf cf 9 7
def cfCvf (cf : Word) : Nat := bitsOf cf 12 10
def cfBfe (cf : Word) : Bool := bitAt cf 13
def cfBfk (cf : Word) : Nat := bitsOf cf 15 14

/-- K of the tile formats (R389). -/
def tileK (mf : Nat) : Nat :=
  match mf with
  | 0 => 64 | 1 => 32 | 2 => 32 | 3 => 16 | _ => 4

/-- The counter events of R259. -/
def evtKnown (e : Nat) : Bool :=
  e ≤ 0x0A || (0x10 ≤ e && e ≤ 0x18) || (0x20 ≤ e && e ≤ 0x22) || e == 0x30 || e == 0x31 ||
  (0x38 ≤ e && e ≤ 0x3A)

/-- The STKQ fields of R409. -/
def stkqKnown (i : Nat) : Bool := i < 40 || (64 ≤ i && i ≤ 71)

/-- An operand code embedded in the PARAM21 of an ME's entry of chapter 16 is a source of it (R401). -/
def embeddedM (k : Kind) (c : Nat) : Bool := Role.ok k .msrc c && !codeReserved c

/-- An operand code embedded in a PARAM21 or OFF21 is a source (R401). -/
def embedded (k : Kind) (c : Nat) : Bool := isSrc k c && !codeReserved c

/-- The check of one entry in an element of kind k under format word cf: the first step of R304 that
fails. A constructor that is no entry is never in a schedule (DEDUCED, log 20). -/
def Instr.bad (k : Kind) (cf : Word) : Instr → Option Bad
  | .nop => none
  | .mov f => chkT .both k f .dst .src .unused [0] (· == 0) true
  | .movi f => chkI .both k f .dst .unused true true
  | .movhi f => chkI .both k f .dst .src true true
  | .add f => chkT .both k f .dst .src .src tysInt (· == 0) true
  | .addi f => chkI .both k f .dst .src true true
  | .sub f => chkT .both k f .dst .src .src tysInt (· == 0) true
  | .adds f => chkT .ce k f .dst .src .src tysInt (· == 0) true
  | .subs f => chkT .ce k f .dst .src .src tysInt (· == 0) true
  | .neg f => chkT .ce k f .dst .src .unused tysSgn (· < 2) true
  | .abs f => chkT .ce k f .dst .src .unused tysSgn (· < 2) true
  | .min f => chkT .ce k f .dst .src .src tysInt (· == 0) true
  | .max f => chkT .ce k f .dst .src .src tysInt (· == 0) true
  | .mul f => chkT .ce k f .dst .src .src tysInt (· == 0) true
  | .mulh f => chkT .ce k f .dst .src .src tysInt (· == 0) true
  | .mad f => chkF .ce k f tysInt false
  | .div f => chkW .ce k f .wdst .src .src (· < 2) true
  | .rem f => chkW .ce k f .wdst .src .src (· < 2) true
  | .andW f => chkT .both k f .dst .src .src [0] (· == 0) true
  | .orW f => chkT .both k f .dst .src .src [0] (· == 0) true
  | .xorW f => chkT .both k f .dst .src .src [0] (· == 0) true
  | .andn f => chkT .both k f .dst .src .src [0] (· == 0) true
  | .andi f => chkI .both k f .dst .src true true
  | .ori f => chkI .both k f .dst .src true true
  | .xori f => chkI .both k f .dst .src true true
  | .shl f => chkT .both k f .dst .src .src tysInt (· == 0) true
  | .shr f => chkT .both k f .dst .src .src tysInt (· == 0) true
  | .shra f => chkT .both k f .dst .src .src tysInt (· == 0) true
  | .rot f => chkT .ce k f .dst .src .src tysInt (· == 0) true
  | .shi f => chkI .both k f .dst .src (zero21 f.imm 20 7) (k == .ce || bitsOf f.imm 6 5 != 3)
  | .clz f => chkT .ce k f .dst .src .unused tysInt (· == 0) true
  | .popc f => chkT .ce k f .dst .src .unused tysInt (· == 0) true
  | .brev f => chkT .ce k f .dst .src .unused tysInt (· == 0) true
  | .bfx f => chkI .ce k f .dst .src (zero21 f.imm 20 11) (bitsOf f.imm 4 0 + bitsOf f.imm 9 5 + 1 ≤ 32)
  | .bfi f => chkI .ce k f .gk .src (zero21 f.imm 20 10) (bitsOf f.imm 4 0 + bitsOf f.imm 9 5 + 1 ≤ 32)
  | .cmp f => chkT .ce k f .pred .src .src tysInt (fun _ => true) true
  | .sel f => chkF .ce k f tysInt false
  | .pset f => chkK .ce k f .unused (if bitsOf f.param 17 16 == 2 then .src else .unused)
      (zero21 f.param 20 18 && (bitsOf f.param 17 16 == 0 || zero21 f.param 15 8)) (bitsOf f.param 17 16 != 3)
  | .lea f => chkT .both k f .dst .src .src [0] (· < 5) true
  | .addc f => chkT .ce k f .nodst .src .src [0] (fun s => s % 8 != 0) true
  | .pack f => chkT .ce k f .dst .src .src [2, 3, 4, 5, 6, 7] (· < 2) true
  | .unpk f => chkT .ce k f .dst .src .unused [2, 3, 4, 5, 6, 7] (· < 2) true
  | .shuf f => chkI .ce k f .dst .src true
      (zero21 f.imm 20 16 && (List.range 4).all (fun j => bitsOf f.imm (4 * j + 3) (4 * j) < 6))
  | .dot4 f => chkF .ce k f [4, 5] false
  | .dot2 f => chkF .ce k f [2, 3] false
  | .cnti f => chkK .ce k f .unused .src (zero21 f.param 20 5)
      (!(bitsOf f.param 4 3 == 3 && bitsOf f.param 2 0 == 0))
  | .cnts f => chkK .ce k f .unused .src (zero21 f.param 20 4) true
  | .cntv f => chkK .ce k f .unused .unused (zero21 f.param 20 8) true
  | .cntt f => chkK .ce k f .wdst .unused (zero21 f.param 20 5) (bitsOf f.param 4 3 != 3)
  | .sws f => chkK .ce k f .unused .unused (zero21 f.param 20 1) true
  | .rotb f => chkK .ce k f .unused (if bitAt f.param 5 then .src else .unused)
      (zero21 f.param 20 6 && (!bitAt f.param 5 || zero21 f.param 4 0)) true
  | .toks f => chkK .both k f .unused .unused (zero21 f.param 20 6) true
  | .tokw f => chkW .both k f .unused .unused .lit (· == 0) (f.b.toNat < 64)
  | .tokt f => chkK .both k f .wdst .unused (zero21 f.param 20 6) true
  | .loopb f => chkK .ce k f .unused .unused (zero21 f.param 20 10) (bitAt f.param 9 || zero21 f.param 8 6)
  | .loope f => chkK .ce k f .unused .unused (zero21 f.param 20 16) (bitAt f.param 15 || zero21 f.param 11 6)
  | .halts => none
  | .waitw f => chkW .both k f .wdst .unused .lit (· == 0)
      (!bitAt f.b 3 && bitsOf f.b 6 4 < 4 && (bitsOf f.b 6 4 ≥ 2 || bitsOf f.b 2 0 < 4) &&
       (bitsOf f.b 6 4 < 2 || k == .me))
  | .latch f => chkW .both k f .wdst .unused .lit (· == 0) (f.b.toNat < 4)
  | .endp => none
  | .handl f => chkK .ce k f .unused .src (zero21 f.param 20 4) true
  | .ldl f => chkM .me k f .dst (!bitAt f.mode 2 && zero21 f.off 20 18 && (bitAt f.mode 3 || f.strm == 0#3))
      (bitsOf f.mode 1 0 != 3)
  | .stl f => chkM .me k f .src (!bitAt f.mode 2 && zero21 f.off 20 18 && (bitAt f.mode 3 || f.strm == 0#3))
      (bitsOf f.mode 1 0 != 3)
  | .lds f => chkM .me k f .gz (zero21 f.off 20 20) (!bitAt f.off 18 || bitsOf f.mode 1 0 != 0)
  | .sts f => chkM .me k f .gz (zero21 f.off 20 20 && zero21 f.off 18 18) true
  | .sopen f => chkK .me k f .unused .src true (!bitAt f.param 4 || zero21 f.param 20 5)
  | .smark f => chkM .me k f .unused (f.mode == 0#4 && f.off == 0#21) true
  | .srew f => chkM .me k f .unused (f.mode == 0#4) true
  | .sclose f => chkM .me k f .unused (f.mode == 0#4 && f.off == 0#21) true
  | .fpush f => chkM .me k f .src (f.strm == 0#3 && f.off == 0#21) true
  | .fpop f => chkM .me k f .dst (f.strm == 0#3 && f.off == 0#21) true
  | .lbsh f => chkM .me k f .src (f.strm == 0#3 && f.off == 0#21) true
  | .lbrd f => chkM .me k f .dst true (bitAt f.off 20 || bitAt f.off 19 || zero21 f.off 18 15)
  | .cpy f => chkK .me k f .unused .greg (zero21 f.param 20 4) true
  | .cpyw f => chkW .me k f .wdst .unused .lit (· == 0) (f.b.toNat < 16)
  | .cpyt f => chkK .me k f .unused .greg (zero21 f.param 20 4) true
  | .gath f => chkM .me k f .greg true true
  | .scat f => chkM .me k f .greg true true
  | .rmw f => chkM .me k f .src (!bitAt f.off 18) (f.mode.toNat < 10 && (f.mode.toNat != 7 || bitAt f.off 20))
  | .red f => chkM .ce k f .dst (f.strm == 0#3 && zero21 f.off 20 12 && (bitAt f.off 4 || zero21 f.off 11 5))
      (f.mode.toNat < 11 && (!bitAt f.off 4 || embedded k (bitsOf f.off 11 5)) &&
       2 ≤ (if bitAt f.off 0 then 1 else 0) + (if bitAt f.off 1 then 1 else 0) + (if bitAt f.off 2 then 1 else 0) +
         (if bitAt f.off 3 then 1 else 0) + (if bitAt f.off 4 then 1 else 0))
  | .cmo f => chkK .me k f .unused .src (zero21 f.param 20 6) (bitsOf f.param 4 3 != 3)
  | .retn f => chkK .me k f .unused .src (zero21 f.param 20 6) true
  | .unpin f => chkK .me k f .unused .unused (zero21 f.param 20 3) true
  | .hint f => chkM .me k f .unused (!bitAt f.mode 2 && !bitAt f.mode 3 && f.off == 0#21) (f.mode.toNat != 3)
  | .pref f => chkM .me k f .unused (f.mode == 0#4 && zero21 f.off 20 8) true
  | .hepr f => chkM .me k f .dst (f.mode.toNat < 2 && f.off == 0#21) true
  | .hepw f => chkM .me k f .src (f.mode == 0#4 && f.off == 0#21) true
  | .stag f => chkM .me k f .src (f.strm == 0#3 && f.off == 0#21) true
  | .bufsw f => chkM .me k f .unused (f.strm == 0#3 && f.off == 0#21) true
  | .sbar f => chkK .me k f .unused .unused (zero21 f.param 20 16) true
  | .fence f => chkK .me k f .unused .unused (zero21 f.param 20 3) (bitsOf f.param 2 0 < 5)
  | .bara f => chkK .both k f .unused .unused (zero21 f.param 20 6) (bitsOf f.param 5 4 != 3)
  | .barw f => chkW .both k f .wdst .unused .lit (· == 0) (f.b.toNat < 16)
  | .bart f => chkK .both k f .dst .unused (zero21 f.param 20 4) true
  | .keys => if k == .ce then none else some .kind
  | .keyw f => chkW .both k f .wdst .unused .lit (· == 0) (f.b.toNat < 4)
  | .acq f => chkK .me k f .unused (if bitAt f.param 9 then .src else .unused)
      (zero21 f.param 20 10 && (bitAt f.param 9 || zero21 f.param 8 6)) (2 ≤ bitsOf f.param 2 0 && bitsOf f.param 2 0 ≤ 4)
  | .rel f => chkK .me k f .unused (if bitAt f.param 9 then .src else .unused)
      (zero21 f.param 20 10 && (bitAt f.param 9 || zero21 f.param 8 6)) (2 ≤ bitsOf f.param 2 0 && bitsOf f.param 2 0 ≤ 4)
  | .drain f => chkW .me k f .wdst .unused .lit (· == 0) (f.b.toNat < 16 && (f.b.toNat < 9))
  | .fadd f => chkT .ce k f .dst .src .src tysFlt (· < 5) true
  | .fsub f => chkT .ce k f .dst .src .src tysFlt (· < 5) true
  | .fmul f => chkT .ce k f .dst .src .src tysFlt (· < 5) true
  | .fma f => chkF .ce k f [0, 1, 2, 3] true
  | .fmin f => chkT .ce k f .dst .src .src tysFlt (· < 2) true
  | .fmax f => chkT .ce k f .dst .src .src tysFlt (· < 2) true
  | .fabs f => chkT .ce k f .dst .src .unused tysFlt (· == 0) true
  | .fneg f => chkT .ce k f .dst .src .unused tysFlt (· == 0) true
  | .fcmp f => chkT .ce k f .pred .src .src tysFlt (fun _ => true) true
  | .fcls f => chkT .ce k f .dst .src .unused tysFlt (· == 0) true
  | .fdiv f => chkW .ce k f .wdst .src .src (· < 5) true
  | .fsqrt f => chkW .ce k f .wdst .src .unused (· < 5) true
  | .fex2 f => chkT .ce k f .dst .src .unused [8] (· == 0) true
  | .flg2 f => chkT .ce k f .dst .src .unused [8] (· == 0) true
  | .frnd f => chkT .ce k f .dst .src .unused tysFlt (· < 5) true
  | .cvt f => chkT .ce k f .dst .src .lit [8, 9, 10, 11, 12, 13] (· < 5)
      (8 ≤ bitsOf f.b 3 0 && bitsOf f.b 3 0 ≤ 13 && bitsOf f.b 3 0 != f.ty.toNat && bitsOf f.b 6 4 < tyLanes f.ty.toNat)
  | .cvti f => chkT .ce k f .dst .src .lit tysFlt (· < 5)
      (bitsOf f.b 3 0 < 8 && bitsOf f.b 6 4 < tyLanes f.ty.toNat)
  | .cvtf f => chkT .ce k f .dst .src .lit tysInt (· < 5)
      (8 ≤ bitsOf f.b 3 0 && bitsOf f.b 3 0 ≤ 12 && bitsOf f.b 6 4 < tyLanes f.ty.toNat)
  | .qnt f => chkF .ce k f [0, 1, 2] true
  | .dqnt f => chkF .ce k f [0] true
  | .bsc f => chkT .ce k f (if f.sub == 0#4 then .unused else .dst) .src (if f.sub == 0#4 then .src else .unused) [0] (· < 3) true
  | .hdrw f => chkT .ce k f .dst .src .unused [0] (· == 0) true
  | .hdrr f => chkT .ce k f .dst .src .unused [0] (· < 7) true
  | .bfly f => chkT .ce k f .unused .unused .unused [0] (· < 8) (cfBfe cf && f.sub.toNat < 4 + cfBfk cf)
  | .fsum f => chkT .ce k f .dst .src .src tysFlt (· < 5) true
  | .fdot f => chkF .ce k f [1, 2, 3] true
  | .fmaxa f => chkT .ce k f .dst .src .src tysFlt (· == 0) true
  | .fscl f => chkT .ce k f .dst .src .src tysFlt (· < 5) true
  | .mclm f => chkX k f .mdst (f.bsl == 0#6 && f.acc == 0#2 && f.opt == 0#3) (f.asl.toNat + f.shp.toNat < 64)
  | .mrel f => chkX k f .unused (f.bsl == 0#6 && f.acc == 0#2 && f.opt == 0#3) (f.asl.toNat + f.shp.toNat < 64)
  | .mld f => chkX k f .gk (f.bsl.toNat < 4 && f.acc == 0#2 && f.shp == 0#4 && f.opt.toNat < 4) true
  | .mst f => chkX k f .unused (f.bsl == 0#6 && f.shp == 0#4 && f.opt.toNat < 4) (f.opt.toNat != 3)
  | .mzro f => chkX k f .unused (f.asl == 0#6 && f.bsl == 0#6 && f.shp == 0#4 && f.opt == 0#3) true
  | .mma f => chkX k f .unused (f.shp.toNat < 4 && f.opt.toNat < 2)
      (f.shp == 0#4 || (cfMfa cf == 4 && cfMfb cf == 4))
  | .mmas f => chkX k f .gk (f.shp == 0#4)
      (bitsOf f.opt 2 1 != 3 && tileK (cfMfa cf) % (16 * 2 ^ bitsOf f.opt 2 1) == 0)
  | .mout f => chkX k f .gk (f.asl == 0#6 && f.bsl.toNat < 4 && f.shp == 0#4 && f.opt.toNat < 4) true
  | .mtrn f => chkX k f .unused (f.acc == 0#2 && f.shp.toNat < 4 && f.opt.toNat < 2) (f.shp == 0#4 || cfMfa cf == 4)
  | .mctr f => chkX k f .unused (f.shp == 0#4)
      (bitsOf f.opt 1 0 != 3 && f.acc != 3#2 && f.bsl.toNat + (if cfMfa cf == 4 then 4 else 2) ≤ 64)
  | .msrt f => chkX k f .unused (f.bsl == 0#6 && f.acc == 0#2 && f.shp.toNat < 4 && f.opt.toNat < 2) (f.shp.toNat != 3)
  | .mkey f => chkX k f .mdst (f.asl == 0#6 && f.bsl == 0#6 && f.acc == 0#2 && f.shp == 0#4 && f.opt.toNat < 4) true
  | .macc f => chkX k f .mdst
      (f.shp == 0#4 && f.opt.toNat < 2 && (if f.opt == 0#3 then f.bsl.toNat < 4 else f.asl == 0#6 && f.bsl.toNat < 32)) true
  | .folb f => chkK .me k f .unused .unused (zero21 f.param 20 2) true
  | .folv f => chkK .me k f .sdst .unused (zero21 f.param 20 2) true
  | .fold f => chkM .me k f .msrc (f.strm == 0#3 && f.mode.toNat < 4 && zero21 f.off 20 18) true
  | .folm f => chkX k f .gk (f.bsl == 0#6 && f.shp == 0#4 && f.opt.toNat < 4) true
  | .folc f => chkK .me k f .sdst .unused (zero21 f.param 20 2) true
  | .folr f => chkK .me k f .unused .unused (zero21 f.param 20 2) true
  | .foli f => chkK .me k f .unused .unused (zero21 f.param 20 2) true
  | .folq f => chkK .me k f .sdst .unused (zero21 f.param 20 9) (bitsOf f.param 8 2 < 16)
  | .rowopen f => chkK .me k f .unused .unused (zero21 f.param 20 6) true
  | .rowhold f => chkK .me k f .sdst .unused (zero21 f.param 20 6) true
  | .rowrel f => chkK .me k f .unused .unused (zero21 f.param 20 6) true
  | .rowrd f => chkM .me k f .wdst (f.strm == 0#3 && zero21 f.off 20 16) (bitsOf f.mode 3 2 != 3 && zero21 f.off 1 0)
  | .rowwr f => chkM .me k f .msrc (f.strm == 0#3 && f.mode == 0#4 && zero21 f.off 20 16) (zero21 f.off 1 0)
  | .rowq f => chkK .me k f .sdst .unused (zero21 f.param 20 6) true
  | .stkh f => chkK .me k f .unused .msrc (zero21 f.param 20 15)
      (bitsOf f.param 4 3 != 3 && (bitsOf f.param 14 5 + 1) * 16 * (if bitsOf f.param 4 3 == 0 then 4 else 2) ≤ 32768)
  | .stkm f => chkK .me k f .unused .msrc (zero21 f.param 20 7) true
  | .stka f => chkK .me k f .sdst .msrc (zero21 f.param 20 10) (embeddedM k (bitsOf f.param 9 3))
  | .stkn f => chkK .me k f .sdst .unused (zero21 f.param 20 3) true
  | .stke f => chkM .me k f .gz (!bitAt f.mode 3 && zero21 f.off 20 18) true
  | .stkq f => chkK .me k f .sdst .unused (zero21 f.param 20 10)
      (stkqKnown (bitsOf f.param 9 3) && (bitsOf f.param 9 3 < 64 || zero21 f.param 2 0))
  | .collapse f => chkK .me k f .sdst (if bitsOf f.param 4 3 == 1 then .msrc else .unused) (zero21 f.param 20 8)
      (bitsOf f.param 4 3 != 3 && (bitsOf f.param 7 5 != 0 || f.d == 72#7))
  | .gmsk f => chkK .me k f .unused .unused (zero21 f.param 20 3) true
  | .gstp f => chkK .me k f .unused (if bitAt f.param 0 then .unused else .msrc) (zero21 f.param 20 1) true
  | .vtxt f => chkW .me k f .wdst .msrc .msrc (· == 0) true
  | .stopStr f => chkK .me k f .unused .msrc (zero21 f.param 20 0) true
  | .plog f => chkK .me k f .unused .unused (zero21 f.param 20 3) true
  | .phsh f => chkW .me k f .wdst .msrc .msrc (· < 3) true
  | .prpl f => chkK .me k f .unused .msrc (zero21 f.param 20 10) (embeddedM k (bitsOf f.param 9 3))
  | .trap f => chkK .both k f .unused (if bitAt f.param 16 then .msrc else .unused)
      (zero21 f.param 20 17 && (!bitAt f.param 16 || zero21 f.param 15 0)) true
  | .idnt f => chkK .both k f .sdst .unused (zero21 f.param 20 3) (bitsOf f.param 2 0 < 6)
  | .time f => chkK .both k f .sdst .unused (zero21 f.param 20 2) true
  | .pmcf f => chkK .both k f .unused (if bitAt f.param 2 then .unused else .msrc)
      (zero21 f.param 20 12 && (bitAt f.param 2 || zero21 f.param 11 3)) (!bitAt f.param 2 || evtKnown (bitsOf f.param 11 4))
  | .pmrd f => chkK .both k f .sdst .unused (zero21 f.param 20 4) true
  | .pmwr f => chkK .both k f .unused .msrc (zero21 f.param 20 4) (bitsOf f.param 3 0 < 8 || 12 ≤ bitsOf f.param 3 0)
  | .rngs f => chkK .both k f (if bitAt f.param 2 then .sdst else .unused) (if bitAt f.param 2 then .unused else .msrc)
      (zero21 f.param 20 3 && (!bitAt f.param 2 || zero21 f.param 1 0)) true
  | .cfgr f => chkK .both k f .sdst .unused (zero21 f.param 20 4) (bitsOf f.param 3 0 < 12)
  | .dbrk f => chkK .both k f .unused .unused (zero21 f.param 20 16) true
  | .halt => none
  | .fltm f => chkK .both k f .unused .unused (zero21 f.param 20 3) (bitsOf f.param 2 1 != 0)
  | .sigq f => chkK .both k f .sdst .unused (zero21 f.param 20 4) true
  | _ => some .kind

/-- An entry that passes steps 2 to 7 of R304 in an element of kind k under format word cf. -/
def Instr.WellFormed (k : Kind) (cf : Word) (i : Instr) : Bool := (i.bad k cf).isNone

end Sys2Proof
end

