-- ==== Sys2Proof/Decode.lean ====
section
/-! DEFINITION. The entry word to the bit (R291, R294, R302, R303), the host messages to the byte (R37, R45),
the sideband writes (R32, R56, R256), and their encoders. -/

namespace Sys2Proof

open Sys2Proof.Machine

/-- An entry of a schedule: the common header and the instruction (R291). -/
structure Entry where
  stamp : BitVec 12
  pred  : BitVec 3
  pn    : BitVec 1
  rcx   : BitVec 5
  instr : Instr
  deriving DecidableEq, Repr

/-- Why a word is no entry (R303, R304 steps 1 and 4). -/
inductive Reject where
  | reservedOpcode
  | illegalOpcode
  | reservedBits
  deriving DecidableEq, Repr

/-- Payload bits [34:0] of format T (R294). -/
def unT (p : BitVec 35) : FT :=
  ⟨p.extractLsb' 28 7, p.extractLsb' 21 7, p.extractLsb' 18 3, p.extractLsb' 11 7, p.extractLsb' 8 3,
   p.extractLsb' 4 4, p.extractLsb' 0 4⟩
/-- Format F. -/
def unF (p : BitVec 35) : FF :=
  ⟨p.extractLsb' 28 7, p.extractLsb' 21 7, p.extractLsb' 19 2, p.extractLsb' 12 7, p.extractLsb' 10 2,
   p.extractLsb' 3 7, p.extractLsb' 0 3⟩
/-- Format I. -/
def unI (p : BitVec 35) : FI := ⟨p.extractLsb' 28 7, p.extractLsb' 21 7, p.extractLsb' 0 21⟩
/-- Format M. -/
def unM (p : BitVec 35) : FM :=
  ⟨p.extractLsb' 28 7, p.extractLsb' 25 3, p.extractLsb' 21 4, p.extractLsb' 0 21⟩
/-- Format W. -/
def unW (p : BitVec 35) : FW :=
  ⟨p.extractLsb' 28 7, p.extractLsb' 21 7, p.extractLsb' 14 7, p.extractLsb' 5 9, p.extractLsb' 3 2,
   p.extractLsb' 0 3⟩
/-- Format X. -/
def unX (p : BitVec 35) : FX :=
  ⟨p.extractLsb' 29 6, p.extractLsb' 23 6, p.extractLsb' 21 2, p.extractLsb' 17 4, p.extractLsb' 14 3,
   p.extractLsb' 7 7, p.extractLsb' 0 7⟩
/-- Format K. -/
def unK (p : BitVec 35) : FK := ⟨p.extractLsb' 28 7, p.extractLsb' 21 7, p.extractLsb' 0 21⟩

/-- The payload of format T. -/
def pkT (f : FT) : BitVec 35 := f.d ++ f.a ++ f.am ++ f.b ++ f.bm ++ f.ty ++ f.sub
/-- Format F. -/
def pkF (f : FF) : BitVec 35 := f.d ++ f.a ++ f.am ++ f.b ++ f.bm ++ f.c ++ f.ty3
/-- Format I. -/
def pkI (f : FI) : BitVec 35 := f.d ++ f.a ++ f.imm
/-- Format M. -/
def pkM (f : FM) : BitVec 35 := f.d ++ f.strm ++ f.mode ++ f.off
/-- Format W. -/
def pkW (f : FW) : BitVec 35 := f.d ++ f.a ++ f.b ++ f.win ++ f.wm ++ f.sub
/-- Format X. -/
def pkX (f : FX) : BitVec 35 := f.asl ++ f.bsl ++ f.acc ++ f.shp ++ f.opt ++ f.d ++ f.rsv
/-- Format K. -/
def pkK (f : FK) : BitVec 35 := f.d ++ f.a ++ f.param

/-- The opcodes of the map (R302). -/
def opcKnown (o : Nat) : Bool :=
  o ≤ 0x2C || (0x40 ≤ o && o ≤ 0x4F) || (0x60 ≤ o && o ≤ 0x7B) || (0x80 ≤ o && o ≤ 0x89) || (0x90 ≤ o && o ≤ 0xAB) ||
  (0xC0 ≤ o && o ≤ 0xCC) || (0xD0 ≤ o && o ≤ 0xDD) || (0xE0 ≤ o && o ≤ 0xED) || (0xF0 ≤ o && o ≤ 0xFB)

/-- The instruction that opcode `o` names with payload `p`; none for a reserved or illegal opcode
(R302, R303), and for a nonzero bit where the instruction uses none of its payload (R295). -/
def Instr.ofOpc (o : Nat) (p : BitVec 35) : Option Instr :=
  match o with
  | 0x00 => if p = 0#35 then some .nop else none
  | 0x01 => some (.mov (unT p))
  | 0x02 => some (.movi (unI p))
  | 0x03 => some (.movhi (unI p))
  | 0x04 => some (.add (unT p))
  | 0x05 => some (.addi (unI p))
  | 0x06 => some (.sub (unT p))
  | 0x07 => some (.adds (unT p))
  | 0x08 => some (.subs (unT p))
  | 0x09 => some (.neg (unT p))
  | 0x0A => some (.abs (unT p))
  | 0x0B => some (.min (unT p))
  | 0x0C => some (.max (unT p))
  | 0x0D => some (.mul (unT p))
  | 0x0E => some (.mulh (unT p))
  | 0x0F => some (.mad (unF p))
  | 0x10 => some (.div (unW p))
  | 0x11 => some (.rem (unW p))
  | 0x12 => some (.andW (unT p))
  | 0x13 => some (.orW (unT p))
  | 0x14 => some (.xorW (unT p))
  | 0x15 => some (.andn (unT p))
  | 0x16 => some (.andi (unI p))
  | 0x17 => some (.ori (unI p))
  | 0x18 => some (.xori (unI p))
  | 0x19 => some (.shl (unT p))
  | 0x1A => some (.shr (unT p))
  | 0x1B => some (.shra (unT p))
  | 0x1C => some (.rot (unT p))
  | 0x1D => some (.shi (unI p))
  | 0x1E => some (.clz (unT p))
  | 0x1F => some (.popc (unT p))
  | 0x20 => some (.brev (unT p))
  | 0x21 => some (.bfx (unI p))
  | 0x22 => some (.bfi (unI p))
  | 0x23 => some (.cmp (unT p))
  | 0x24 => some (.sel (unF p))
  | 0x25 => some (.pset (unK p))
  | 0x26 => some (.lea (unT p))
  | 0x27 => some (.addc (unT p))
  | 0x28 => some (.pack (unT p))
  | 0x29 => some (.unpk (unT p))
  | 0x2A => some (.shuf (unI p))
  | 0x2B => some (.dot4 (unF p))
  | 0x2C => some (.dot2 (unF p))
  | 0x40 => some (.cnti (unK p))
  | 0x41 => some (.cnts (unK p))
  | 0x42 => some (.cntv (unK p))
  | 0x43 => some (.cntt (unK p))
  | 0x44 => some (.sws (unK p))
  | 0x45 => some (.rotb (unK p))
  | 0x46 => some (.toks (unK p))
  | 0x47 => some (.tokw (unW p))
  | 0x48 => some (.tokt (unK p))
  | 0x49 => some (.loopb (unK p))
  | 0x4A => some (.loope (unK p))
  | 0x4B => if p = 0#35 then some .halts else none
  | 0x4C => some (.waitw (unW p))
  | 0x4D => some (.latch (unW p))
  | 0x4E => if p = 0#35 then some .endp else none
  | 0x4F => some (.handl (unK p))
  | 0x60 => some (.ldl (unM p))
  | 0x61 => some (.stl (unM p))
  | 0x62 => some (.lds (unM p))
  | 0x63 => some (.sts (unM p))
  | 0x64 => some (.sopen (unK p))
  | 0x65 => some (.smark (unM p))
  | 0x66 => some (.srew (unM p))
  | 0x67 => some (.sclose (unM p))
  | 0x68 => some (.fpush (unM p))
  | 0x69 => some (.fpop (unM p))
  | 0x6A => some (.lbsh (unM p))
  | 0x6B => some (.lbrd (unM p))
  | 0x6C => some (.cpy (unK p))
  | 0x6D => some (.cpyw (unW p))
  | 0x6E => some (.cpyt (unK p))
  | 0x6F => some (.gath (unM p))
  | 0x70 => some (.scat (unM p))
  | 0x71 => some (.rmw (unM p))
  | 0x72 => some (.red (unM p))
  | 0x73 => some (.cmo (unK p))
  | 0x74 => some (.retn (unK p))
  | 0x75 => some (.unpin (unK p))
  | 0x76 => some (.hint (unM p))
  | 0x77 => some (.pref (unM p))
  | 0x78 => some (.hepr (unM p))
  | 0x79 => some (.hepw (unM p))
  | 0x7A => some (.stag (unM p))
  | 0x7B => some (.bufsw (unM p))
  | 0x80 => some (.sbar (unK p))
  | 0x81 => some (.fence (unK p))
  | 0x82 => some (.bara (unK p))
  | 0x83 => some (.barw (unW p))
  | 0x84 => some (.bart (unK p))
  | 0x85 => if p = 0#35 then some .keys else none
  | 0x86 => some (.keyw (unW p))
  | 0x87 => some (.acq (unK p))
  | 0x88 => some (.rel (unK p))
  | 0x89 => some (.drain (unW p))
  | 0x90 => some (.fadd (unT p))
  | 0x91 => some (.fsub (unT p))
  | 0x92 => some (.fmul (unT p))
  | 0x93 => some (.fma (unF p))
  | 0x94 => some (.fmin (unT p))
  | 0x95 => some (.fmax (unT p))
  | 0x96 => some (.fabs (unT p))
  | 0x97 => some (.fneg (unT p))
  | 0x98 => some (.fcmp (unT p))
  | 0x99 => some (.fcls (unT p))
  | 0x9A => some (.fdiv (unW p))
  | 0x9B => some (.fsqrt (unW p))
  | 0x9C => some (.fex2 (unT p))
  | 0x9D => some (.flg2 (unT p))
  | 0x9E => some (.frnd (unT p))
  | 0x9F => some (.cvt (unT p))
  | 0xA0 => some (.cvti (unT p))
  | 0xA1 => some (.cvtf (unT p))
  | 0xA2 => some (.qnt (unF p))
  | 0xA3 => some (.dqnt (unF p))
  | 0xA4 => some (.bsc (unT p))
  | 0xA5 => some (.hdrw (unT p))
  | 0xA6 => some (.hdrr (unT p))
  | 0xA7 => some (.bfly (unT p))
  | 0xA8 => some (.fsum (unT p))
  | 0xA9 => some (.fdot (unF p))
  | 0xAA => some (.fmaxa (unT p))
  | 0xAB => some (.fscl (unT p))
  | 0xC0 => some (.mclm (unX p))
  | 0xC1 => some (.mrel (unX p))
  | 0xC2 => some (.mld (unX p))
  | 0xC3 => some (.mst (unX p))
  | 0xC4 => some (.mzro (unX p))
  | 0xC5 => some (.mma (unX p))
  | 0xC6 => some (.mmas (unX p))
  | 0xC7 => some (.mout (unX p))
  | 0xC8 => some (.mtrn (unX p))
  | 0xC9 => some (.mctr (unX p))
  | 0xCA => some (.msrt (unX p))
  | 0xCB => some (.mkey (unX p))
  | 0xCC => some (.macc (unX p))
  | 0xD0 => some (.folb (unK p))
  | 0xD1 => some (.folv (unK p))
  | 0xD2 => some (.fold (unM p))
  | 0xD3 => some (.folm (unX p))
  | 0xD4 => some (.folc (unK p))
  | 0xD5 => some (.folr (unK p))
  | 0xD6 => some (.foli (unK p))
  | 0xD7 => some (.folq (unK p))
  | 0xD8 => some (.rowopen (unK p))
  | 0xD9 => some (.rowhold (unK p))
  | 0xDA => some (.rowrel (unK p))
  | 0xDB => some (.rowrd (unM p))
  | 0xDC => some (.rowwr (unM p))
  | 0xDD => some (.rowq (unK p))
  | 0xE0 => some (.stkh (unK p))
  | 0xE1 => some (.stkm (unK p))
  | 0xE2 => some (.stka (unK p))
  | 0xE3 => some (.stkn (unK p))
  | 0xE4 => some (.stke (unM p))
  | 0xE5 => some (.stkq (unK p))
  | 0xE6 => some (.collapse (unK p))
  | 0xE7 => some (.gmsk (unK p))
  | 0xE8 => some (.gstp (unK p))
  | 0xE9 => some (.vtxt (unW p))
  | 0xEA => some (.stopStr (unK p))
  | 0xEB => some (.plog (unK p))
  | 0xEC => some (.phsh (unW p))
  | 0xED => some (.prpl (unK p))
  | 0xF0 => some (.trap (unK p))
  | 0xF1 => some (.idnt (unK p))
  | 0xF2 => some (.time (unK p))
  | 0xF3 => some (.pmcf (unK p))
  | 0xF4 => some (.pmrd (unK p))
  | 0xF5 => some (.pmwr (unK p))
  | 0xF6 => some (.rngs (unK p))
  | 0xF7 => some (.cfgr (unK p))
  | 0xF8 => some (.dbrk (unK p))
  | 0xF9 => if p = 0#35 then some .halt else none
  | 0xFA => some (.fltm (unK p))
  | 0xFB => some (.sigq (unK p))
  | _ => none

/-- The opcode of an entry; none for a step that is no entry (R302). -/
def Instr.opc : Instr → Option (BitVec 8)
  | .nop => some 0x00#8
  | .mov _ => some 0x01#8
  | .movi _ => some 0x02#8
  | .movhi _ => some 0x03#8
  | .add _ => some 0x04#8
  | .addi _ => some 0x05#8
  | .sub _ => some 0x06#8
  | .adds _ => some 0x07#8
  | .subs _ => some 0x08#8
  | .neg _ => some 0x09#8
  | .abs _ => some 0x0A#8
  | .min _ => some 0x0B#8
  | .max _ => some 0x0C#8
  | .mul _ => some 0x0D#8
  | .mulh _ => some 0x0E#8
  | .mad _ => some 0x0F#8
  | .div _ => some 0x10#8
  | .rem _ => some 0x11#8
  | .andW _ => some 0x12#8
  | .orW _ => some 0x13#8
  | .xorW _ => some 0x14#8
  | .andn _ => some 0x15#8
  | .andi _ => some 0x16#8
  | .ori _ => some 0x17#8
  | .xori _ => some 0x18#8
  | .shl _ => some 0x19#8
  | .shr _ => some 0x1A#8
  | .shra _ => some 0x1B#8
  | .rot _ => some 0x1C#8
  | .shi _ => some 0x1D#8
  | .clz _ => some 0x1E#8
  | .popc _ => some 0x1F#8
  | .brev _ => some 0x20#8
  | .bfx _ => some 0x21#8
  | .bfi _ => some 0x22#8
  | .cmp _ => some 0x23#8
  | .sel _ => some 0x24#8
  | .pset _ => some 0x25#8
  | .lea _ => some 0x26#8
  | .addc _ => some 0x27#8
  | .pack _ => some 0x28#8
  | .unpk _ => some 0x29#8
  | .shuf _ => some 0x2A#8
  | .dot4 _ => some 0x2B#8
  | .dot2 _ => some 0x2C#8
  | .cnti _ => some 0x40#8
  | .cnts _ => some 0x41#8
  | .cntv _ => some 0x42#8
  | .cntt _ => some 0x43#8
  | .sws _ => some 0x44#8
  | .rotb _ => some 0x45#8
  | .toks _ => some 0x46#8
  | .tokw _ => some 0x47#8
  | .tokt _ => some 0x48#8
  | .loopb _ => some 0x49#8
  | .loope _ => some 0x4A#8
  | .halts => some 0x4B#8
  | .waitw _ => some 0x4C#8
  | .latch _ => some 0x4D#8
  | .endp => some 0x4E#8
  | .handl _ => some 0x4F#8
  | .ldl _ => some 0x60#8
  | .stl _ => some 0x61#8
  | .lds _ => some 0x62#8
  | .sts _ => some 0x63#8
  | .sopen _ => some 0x64#8
  | .smark _ => some 0x65#8
  | .srew _ => some 0x66#8
  | .sclose _ => some 0x67#8
  | .fpush _ => some 0x68#8
  | .fpop _ => some 0x69#8
  | .lbsh _ => some 0x6A#8
  | .lbrd _ => some 0x6B#8
  | .cpy _ => some 0x6C#8
  | .cpyw _ => some 0x6D#8
  | .cpyt _ => some 0x6E#8
  | .gath _ => some 0x6F#8
  | .scat _ => some 0x70#8
  | .rmw _ => some 0x71#8
  | .red _ => some 0x72#8
  | .cmo _ => some 0x73#8
  | .retn _ => some 0x74#8
  | .unpin _ => some 0x75#8
  | .hint _ => some 0x76#8
  | .pref _ => some 0x77#8
  | .hepr _ => some 0x78#8
  | .hepw _ => some 0x79#8
  | .stag _ => some 0x7A#8
  | .bufsw _ => some 0x7B#8
  | .sbar _ => some 0x80#8
  | .fence _ => some 0x81#8
  | .bara _ => some 0x82#8
  | .barw _ => some 0x83#8
  | .bart _ => some 0x84#8
  | .keys => some 0x85#8
  | .keyw _ => some 0x86#8
  | .acq _ => some 0x87#8
  | .rel _ => some 0x88#8
  | .drain _ => some 0x89#8
  | .fadd _ => some 0x90#8
  | .fsub _ => some 0x91#8
  | .fmul _ => some 0x92#8
  | .fma _ => some 0x93#8
  | .fmin _ => some 0x94#8
  | .fmax _ => some 0x95#8
  | .fabs _ => some 0x96#8
  | .fneg _ => some 0x97#8
  | .fcmp _ => some 0x98#8
  | .fcls _ => some 0x99#8
  | .fdiv _ => some 0x9A#8
  | .fsqrt _ => some 0x9B#8
  | .fex2 _ => some 0x9C#8
  | .flg2 _ => some 0x9D#8
  | .frnd _ => some 0x9E#8
  | .cvt _ => some 0x9F#8
  | .cvti _ => some 0xA0#8
  | .cvtf _ => some 0xA1#8
  | .qnt _ => some 0xA2#8
  | .dqnt _ => some 0xA3#8
  | .bsc _ => some 0xA4#8
  | .hdrw _ => some 0xA5#8
  | .hdrr _ => some 0xA6#8
  | .bfly _ => some 0xA7#8
  | .fsum _ => some 0xA8#8
  | .fdot _ => some 0xA9#8
  | .fmaxa _ => some 0xAA#8
  | .fscl _ => some 0xAB#8
  | .mclm _ => some 0xC0#8
  | .mrel _ => some 0xC1#8
  | .mld _ => some 0xC2#8
  | .mst _ => some 0xC3#8
  | .mzro _ => some 0xC4#8
  | .mma _ => some 0xC5#8
  | .mmas _ => some 0xC6#8
  | .mout _ => some 0xC7#8
  | .mtrn _ => some 0xC8#8
  | .mctr _ => some 0xC9#8
  | .msrt _ => some 0xCA#8
  | .mkey _ => some 0xCB#8
  | .macc _ => some 0xCC#8
  | .folb _ => some 0xD0#8
  | .folv _ => some 0xD1#8
  | .fold _ => some 0xD2#8
  | .folm _ => some 0xD3#8
  | .folc _ => some 0xD4#8
  | .folr _ => some 0xD5#8
  | .foli _ => some 0xD6#8
  | .folq _ => some 0xD7#8
  | .rowopen _ => some 0xD8#8
  | .rowhold _ => some 0xD9#8
  | .rowrel _ => some 0xDA#8
  | .rowrd _ => some 0xDB#8
  | .rowwr _ => some 0xDC#8
  | .rowq _ => some 0xDD#8
  | .stkh _ => some 0xE0#8
  | .stkm _ => some 0xE1#8
  | .stka _ => some 0xE2#8
  | .stkn _ => some 0xE3#8
  | .stke _ => some 0xE4#8
  | .stkq _ => some 0xE5#8
  | .collapse _ => some 0xE6#8
  | .gmsk _ => some 0xE7#8
  | .gstp _ => some 0xE8#8
  | .vtxt _ => some 0xE9#8
  | .stopStr _ => some 0xEA#8
  | .plog _ => some 0xEB#8
  | .phsh _ => some 0xEC#8
  | .prpl _ => some 0xED#8
  | .trap _ => some 0xF0#8
  | .idnt _ => some 0xF1#8
  | .time _ => some 0xF2#8
  | .pmcf _ => some 0xF3#8
  | .pmrd _ => some 0xF4#8
  | .pmwr _ => some 0xF5#8
  | .rngs _ => some 0xF6#8
  | .cfgr _ => some 0xF7#8
  | .dbrk _ => some 0xF8#8
  | .halt => some 0xF9#8
  | .fltm _ => some 0xFA#8
  | .sigq _ => some 0xFB#8
  | _ => none

/-- The payload bits of an entry (R294). -/
def Instr.payload : Instr → BitVec 35
  | .mov f => pkT f
  | .movi f => pkI f
  | .movhi f => pkI f
  | .add f => pkT f
  | .addi f => pkI f
  | .sub f => pkT f
  | .adds f => pkT f
  | .subs f => pkT f
  | .neg f => pkT f
  | .abs f => pkT f
  | .min f => pkT f
  | .max f => pkT f
  | .mul f => pkT f
  | .mulh f => pkT f
  | .mad f => pkF f
  | .div f => pkW f
  | .rem f => pkW f
  | .andW f => pkT f
  | .orW f => pkT f
  | .xorW f => pkT f
  | .andn f => pkT f
  | .andi f => pkI f
  | .ori f => pkI f
  | .xori f => pkI f
  | .shl f => pkT f
  | .shr f => pkT f
  | .shra f => pkT f
  | .rot f => pkT f
  | .shi f => pkI f
  | .clz f => pkT f
  | .popc f => pkT f
  | .brev f => pkT f
  | .bfx f => pkI f
  | .bfi f => pkI f
  | .cmp f => pkT f
  | .sel f => pkF f
  | .pset f => pkK f
  | .lea f => pkT f
  | .addc f => pkT f
  | .pack f => pkT f
  | .unpk f => pkT f
  | .shuf f => pkI f
  | .dot4 f => pkF f
  | .dot2 f => pkF f
  | .cnti f => pkK f
  | .cnts f => pkK f
  | .cntv f => pkK f
  | .cntt f => pkK f
  | .sws f => pkK f
  | .rotb f => pkK f
  | .toks f => pkK f
  | .tokw f => pkW f
  | .tokt f => pkK f
  | .loopb f => pkK f
  | .loope f => pkK f
  | .waitw f => pkW f
  | .latch f => pkW f
  | .handl f => pkK f
  | .ldl f => pkM f
  | .stl f => pkM f
  | .lds f => pkM f
  | .sts f => pkM f
  | .sopen f => pkK f
  | .smark f => pkM f
  | .srew f => pkM f
  | .sclose f => pkM f
  | .fpush f => pkM f
  | .fpop f => pkM f
  | .lbsh f => pkM f
  | .lbrd f => pkM f
  | .cpy f => pkK f
  | .cpyw f => pkW f
  | .cpyt f => pkK f
  | .gath f => pkM f
  | .scat f => pkM f
  | .rmw f => pkM f
  | .red f => pkM f
  | .cmo f => pkK f
  | .retn f => pkK f
  | .unpin f => pkK f
  | .hint f => pkM f
  | .pref f => pkM f
  | .hepr f => pkM f
  | .hepw f => pkM f
  | .stag f => pkM f
  | .bufsw f => pkM f
  | .sbar f => pkK f
  | .fence f => pkK f
  | .bara f => pkK f
  | .barw f => pkW f
  | .bart f => pkK f
  | .keyw f => pkW f
  | .acq f => pkK f
  | .rel f => pkK f
  | .drain f => pkW f
  | .fadd f => pkT f
  | .fsub f => pkT f
  | .fmul f => pkT f
  | .fma f => pkF f
  | .fmin f => pkT f
  | .fmax f => pkT f
  | .fabs f => pkT f
  | .fneg f => pkT f
  | .fcmp f => pkT f
  | .fcls f => pkT f
  | .fdiv f => pkW f
  | .fsqrt f => pkW f
  | .fex2 f => pkT f
  | .flg2 f => pkT f
  | .frnd f => pkT f
  | .cvt f => pkT f
  | .cvti f => pkT f
  | .cvtf f => pkT f
  | .qnt f => pkF f
  | .dqnt f => pkF f
  | .bsc f => pkT f
  | .hdrw f => pkT f
  | .hdrr f => pkT f
  | .bfly f => pkT f
  | .fsum f => pkT f
  | .fdot f => pkF f
  | .fmaxa f => pkT f
  | .fscl f => pkT f
  | .mclm f => pkX f
  | .mrel f => pkX f
  | .mld f => pkX f
  | .mst f => pkX f
  | .mzro f => pkX f
  | .mma f => pkX f
  | .mmas f => pkX f
  | .mout f => pkX f
  | .mtrn f => pkX f
  | .mctr f => pkX f
  | .msrt f => pkX f
  | .mkey f => pkX f
  | .macc f => pkX f
  | .folb f => pkK f
  | .folv f => pkK f
  | .fold f => pkM f
  | .folm f => pkX f
  | .folc f => pkK f
  | .folr f => pkK f
  | .foli f => pkK f
  | .folq f => pkK f
  | .rowopen f => pkK f
  | .rowhold f => pkK f
  | .rowrel f => pkK f
  | .rowrd f => pkM f
  | .rowwr f => pkM f
  | .rowq f => pkK f
  | .stkh f => pkK f
  | .stkm f => pkK f
  | .stka f => pkK f
  | .stkn f => pkK f
  | .stke f => pkM f
  | .stkq f => pkK f
  | .collapse f => pkK f
  | .gmsk f => pkK f
  | .gstp f => pkK f
  | .vtxt f => pkW f
  | .stopStr f => pkK f
  | .plog f => pkK f
  | .phsh f => pkW f
  | .prpl f => pkK f
  | .trap f => pkK f
  | .idnt f => pkK f
  | .time f => pkK f
  | .pmcf f => pkK f
  | .pmrd f => pkK f
  | .pmwr f => pkK f
  | .rngs f => pkK f
  | .cfgr f => pkK f
  | .dbrk f => pkK f
  | .fltm f => pkK f
  | .sigq f => pkK f
  | _ => 0#35

/-- The entry a word holds, or why it is refused at step 1 of R304 (R291, R303). -/
def decodeEntry (w : EWord) : Except Reject Entry :=
  if w.extractLsb' 40 8 = 0xFF#8 then .error .illegalOpcode
  else match Instr.ofOpc (w.extractLsb' 40 8).toNat (w.extractLsb' 0 35) with
    | none => .error (if opcKnown (w.extractLsb' 40 8).toNat then .reservedBits else .reservedOpcode)
    | some i => .ok ⟨w.extractLsb' 52 12, w.extractLsb' 49 3, w.extractLsb' 48 1, w.extractLsb' 35 5, i⟩

/-- The word of an entry; a step that is no entry has the illegal opcode (R291). -/
def encodeEntry (e : Entry) : EWord :=
  e.stamp ++ e.pred ++ e.pn ++ (e.instr.opc.getD 0xFF#8) ++ e.rcx ++ e.instr.payload

/-- The entry of a word, if it holds one. -/
def entryOf (w : EWord) : Option Entry :=
  match decodeEntry w with
  | .ok e => some e
  | .error _ => none

/-- `n` bytes of a message from offset `o` are zero (R44). -/
def zeroAt (l : List Byte) (o n : Nat) : Bool := (sliceBytes l o n).all (· == 0#8)

/-- Bytes o to o+n-1 as a vector of 8n bits. -/
def vecAt (l : List Byte) (o n w : Nat) : BitVec w := BitVec.ofNat w (leAt l o n)

/-- The header of a message whose kind requires `units` units and whose reserved bytes are zero when `rsv`
says so (R37, R44). -/
def msgHdr (l : List Byte) (units : Nat) (rsv : Bool) : MsgHdr :=
  { seq := vecAt l 0 4 32, func := BitVec.ofNat 6 (leAt l 5 1), ackn := vecAt l 8 4 32, tag := vecAt l 12 4 32
    bad := !(leAt l 6 1 == units && leAt l 5 1 < 64 && leAt l 7 1 == 0 && rsv) }

/-- The step that a host message is (R45). An unknown kind is `unknownKind`; a SIGNAL whose MODE names none
of its three forms is a malformed SIGNAL (R44). -/
def decodeMsg (l : List Byte) : Instr :=
  let b := fun o => vecAt l o 1 8
  let w := fun o => vecAt l o 4 32
  let q := fun o => vecAt l o 8 64
  match leAt l 4 1 with
  | 0x01 => .tenantCreate (msgHdr l 1 (zeroAt l 36 28)) (b 16) (b 17) (vecAt l 18 2 16) (b 20) (b 21)
      (vecAt l 22 2 16) (w 24) (w 28) (w 32)
  | 0x02 => .tenantBudget (msgHdr l 1 (zeroAt l 36 28)) (b 16) (b 17) (vecAt l 18 2 16) (b 20) (b 21)
      (vecAt l 22 2 16) (w 24) (w 28) (w 32)
  | 0x03 => .tenantDestroy (msgHdr l 1 (zeroAt l 17 47)) (b 16)
  | 0x04 => .imageLoad (msgHdr l 1 (zeroAt l 17 7 && zeroAt l 36 28)) (b 16) (q 24) (w 32)
  | 0x05 => .endpointBind (msgHdr l 1 (zeroAt l 19 5 && zeroAt l 40 24)) (b 16) (b 17) (b 18) (q 24) (q 32)
  | 0x06 => .launch (msgHdr l 2 (zeroAt l 22 42 && zeroAt l 112 16)) (b 16) (b 17) (vecAt l 18 2 16) (b 20) (b 21)
      (vecAt l 64 48 384)
  | 0x07 =>
    let h := msgHdr l 1 (zeroAt l 17 3 && zeroAt l 28 36 && leAt l 16 1 ≤ 2)
    match leAt l 16 1 with
    | 1 => .signalResume h (w 20) (w 24)
    | 2 => .signalAbort h (w 20) (w 24)
    | _ => .signalValue h (w 20) (w 24)
  | 0x08 => .cancel (msgHdr l 1 (zeroAt l 17 3 && zeroAt l 24 40)) (b 16) (w 20)
  | 0x09 => .query (msgHdr l 1 (zeroAt l 17 3 && zeroAt l 24 40)) (b 16) (w 20)
  | 0x10 => .fwStage (msgHdr l 1 (zeroAt l 16 8 && zeroAt l 36 28)) (q 24) (w 32)
  | 0x11 => .fwActivate (msgHdr l 1 (zeroAt l 18 46)) (b 16) (b 17)
  | 0x12 => .calRun (msgHdr l 1 (zeroAt l 18 46)) (b 16) (b 17)
  | 0x13 => .retire (msgHdr l 1 (zeroAt l 19 5 && zeroAt l 40 24)) (b 16) (b 17) (b 18) (q 24) (q 32)
  | k => .unknownKind (msgHdr l (leAt l 6 1) true) (BitVec.ofNat 8 k)

/-- The 16 bytes of a header (R37). -/
def hdrBytes (h : MsgHdr) (kind units : Nat) : List Byte :=
  leBytes 4 h.seq.toNat ++ leBytes 1 kind ++ leBytes 1 h.func.toNat ++ leBytes 1 units ++ leBytes 1 0 ++
  leBytes 4 h.ackn.toNat ++ leBytes 4 h.tag.toNat

/-- A message: the header and the payload, filled with zero bytes to its units (R37). -/
def msgBytes (h : MsgHdr) (kind units : Nat) (payload : List Byte) : List Byte :=
  sliceBytes (hdrBytes h kind units ++ payload) 0 (64 * units)

/-- The KIND, units and payload (from byte 16) of a host message; none for a step that is no host message
(R45). -/
def Instr.msgBody : Instr → Option (MsgHdr × Nat × Nat × List Byte)
  | .tenantCreate h tgt cls ways pages prio ks rows quant rate => some (h, 0x01, 1,
      [tgt, cls] ++ leBytes 2 ways.toNat ++ [pages, prio] ++ leBytes 2 ks.toNat ++ leBytes 4 rows.toNat ++
      leBytes 4 quant.toNat ++ leBytes 4 rate.toNat)
  | .tenantBudget h tgt cls ways pages prio ks rows quant rate => some (h, 0x02, 1,
      [tgt, cls] ++ leBytes 2 ways.toNat ++ [pages, prio] ++ leBytes 2 ks.toNat ++ leBytes 4 rows.toNat ++
      leBytes 4 quant.toNat ++ leBytes 4 rate.toNat)
  | .tenantDestroy h tgt => some (h, 0x03, 1, [tgt])
  | .imageLoad h slot haddr len => some (h, 0x04, 1,
      [slot] ++ leBytes 7 0 ++ leBytes 8 haddr.toNat ++ leBytes 4 len.toNat)
  | .endpointBind h slot set ep haddr ext => some (h, 0x05, 1,
      [slot, set, ep] ++ leBytes 5 0 ++ leBytes 8 haddr.toNat ++ leBytes 8 ext.toNat)
  | .launch h slot set graph prio plen param => some (h, 0x06, 2,
      [slot, set] ++ leBytes 2 graph.toNat ++ [prio, plen] ++ leBytes 42 0 ++ leBytes 48 param.toNat)
  | .signalValue h ltag value => some (h, 0x07, 1, leBytes 4 0 ++ leBytes 4 ltag.toNat ++ leBytes 4 value.toNat)
  | .signalResume h ltag fid => some (h, 0x07, 1, leBytes 4 1 ++ leBytes 4 ltag.toNat ++ leBytes 4 fid.toNat)
  | .signalAbort h ltag fid => some (h, 0x07, 1, leBytes 4 2 ++ leBytes 4 ltag.toNat ++ leBytes 4 fid.toNat)
  | .cancel h scope ltag => some (h, 0x08, 1, [scope] ++ leBytes 3 0 ++ leBytes 4 ltag.toNat)
  | .query h qs ltag => some (h, 0x09, 1, [qs] ++ leBytes 3 0 ++ leBytes 4 ltag.toNat)
  | .fwStage h haddr len => some (h, 0x10, 1, leBytes 8 0 ++ leBytes 8 haddr.toNat ++ leBytes 4 len.toNat)
  | .fwActivate h dies comp => some (h, 0x11, 1, [dies, comp])
  | .calRun h tkind index => some (h, 0x12, 1, [tkind, index])
  | .retire h tkind index lane base ext => some (h, 0x13, 1,
      [tkind, index, lane] ++ leBytes 5 0 ++ leBytes 8 base.toNat ++ leBytes 8 ext.toNat)
  | .unknownKind h kind => some (h, kind.toNat, 1, [])
  | _ => none

/-- The bytes of a host message; none for a step that is no host message. -/
def encodeMsg (i : Instr) : Option (List Byte) :=
  match i.msgBody with
  | some (h, k, u, p) => some (msgBytes h k u p)
  | none => none

/-- The steps that a 32-bit sideband write is, in order (R32, R33, R56, R256). A write to a read-only or
absent register, and the parts of a write that name nothing, are ignored. In one write to NMPCTL the HOLD
bit acts first, then RESYNC, then RESEND (DEDUCED, log 15). -/
def decodeSbw (off v : Word) : List Instr :=
  let o := off.toNat
  if o = 0x020 then
    if bitsOf v 31 16 = 0xA5C1 ∧ bitsOf v 1 0 = 1 then [.rstctlWarmReset]
    else if bitsOf v 31 16 = 0xA5C1 ∧ bitsOf v 1 0 = 2 then [.rstctlColdReset]
    else [.registerWriteIgnored off v]
  else if 0x040 ≤ o ∧ o < 0x060 ∧ o % 4 = 0 ∧ bitAt v 31 then [.droopCountClear ((o - 0x040) / 4)]
  else if o = 0x108 then [.nmpdackWrite v]
  else if o = 0x10C then
    [if bitAt v 0 then .nmpctlHoldSet else .nmpctlHoldRelease] ++
    (if bitAt v 1 then [.nmpctlResync] else []) ++ (if bitAt v 3 then [.nmpctlResend] else [])
  else if o = 0x110 then [.nmperrClear v]
  else if o = 0x180 ∧ bitAt v 31 then [.eccCountClear false]
  else if o = 0x184 ∧ bitAt v 31 then [.eccCountClear true]
  else [.registerWriteIgnored off v]

/-- A viaduct flit from its 128 bytes: 120 of payload, then the trailer, little-endian, with the CRC in its upper half (R11; DEDUCED,
log 49). -/
def decodeFlit (l : List Byte) : Flit :=
  let t := leNat (sliceBytes l 120 8)
  let low := BitVec.ofNat 32 t
  { crcOk := Config.crc32 (sliceBytes l 0 124) == BitVec.ofNat 32 (t / 2 ^ 32)
    seq := BitVec.ofNat 12 (bitsOf low 31 20), ack := BitVec.ofNat 12 (bitsOf low 19 8), cls := BitVec.ofNat 2 (bitsOf low 7 6)
    av := bitAt low 5, rsv := BitVec.ofNat 5 (bitsOf low 4 0), payload := sliceBytes l 0 120 }

/-- The lower half of a flit's trailer. -/
def flitLow (f : Flit) : Nat :=
  f.seq.toNat * 2 ^ 20 + f.ack.toNat * 2 ^ 8 + f.cls.toNat * 2 ^ 6 + (if f.av then 2 ^ 5 else 0) + f.rsv.toNat

/-- The 128 bytes of a flit, with its CRC right where `crcOk` says so (R11). -/
def encodeFlit (f : Flit) : List Byte :=
  let body := sliceBytes f.payload 0 120 ++ leBytes 4 (flitLow f)
  body ++ leBytes 4 ((if f.crcOk then Config.crc32 body else ~~~(Config.crc32 body)).toNat)

/-- The step that `nbits` bits of value `w` are: an entry word up to 64 bits, a host message beyond. -/
def decodeTableWord (nbits w : Nat) : Option Instr :=
  if nbits ≤ 64 then (entryOf (BitVec.ofNat 64 w)).map (·.instr)
  else some (decodeMsg (leBytes (nbits / 8) w))

end Sys2Proof
end

