-- ==== Sys2Proof/Machine/State.lean ====
section
/-! DEFINITION. The state of the part as plain data, the reasons a step can stop, and the state after reset. -/

namespace Sys2Proof.Machine

open Sys2Proof

/-- Bytes by address, in one canonical form: addresses strictly rising, no byte equal to zero, which is what an
unlisted address reads as (DESIGN CHOICE, log 1). -/
abbrev Memory := List Host.Cell

/-- The canonical form of a memory whose addresses are at least `lo`. -/
def Memory.wfFrom : Nat → Memory → Bool
  | _, [] => true
  | lo, (a, b) :: t => decide (lo ≤ a) && b != 0#8 && Memory.wfFrom (a + 1) t

/-- The canonical form. -/
def Memory.wf (m : Memory) : Bool := Memory.wfFrom 0 m

/-- Why the model stops. No step of the spec stops the machine; these are the model's own. -/
inductive Fault where
  /-- Raised by no meaning: kept for an access to an address outside every space the spec lays out. Safe: the model
  would stop where the hardware goes on. -/
  | noSuchAddress
  deriving DecidableEq, Repr

/-- Why the model gives no meaning. -/
inductive Refusal where
  /-- Raised by an arm of `exec` that has no meaning yet. Safe: nothing is claimed of that step. -/
  | notModelled (mnemonic : String)
  deriving DecidableEq, Repr

/-! ## What an image declares (R63, R64) -/

/-- A `.span` with its period and round length (R97, R277, R279). `round` 0 is the default of R120. -/
structure SpanDecl where
  n : Nat
  x0 : Nat
  y0 : Nat
  x1 : Nat
  y1 : Nat
  waiting : Bool
  period : Nat
  round : Nat
  deriving DecidableEq, Repr

/-- The mode of a bank group (R127). -/
inductive GroupMode where
  | store
  | fifo
  | line
  deriving DecidableEq, Repr

/-- A bank group: buffers n, depth or lines H in `n`; words of a line in `wd` (R127, GROUP record). -/
structure GroupDecl where
  i : Nat
  lo : Nat
  hi : Nat
  mode : GroupMode
  n : Nat
  wd : Nat
  deriving DecidableEq, Repr

/-- A route context: the output fed by inputs n, e, s, w, 0xFF for none (R108). -/
structure RcxDecl where
  n : Nat
  outs : List Nat
  deriving DecidableEq, Repr

/-- A decoding context's declaration (R230, DCTX record). Buffers by index, 0xFFFF for none: R64 gives the record no other code for a buffer
that is not named (DESIGN CHOICE, log 90). -/
structure DctxDecl where
  v : Nat
  vocab : Nat
  embed : Nat
  edim : Nat
  efmt : Nat
  gon : Bool
  evm : Bool
  log : Nat
  pay : Nat
  posn : Nat
  gram : Nat
  mask : Nat
  trans : Nat
  nstate : Nat
  start : Nat
  deriving DecidableEq, Repr

/-- An element with entries or declarations (R285, R286). -/
structure ElemDecl where
  x : Nat
  y : Nat
  kind : Kind
  g : Nat
  k : Nat
  p : Nat
  c : Nat
  win : Nat
  cfmt : Word
  groups : List GroupDecl
  rcxs : List RcxDecl
  recv : Nat
  dctx : Option DctxDecl
  schedA : List EWord
  schedB : List EWord
  deriving DecidableEq, Repr

/-- A `.folio` (R213). -/
structure FolioDecl where
  layer : Nat
  hx : Nat
  hy : Nat
  mx : Nat
  my : Nat
  keep : Bool
  n : Nat
  m : Nat
  buf : Nat
  off : Nat
  ext : Nat
  tau : Word
  dmax : Word
  nref : Nat
  deriving DecidableEq, Repr

/-- A `.row` (R281). -/
structure RowDecl where
  buf : Nat
  reopen : Bool
  off : Nat
  deriving DecidableEq, Repr

/-- A `.carry` (R283): registers by code (0x80 + n for st n), or an ME range. -/
structure CarryDecl where
  x : Nat
  y : Nat
  range : Bool
  codes : List Nat
  off : Nat
  len : Nat
  deriving DecidableEq, Repr

/-- A `.stream` (R284): kind 1 read, 2 write, 3 rw, 4 rmw. -/
structure StreamDecl where
  x : Nat
  y : Nat
  sn : Nat
  endpoint : Bool
  idx : Nat
  kind : Nat
  hint : Nat
  off : Nat
  deriving DecidableEq, Repr

/-- A link-port adder (R19, R285): format 0 FP32, 1 S32. -/
structure AdderDecl where
  port : Nat
  adder : Nat
  chain : Nat
  fmt : Nat
  lx : Nat
  ly : Nat
  lsn : Nat
  toPort : Bool
  fx : Nat
  fy : Nat
  fsn : Nat
  len : Nat
  deriving DecidableEq, Repr

/-- A `send` (R285). -/
structure SendDecl where
  x : Nat
  y : Nat
  sn : Nat
  port : Nat
  chain : Nat
  deriving DecidableEq, Repr

/-- A `solewriter` (R178). -/
structure SoleDecl where
  x : Nat
  y : Nat
  buf : Nat
  off : Nat
  len : Nat
  deriving DecidableEq, Repr

/-- A signature (R125, SIGNATURE section). -/
structure SigDecl where
  pin : Nat
  kx : Nat
  ky : Nat
  barriers : Nat
  debug : Bool
  chainE : Nat
  chainN : Nat
  spans : List SpanDecl
  tokens : Nat
  handlers : List (Nat × Word)
  folios : List FolioDecl
  rows : List RowDecl
  carries : List CarryDecl
  streams : List StreamDecl
  adders : List AdderDecl
  sends : List SendDecl
  evicts : List EWord
  soles : List SoleDecl
  elems : List ElemDecl
  deriving DecidableEq, Repr

/-- A `.buffer` (R271, BUFFERS record). -/
structure BufDecl where
  size : Nat
  acc : Nat
  home : Nat
  sparse : Bool
  cmp : Nat
  kib : Nat
  deriving DecidableEq, Repr

/-- A `.data` (R272): `bytes` holds the bytes, or the one fill value. -/
structure DataDecl where
  buf : Nat
  fill : Bool
  count : Nat
  off : Nat
  bytes : List Byte
  deriving DecidableEq, Repr

/-- An `.endpoint` (R273). -/
structure EndpointDecl where
  ep : Nat
  write : Bool
  min : Nat
  deriving DecidableEq, Repr

/-- A `.load` (R275): signatures by index into the image's list. -/
structure LoadDecl where
  load : Nat
  preds : List Nat
  sigs : List Nat
  deriving DecidableEq, Repr

/-- A `.graph` (R274). -/
structure GraphDecl where
  graph : Nat
  loads : List LoadDecl
  deriving DecidableEq, Repr

/-- A Mygal image (R63, R64). -/
structure Image where
  key : Nat
  pblk : Nat
  bufs : List BufDecl
  datas : List DataDecl
  eps : List EndpointDecl
  graphs : List GraphDecl
  sigs : List SigDecl
  deriving DecidableEq, Repr

/-! ## Elements (R106, R127, R226, R230, R339, R382, R388) -/

/-- A chained counter (R324): mode 0 off, 1 wrap, 2 cntv, 3 chain. -/
structure Counter where
  value : Word
  start : Word
  mode : BitVec 2
  rl : Bool
  deriving DecidableEq, Repr

/-- The tag and check bit of a 512 B tag block (R132). -/
structure Tag where
  t : Byte
  chk : Bool
  deriving DecidableEq, Repr

/-- What a bank group keeps (R127 to R130): current buffer, expected tag, FIFO words oldest first, room of the
FIFO promised to reads in flight (R343), head line and column. `head` is the place of the oldest FIFO word in the bank, where the words
stand too (R129). -/
structure Grp where
  cur : Nat
  e : Byte
  head : Nat
  q : List Word
  promised : Nat
  hl : Nat
  col : Nat
  deriving DecidableEq, Repr

/-- An address-generator stream (R339), with the endpoint queue, its next fetch and the cycle it comes from (R345), the
words of HEPW not yet in a commit buffer (R346), and the lines PREF has fetched for it (R347). -/
structure Stream where
  base : Nat
  ext : Nat
  pos : Int
  stride : Int
  mark : Int
  hint : Nat
  beats : List (Nat × List Byte)
  fetch : Int
  due : Nat
  part : List (Nat × List Byte)
  readAhead : List Nat
  deriving DecidableEq, Repr

/-- A wait for committing stores: those of the streams of a mask of an element, by its key, that were issued before issue number `upto`;
`die` says that only stores homed on the element's die count (R171, R172). -/
structure Wait where
  key : Nat
  mask : Nat
  die : Bool
  upto : Nat
  deriving DecidableEq, Repr

/-- A read outstanding on a stream, or an RMW return (R343, R357). `stage` 0 waits for translation, 1 waits to be served, 2 is served with
its bytes; the next stage comes from cycle `due` on. Destination: an absolute ME offset, or a FIFO group, or a soft-token operation `soft`
(R233); tagged by BT. `seq` numbers the GATH a row belongs to. `after` are the reads it waits for, `waits` the committing stores it waits
for (R171, R172). `acq`: an acquire read, with the ranges invalidated after it (R174). `bad`: the address of the first poisoned sector
that its bytes come from (R253). -/
structure Read where
  id : Nat
  sn : Nat
  seq : Nat
  va : Nat
  size : Nat
  hint : Nat
  dst : Nat
  fifo : Option Nat
  bt : Bool
  gath : Bool
  rmw : Bool
  soft : Option Nat
  acq : Option (List (Nat × Nat))
  after : List Nat
  waits : List Wait
  stage : Nat
  due : Nat
  stamp : Nat
  sched : Bool
  bytes : List Byte
  bad : Option Nat
  late : Bool := false
  deriving DecidableEq, Repr

/-- What an open window waits for (R112). -/
inductive WinKind where
  | result (due : Nat) (v : Word)            -- DIV, REM, FDIV, FSQRT: the latched value and its cycle
  | token (t : Nat) (ctr : Option Nat)       -- TOKW, LOOPB with the counter its consumption loads
  | wait (cls idx : Nat)                     -- WAITW
  | link (side : Nat)                        -- LATCH
  | copy (cid : Nat)                         -- CPYW
  | barrier (b : Nat)                        -- BARW
  | keystone (side : Nat)                    -- KEYW
  | drain (mask : Nat)                       -- DRAIN
  | row (pa va : Nat) (ready seq : Nat) (after : List Nat) (got : Option Word)
    -- ROWRD: served from cycle `ready`, after the reads `after` and the ROWRDs of the element with a lower issue number `seq`
  | text (due id at_ : Nat) (got : Option (List Byte))  -- VTXT, with the text once it is read
  | prefixOp (due mode blk at_ : Nat) (h : BitVec 64) (got : Option (List Byte × List Byte))
    -- PHSH, with H(b - 1) as read at fire; and, once they are read, what is hashed of the records, and all that is compared
  deriving DecidableEq, Repr

/-- An open window (R112, R113): the latch holds `res`; `left` running cycles remain; `frozen` counts the cycles
frozen after an empty close, under `closed`. -/
structure Win where
  kind : WinKind
  stamp : Nat
  sched : Bool
  w : Nat
  wm : Nat
  left : Nat
  dst : Nat
  res : Option Word
  closed : Bool
  frozen : Nat
  deriving DecidableEq, Repr

/-- A soft-token register (R226), with its replay mark (R239). -/
structure Soft where
  kind : Nat
  nc : Nat
  allow : BitVec 16
  hash : BitVec 64
  haddr : Nat
  hlen : Nat
  hfmt : Nat
  ids : List Word
  wts : List Word
  mark : Bool
  deriving DecidableEq, Repr

/-- A decoding context (R230); bases are virtual. -/
structure Dctx where
  v : Nat
  vocb : Nat
  ebase : Nat
  edim : Nat
  efmt : Nat
  lbase : Nat
  lsize : Nat
  pbase : Nat
  psize : Nat
  posn : Nat
  ppos : Nat
  gon : Bool
  gbase : Nat
  mbase : Nat
  tbase : Nat
  nstate : Nat
  start : Nat
  state : Word
  evm : Bool
  strs : List (List Byte)
  slen : List Nat
  cuts : Bool
  tail : List Byte
  hit : Bool
  hitj : Nat
  emit : Nat
  back : Nat
  deriving DecidableEq, Repr

/-- What is pending in an element (R229, R401). -/
inductive Pend where
  | soft (st : Nat)
  | reg (code : Nat)
  | range (off len : Nat)
  | ctx (state : Bool)        -- decoding-context fields: STATE, or those that COLLAPSE and STOP change
  | folio (fx : Nat)
  deriving DecidableEq, Repr

/-- A line of a die's vocabulary cache (R243). -/
structure VLine where
  die : Nat
  func : Nat
  va : Nat
  bytes : List Byte
  deriving DecidableEq, Repr

/-- A soft-token entry in flight (R229): its instruction, the operands and bytes read at fire, the rows that its reads
have brought, what it marks, and the vocabulary lines that a CMO has dropped while it fetches (R246). -/
structure SoftOp where
  id : Nat
  due : Nat
  instr : Instr
  a : Word
  b : Word
  data : List Byte
  rows : List (Nat × List Byte)
  stamp : Nat
  sched : Bool
  marks : List Pend
  kept : List VLine
  deriving DecidableEq, Repr

/-- A copy slot's latest command (R349, R351), with its progress in bytes; the next piece moves from cycle `due` on. A
local side is an element's key and an absolute offset. `want` is the tag that unchecked blocks of a local source must carry (R133). `piece`
is a piece that has been read and not yet placed, and `bad` the offsets of its poisoned sectors. -/
structure Copy where
  id : Nat
  src : Nat
  dst : Nat
  srcLocal : Option (Nat × Nat)
  dstLocal : Option (Nat × Nat)
  len : Nat
  prog : Nat
  tag : Option Byte
  hint : Nat
  want : Byte
  piece : List Byte
  bad : List Nat
  done : Bool
  due : Nat
  stamp : Nat
  sched : Bool
  deriving DecidableEq, Repr

/-- An operation in flight in the node or the slot port, or a FOLD: the entry and what it read at fire. `tile` marks a
node operation, `acc` the accumulators it writes; `y` is a byte offset where it lands or a tile number. -/
structure NodeOp where
  id : Nat
  due : Nat
  instr : Instr
  tile : Bool
  acc : List Nat
  a : List Byte
  b : List Byte
  x : Word
  y : Nat
  z : List Word
  full : Bool
  stamp : Nat
  sched : Bool
  deriving DecidableEq, Repr

/-- Ordering in force in an element since round `rnd` (R171, R174): accesses of the held streams wait for the reads `ids` and for the
committing stores `named`. `at_` is one more than the cycle of an SBAR, 0 for any other (R192). -/
structure Order where
  held : Nat
  named : List Wait
  ids : List Nat
  at_ : Nat
  rnd : Nat
  deriving DecidableEq, Repr

/-- One element: CE and ME fields together, those of the other kind at their reset values. Of each stream, `epoch` is the lowest commit
epoch that its next store may take, and `used` and `usedDie` are one more than the epochs of its stores of the round, and of those homed on
the element's die (R171, R172). `relNext` are the streams with a REL pending (R173). `taken` counts the words that the cycle has taken
from each link (R98), and `scatAt` is one more than the cycle of the latest SCAT (R352). -/
structure Elem where
  kind : Kind
  g : Tbl Word
  k : Tbl Word
  rot : BitVec 5
  p : Tbl Bool
  c : Tbl Counter
  acc : Tbl Word
  slots : Memory
  claimed : List Nat
  sortK : List Word
  sortI : List (BitVec 16)
  rk : Nat
  cvb : Tbl Word
  oh : Word
  hdr : Word
  gs0 : Word
  gs1 : Word
  gs2 : Word
  gs3 : Word
  inq : Tbl (List Word)
  tok : Tbl Nat
  wins : Tbl Win
  sram : Memory
  tags : Tbl Tag
  grps : Tbl Grp
  streams : Tbl Stream
  reads : List Read
  copies : List Copy
  st : Tbl Soft
  dc : Dctx
  softOps : List SoftOp
  marks : List Pend
  node : List NodeOp
  pha : Tbl Nat
  order : List Order
  acqNext : Tbl (List (Nat × Nat))
  relNext : List Nat
  epoch : Tbl Nat
  used : Tbl Nat
  usedDie : Tbl Nat
  poison : List Nat
  waking : List Nat
  taken : Tbl Nat
  scatAt : Nat
  waited : List (Nat × Nat)
  deriving DecidableEq, Repr

/-- The run state of a span (R102, R104, R111, R120). A span that waits at the boundary keeps whether its next round
begins with a schedule switch. -/
inductive SpanRun where
  | idle
  | running
  | switching (left : Nat)
  | waiting (sw : Bool)
  deriving DecidableEq, Repr

/-- A span: its counter, schedule in force (false A, true B), the choice for the next wrap, and its counts. -/
structure Span where
  run : SpanRun
  counter : Nat
  sched : Bool
  choice : Option Bool
  swsAt : Option Nat
  haltAtWrap : Bool
  endp : Bool
  periods : Nat
  pstart : Nat
  cyc : Nat
  keyed : Bool
  stalled : Bool
  deriving DecidableEq, Repr

/-- A token in flight (R115): its id and the cycle at whose end it arrives. -/
structure Tok where
  sg : Nat
  id : Nat
  due : Nat
  deriving DecidableEq, Repr

/-- A HANDL write in flight (R336). -/
structure HWrite where
  sg : Nat
  e : Nat
  word : Word
  due : Nat
  y : Nat
  x : Nat
  deriving DecidableEq, Repr

/-- A barrier (R366): phases completed and arrivals of phases in flight by (phase, cycle). -/
structure Barrier where
  done : Nat
  arrived : Tbl Nat
  coming : List (Nat × Nat)
  deriving DecidableEq, Repr

/-- A resident folio's control fields (R216, R404). XP and YP lie in the home ME, from absolute offset `xOff`. -/
structure Folio where
  valid : Bool
  refresh : Bool
  kill : Bool
  full : Bool
  nfin : Bool
  ph : Nat
  ver : Word
  vlat : Word
  drift : Word
  pend : Word
  cnt : Nat
  tc : Nat
  xOff : Nat
  deriving DecidableEq, Repr

/-- A link-port adder (R20): element index and the operands held; `crossing` are elements on an edge that retrains (R15). What
arrives at an off-package port is held at the port. -/
structure Adder where
  i : Nat
  crossing : List Word
  arriving : List Word
  loc : List Word
  deriving DecidableEq, Repr

/-- What an item of a round's commit does; `bad` are the offsets of the poisoned sectors that a copy or a write-back
carries (R253) (R121, R171, R360, R406, R411, R413, R415, R417, R419). -/
inductive Act where
  | store (va : Nat) (bytes : List Byte) (hint : Nat) (bad : List Nat)
  | row (va : Nat) (bytes : List Byte)
  | host (ha : Nat) (bytes : List Byte)
  | port (p : Nat) (payload : List Byte)
  | rmw (va : Nat) (op : Nat) (a cmp : Word) (ret : Option Nat) (hint rid : Nat) (acq : Option (List (Nat × Nat)))
  | cmo (va len : Nat) (op lvl : Nat)
  | through (bufs : List (Nat × Nat))  -- what is dirty in these virtual ranges reaches DRAM (R170)
  | retn (reg va lines : Nat)
  | unpin (reg : Nat)
  | rowRel (hx : Nat)
  | publish (h : BitVec 64) (recs : List Byte) (value : BitVec 64)
  | addRef (h : BitVec 64) (recs : List Byte)
  | dropRef (h : BitVec 64) (recs : List Byte)
  | event (src : Nat) (value : Word) (stamp : Nat)
  | pmwr (idx : Nat) (v : Word)
  | pmcf (idx : Nat) (v : Word)
  | halt
  | take (n : Nat)
  deriving DecidableEq, Repr

/-- An item staged for the commit of a round: who issued it, on which stream (8 log, 9 row, 10 none, 11 engine, 12 write-back),
in which commit epoch of its element (an EVENT: in which period of its span, R413), and in which order. -/
structure Staged where
  sg : Nat
  x : Nat
  y : Nat
  sn : Nat
  epoch : Nat
  seq : Nat
  stamp : Nat
  sched : Bool
  act : Act
  deriving DecidableEq, Repr

/-- A request pending translation (R137): the walk, the reads of an element, the stores, or the engine command (`eng`), that wait for it.
`va` is the address as the tables see it, `acc` the access's (R151). -/
structure Walk where
  id : Nat
  r : Nat
  abut : Nat
  func : Nat
  va : Nat
  acc : Nat
  write : Bool
  eng : Bool
  running : Bool
  due : Nat
  sg : Nat
  x : Nat
  y : Nat
  stamp : Nat
  sched : Bool
  deriving DecidableEq, Repr

/-- The whole checkpointed state of a region (R122). Elements by sg × 1024 + y × 32 + x, spans by sg × 16 + n,
handlers by sg × 16 + e, barriers by sg × 16 + b at page level, 100000 + b at region level and 200000 + (sg × 16 + n) × 16 + b at span level, folios by sg × 4 + fx,
adders by sg × 128 + port × 4 + n; `rowCode` is the code of the latest ROWHOLD of a row, by row (R406). -/
structure Fabric where
  elems : Tbl Elem
  spans : Tbl Span
  handlers : Tbl Word
  parked : List (Nat × Nat)
  toks : List Tok
  heldToks : List (Tok × List Nat)
  hwrites : List HWrite
  bars : Tbl Barrier
  folios : Tbl Folio
  rowCode : Tbl Nat
  adders : Tbl Adder
  keyFired : List (Nat × Nat)
  staged : List Staged
  nextSeq : Nat
  sigTaken : Nat
  deriving DecidableEq, Repr

/-! ## Regions (R120 to R126) -/

/-- A fault raised in a region (R247, R248). Causes that send no FAULT of their own (R251) have code 0x50, 0x51 or
0x70 and `counts`. -/
structure Flt where
  code : Nat
  page : Nat
  x : Nat
  y : Nat
  sch : Nat
  stamp : Nat
  win : Nat
  addr : Nat
  resumable : Bool
  counts : Bool
  deriving DecidableEq, Repr

/-- What a region is doing. -/
inductive RegionMode where
  | binding (due : Nat)                -- R78
  | running
  | between (due : Nat)                -- boundary passed, next round due (R120)
  | draining                           -- last round ended, keystones or halt awaited (R118, R417)
  | halted (fid : Nat)                 -- by a resumable fault (R250)
  | replaying (due : Nat)              -- R123
  | saving (due : Nat) (forced : Bool) -- R88
  | ending                             -- cancelled or ended by fault: commit under way completes, then the end
  deriving DecidableEq, Repr

/-- A signature bound on a page: whether its last round has ended, whether that round's commit is complete too, and whether its keystone
has passed (R118), from which cycle on a KEYW fires met (R369). -/
structure SigInst where
  decl : SigDecl
  idx : Nat
  page : Nat
  passed : Bool
  final : Bool
  done : Bool
  passedAt : Nat := 0
  deriving DecidableEq, Repr

/-- A debug break (R257): the DBRK entry, the cycles frozen, and whether a SIGNAL has released it. -/
structure Break where
  sg : Nat
  x : Nat
  y : Nat
  stamp : Nat
  sched : Bool
  age : Nat
  out : Bool
  deriving DecidableEq, Repr

/-- A region: the resident state of one bound fabric load. `yieldReq` is the cycle of a yield request and `yieldOwn` says that the
tenant's own debt asked for it (R72, R85); `stopReq` the status with which a saving region ends (R93); `bound` orders the binds; `commits`
counts rounds committed since the bind; `moved` the buffers its load has migrated (R80); `fid` its unresolved resumable fault (R53);
`fwDie` the die whose firmware activation has pre-empted it (R60); `savedBad` is the signature whose saved state cannot be read (R254); of
`roundBytes`, the bytes moved since the last posting, `baseBytes` were moved before the running round (R71); `cfgs` and `stagingCfgs` are
every tenant's configuration words, by function × 4 + index, at the start of the running round and of the one whose counts wait for their
fold (R261); `savedOwn` says that the save from which the region resumes was asked for by its tenant's own debt (R72); `readsTo` is above
every number of a read of the ended rounds (R168); `writeBacks` are write-backs that a fault has held up over a yield, engine remainders that
are issued again before the first round (R89, R135). -/
structure Region where
  num : Nat
  func : Nat
  ltag : Word
  aseq : Nat
  load : Nat
  graph : Nat
  prio : Nat
  rel : Nat
  sigs : List SigInst
  old : Fabric
  now : Fabric
  ckpt : Fabric
  mode : RegionMode
  brk : Option Break
  rnd : Nat
  cyc : Nat
  limit : Nat
  roundNs : Nat
  cycSum : Nat
  attempt : Nat
  voids : Nat
  raised : List Flt
  commit : List Staged
  commitOn : Bool
  commitDue : Nat
  yieldReq : Option Nat
  yieldOwn : Bool
  savedOwn : Bool
  readsTo : Nat
  writeBacks : List Staged
  stopReq : Option Nat
  haltTaken : Bool
  bound : Nat
  commits : Nat
  wheel : Option Nat
  fwver : List Word
  counts : Tbl Nat
  staging : Tbl Nat
  pmFile : Tbl Word
  sigSnap : List Word
  pageStart : Nat
  roundPc : Nat
  roundBytes : Nat
  baseBytes : Nat
  cfgs : Tbl Word
  stagingCfgs : Tbl Word
  holdsNew : List Nat
  returns : List (Nat × Nat × List Byte)
  shadowBad : Option (Nat × Nat × Nat × Nat)
  savedBad : Option Nat
  saved : Bool
  moved : List Nat
  fid : Option Nat
  fwDie : Option Nat
  deriving DecidableEq, Repr

/-- A ready item (R68): a released load, or a saved region with its state. -/
structure Ready where
  func : Nat
  ltag : Word
  aseq : Nat
  load : Nat
  prio : Nat
  rel : Nat
  saved : Option Region
  deriving DecidableEq, Repr

/-! ## Tenants and launches (R36, R48, R51, R71, R258) -/

/-- A launch in a graph queue; `frac` is the part of its charges below one page-cycle (R71). `host` is the TAG of its LAUNCH; `tag`, the SEQ of its acceptance, tells launches apart
whose TAGs are equal (DEDUCED, log 31). -/
structure Launch where
  func : Nat
  tag : Word
  host : Word
  aseq : Nat
  slot : Nat
  set : Nat
  graph : Nat
  prio : Nat
  plen : Nat
  param : BitVec 384
  img : Image
  bufs : List Nat
  binds : List (Nat × Nat × Nat)
  active : Bool
  released : List Nat
  passed : List Nat
  pcyc : Nat
  bytes : Nat
  frac : Nat
  signals : List Word
  noMore : Bool
  status : Option Nat
  flt : Option (Nat × Nat)
  deriving DecidableEq, Repr

/-- A loaded image: its buffers by number in `State.bufs`. -/
structure Loaded where
  img : Image
  bufs : List Nat
  deriving DecidableEq, Repr

/-- A folio slot of the tenant's folio area, `len` bytes at device address `pa`, with the layer's watch-table entry (R214, R217): what was
written back last. -/
structure FolioSlot where
  layer : Nat
  slot : Nat
  pa : Nat
  len : Nat
  va : Nat
  ext : Nat
  version : Word
  ctl : Folio
  xp : List Word
  yp : List Word
  deriving DecidableEq, Repr

/-- An entry of a prefix table (R237). -/
structure PrefixEntry where
  h : BitVec 64
  recs : List Byte
  value : BitVec 64
  ref : Nat
  sticky : Bool
  holds : List Nat
  deriving DecidableEq, Repr

/-- A retention register (R146). -/
structure Retain where
  vbase : Nat
  lines : Nat
  deriving DecidableEq, Repr

/-- A tenant (R36, R45). `gpt` and `hpt` are the root tables of its two stages, a guest-physical and a system-physical address, 0 before
its first buffer; `tables` are the device pages that hold its tables (R138). -/
structure Tenant where
  cls : Nat
  ways : Nat
  pages : Nat
  prio : Nat
  keys : Nat
  rows : Nat
  quant : Nat
  rate : Nat
  deficit : Int
  frac : Nat
  dying : Option Word
  nfid : Nat
  images : Tbl Loaded
  binds : List (Nat × Nat × Nat × Nat × Nat)
  queue : List Launch
  folios : List FolioSlot
  prefixes : List PrefixEntry
  collisions : Nat
  retain : Tbl Retain
  pmc : Tbl Nat
  pmcfg : Tbl Word
  pmCyc : Nat
  pmRnd : Nat
  gpt : Nat
  hpt : Nat
  tables : List Nat
  deriving DecidableEq, Repr

/-- A buffer in device DRAM (R79): the home stack, or none when spread; `placed` once a signature that declares it has
been placed. Unit k of 2 MiB has its place in part k mod n of the n parts that begin at `bases`. Of a sparse buffer only the
units `backed` have translations (R431). -/
structure Buffer where
  func : Nat
  va : Nat
  size : Nat
  acc : Nat
  sparse : Bool
  cmp : Nat
  kib : Nat
  pinned : Bool
  home : Option Nat
  placed : Bool
  bases : List Nat
  backed : List Nat
  deriving DecidableEq, Repr

/-! ## Memory side (R136, R143 to R161) -/

/-- A range entry (R136); `age` orders dynamic installs. -/
structure RangeEntry where
  owner : Nat
  vbase : Nat
  pages : Nat
  sbase : Nat
  w : Bool
  cmp : Nat
  dyn : Bool
  age : Nat
  deriving DecidableEq, Repr

/-- A nested TLB entry (R140). -/
structure NTlb where
  func : Nat
  gpa : Nat
  spa : Nat
  bits : Nat
  w : Bool
  deriving DecidableEq, Repr

/-- A line of an L2 slice (R145): sector masks, owner, pin, evict-first. A set lists its lines most recent first. -/
structure Line where
  ln : Nat
  way : Nat
  valid : Nat
  dirty : Nat
  owner : Nat
  pin : Bool
  ef : Bool
  deriving DecidableEq, Repr

/-- The state of a held row (R156). -/
inductive RowSt where
  | held
  | suspended
  | saved
  deriving DecidableEq, Repr

/-- A hold-table entry (R156): the row's physical address, its holder, the lines at which the hold has taken
effect (R159), and the cycle it was entered in. -/
structure RowHold where
  pa : Nat
  func : Nat
  r : Nat
  sg : Nat
  reopen : Bool
  st : RowSt
  lines : List Nat
  since : Nat
  deriving DecidableEq, Repr

/-- Counts of one slice for one tenant (R150). -/
structure SliceCount where
  ovf : Nat
  hit : Nat
  miss : Nat
  deriving DecidableEq, Repr

/-! ## Host side and links -/

/-- A tenant's cache class and ways as a TENANT.BUDGET sets them (R45). -/
structure Budget where
  func : Nat
  cls : Nat
  ways : Nat
  deriving DecidableEq, Repr

/-- A device message before it has a sequence number (R46). An ACK of TENANT.BUDGET carries the ways and the class that govern from it on
(R433). -/
structure DMsg where
  kind : Nat
  func : Nat
  tag : Word
  units : Nat
  payload : List Byte
  eff : Option Budget := none
  deriving DecidableEq, Repr

/-- A completed-request record (R48). -/
structure FinRec where
  func : Nat
  status : Nat
  kind : Nat
  flt : Bool
  rtag : Word
  fcode : Nat
  ffid : Nat
  pcyc : Nat
  bytes : Nat
  seq : Option Nat
  deriving DecidableEq, Repr

/-- An unresolved resumable fault (R48). -/
structure FltRec where
  func : Nat
  ltag : Word
  fid : Nat
  flt : Flt
  deriving DecidableEq, Repr

/-- The link status of a port (R32). -/
inductive PortSt where
  | active
  | retraining
  | failed
  | down
  deriving DecidableEq, Repr

/-- A viaduct port (R11 to R17): width 16, 8, 4 or 0; lanes failed or retired; `errs`, the places in the count of
flits of the latest CRC errors; `prior`, the failed lanes and the width from before a CAL.RUN that is under way (R61); sequence numbers of both directions; the replay buffer; payloads waiting to be sent, flits
sent and payloads delivered, by class; whether a replay is wanted, and whether the link-level viral indication has been sent
(R25). -/
structure Port where
  st : PortSt
  width : Nat
  spare : Nat
  bad : List Nat
  prior : Option (List Nat × Nat)
  retired : List Nat
  rtcnt : Nat
  errs : List Nat
  flits : Nat
  txSeq : Nat
  txAck : Nat
  rxSeq : Nat
  replay : List Flit
  waiting : List (Nat × List Byte)
  out : List Flit
  got : List (Nat × List Byte)
  wants : Bool
  viralInd : Bool
  deriving DecidableEq, Repr

/-- The state of one fabric die (R26, R28, R32, R60). -/
structure Die where
  service : Bool
  droop : Bool
  heat : Bool
  excluded : Bool
  fwver : Word
  droops : Word
  deriving DecidableEq, Repr

/-- What an operation of the part happens to: region, signature, coordinates, a number, the cycle's schedule and
stamp. -/
structure Focus where
  r : Nat
  sg : Nat
  x : Nat
  y : Nat
  n : Nat
  sched : Bool
  stamp : Nat
  deriving DecidableEq, Repr

/-- Lanes that the environment flips in the datapaths of element (x, y) of a page in one cycle: in the firing of its entry, or, where
`tile`, in the landing of a tile operation. A lane that is stuck flips where the value there differs (R210, R211, R399).
The lanes are an input of the environment (DESIGN CHOICE, log 78). -/
structure Upset where
  cycle : Nat
  page : Nat
  x : Nat
  y : Nat
  tile : Bool
  prim : Word
  shadow : BitVec 33
  deriving DecidableEq, Repr

/-- One thing the part does next. -/
inductive Op where
  | fire (r sg x y : Nat)
  | ev (i : Instr) (f : Focus)
  | msg (bytes : List Byte)
  | sbw (off v : Word)
  | flit (port : Nat) (bytes : List Byte)
  deriving DecidableEq, Repr

/-- The phases of a cycle (DESIGN CHOICE, log 8). -/
inductive Phase where
  | early   -- inputs, timers, host messages out, launches, choices, binds
  | serve   -- reads served, then stores performed (R192)
  | fire    -- the steps of the running spans (R101)
  | land    -- what arrives at the end of the cycle
  | arrive  -- windowed results (R113)
  | close   -- window closes (R113)
  | wrap    -- wraps and schedule switches (R103, R104)
  | ctl     -- handler tokens, handler writes (R117, R124, R336)
  | freed   -- handler tokens that a rewrite has held back (R336)
  | bound   -- round boundaries, limits, faults taken (R87, R120, R249)
  | tick
  deriving DecidableEq, Repr

/-- The management command under way (R59 to R62). -/
inductive Mgmt where
  | fwStage (tag : Word) (haddr len : Nat)
  | fwActivate (tag : Word) (dies : List Nat) (comp : Nat)
  | calRun (tag : Word) (tkind index : Nat)
  | retire (tag : Word) (tkind index lane base ext : Nat)
  | imageLoad (func slot : Nat) (tag : Word) (haddr len : Nat)
  deriving DecidableEq, Repr

/-- The host interface of the device (R38 to R42, R56 to R58). `waiting` holds the accepted host messages that are not
taken up yet (R43), `prep` the snapshot that a RESYNC has prepared (R57). -/
structure Nmp where
  hacc : Word
  diss : Word
  dack : Word
  hold : Bool
  held : Bool
  snap : Bool
  prep : List DMsg
  resend : Bool
  resending : List (Nat × DMsg)
  errCount : Nat
  errWin : Bool
  errSeq : Bool
  kept : List (Nat × DMsg)
  queue : List DMsg
  waiting : List Instr
  out : List (List Byte)
  fin : List FinRec
  flts : List FltRec
  deriving DecidableEq, Repr

/-- The whole machine. -/
structure State where
  -- time and what happens next (the model's own: DESIGN CHOICE, log 7, 8)
  cycle : Nat
  phase : Phase
  ready : List Op
  agenda : List (Nat × Op)
  timers : List (Nat × Nat × Op)
  focus : Focus
  lats : List Nat
  latDefault : Nat
  nsPer : List Nat
  nextId : Nat
  -- management registers (R32, R56, R256)
  rstCause : BitVec 2
  viral : Bool
  viralCause : Byte
  held : Bool
  resetPend : Option (BitVec 2)
  hlmod : List Bool
  eccc : Word
  eccu : Word
  eccloc : Word
  ns : Nat
  nsTenth : Nat
  dies : List Die
  ports : Tbl Port
  -- host interface
  nmp : Nmp
  mgmt : List Mgmt
  bundle : List Byte
  bootKeys : Option (List (List Byte))
  -- tenants and scheduling
  tenants : Tbl Tenant
  bufs : Tbl Buffer
  items : List Ready
  chosen : Option (Nat × Word × Nat)
  choicePend : Bool
  served : Nat
  regions : Tbl Region
  retired : List Nat
  retiredMem : List (Nat × Nat × Nat)
  -- memory
  coh : Memory
  dram : Memory
  host : Memory
  poison : List Nat
  l2 : Tbl (List Line)
  slices : Tbl SliceCount
  gatedWays : List (Nat × Nat)
  hot : Tbl Nat
  rows : List RowHold
  openRows : List Nat
  ranges : Tbl RangeEntry
  ntlb : Tbl (List NTlb)
  walks : List Walk
  hostDead : List (Nat × Nat)
  upsets : List Upset
  vcache : List VLine
  wheel : Tbl Nat
  -- what the elements of a page hold after its keystone, by page × 1,024 + y × 32 + x, until the page is bound again (R429)
  left : Tbl Elem
  deriving DecidableEq, Repr

/-! ## Reset (R33 to R36) -/

/-- A die after reset. FWVER reads the boot bundle's version, which the spec does not fix (DESIGN CHOICE, log 3). -/
def Die.reset : Die :=
  { service := true, droop := false, heat := false, excluded := false, fwver := 0#32, droops := 0#32 }

/-- A port after reset: trained at x16 (R34 step 5), its sequence spaces at their start (DESIGN CHOICE, log 11). -/
def Port.reset : Port :=
  { st := .active, width := 16, spare := 0, bad := [], prior := none, retired := [], rtcnt := 0, errs := [], flits := 0, txSeq := 0,
    txAck := 0xFFF, rxSeq := 0xFFF, replay := [], waiting := [], out := [], got := [], wants := false, viralInd := false }

/-- Function 0 after reset (R36). -/
def Tenant.zero : Tenant :=
  { cls := 0, ways := 0xFFFF, pages := 128, prio := 7, keys := 0xFFFF, rows := 65536, quant := 1048576, rate := 0,
    deficit := 0, frac := 0, dying := none, nfid := 1, images := [], binds := [], queue := [], folios := [],
    prefixes := [], collisions := 0, retain := [], pmc := [], pmcfg := [], pmCyc := 0, pmRnd := 0, gpt := 0,
    hpt := 0, tables := [] }

/-- The host interface after reset (R38, R56). -/
def Nmp.reset : Nmp :=
  { hacc := 0xFFFFFFFF#32, diss := 0xFFFFFFFF#32, dack := 0xFFFFFFFF#32, hold := false, held := false, snap := false, prep := [],
    resend := false, resending := [], errCount := 0, errWin := false, errSeq := false, kept := [], queue := [], waiting := [], out := [],
    fin := [], flts := [] }

/-- No focus. -/
def Focus.none : Focus := { r := 0, sg := 0, x := 0, y := 0, n := 0, sched := false, stamp := 0 }

/-- The machine right after a power-on reset whose self-test found nothing (R34, R35). -/
def State.reset : State :=
  { cycle := 0, phase := .tick, ready := [], agenda := [], timers := [], focus := Focus.none, lats := [],
    latDefault := 1, nsPer := [], nextId := 1, rstCause := 0#2, viral := false, viralCause := 0#8,
    held := false, resetPend := none, hlmod := [true, true, true, true], eccc := 0#32, eccu := 0#32, eccloc := 0#32, ns := 0, nsTenth := 0,
    dies := List.replicate 8 Die.reset, ports := (List.range 18).map (fun p => (p, Port.reset)), nmp := Nmp.reset,
    mgmt := [], bundle := [], bootKeys := none, tenants := [(0, Tenant.zero)], bufs := [], items := [],
    chosen := none, choicePend := false, served := 63, regions := [], retired := [], retiredMem := [],
    coh := [], dram := [], host := [], poison := [], l2 := [], slices := [],
    gatedWays := (List.range 128).map (fun i => (i / 16, i % 16)), hot := [], rows := [], openRows := [], ranges := [],
    ntlb := [], walks := [], hostDead := [], upsets := [], vcache := [], wheel := [], left := [] }

end Sys2Proof.Machine
end

