-- ==== Sys2Proof/Machine/Ops.lean ====
section
/-! DEFINITION. The named operations over memory, registers and the fabric, and taking a fault (R123, R247 to R251). -/

namespace Sys2Proof.Machine

open Sys2Proof

/-! ## Memory -/

/-- The byte at address `a`: an unlisted address reads zero (DESIGN CHOICE, log 1). -/
def Memory.read : Memory → Nat → Byte
  | [], _ => 0#8
  | (a', b) :: t, a => if a' = a then b else Memory.read t a

/-- Byte `b` written at address `a`, keeping the canonical form. -/
def Memory.write : Memory → Nat → Byte → Memory
  | [], a, b => if b = 0#8 then [] else [(a, b)]
  | (a', b') :: t, a, b =>
    if a < a' then (if b = 0#8 then (a', b') :: t else (a, b) :: (a', b') :: t)
    else if a = a' then (if b = 0#8 then t else (a, b) :: t)
    else (a', b') :: Memory.write t a b

/-- `n` bytes from address `a`. -/
def Memory.readN (m : Memory) (a : Nat) : Nat → List Byte
  | 0 => []
  | n + 1 => m.read a :: Memory.readN m (a + 1) n

/-- A run of bytes written from address `a`. -/
def Memory.writeN (m : Memory) (a : Nat) : List Byte → Memory
  | [] => m
  | b :: t => Memory.writeN (m.write a b) (a + 1) t

/-- A 32-bit little-endian word (R37). -/
def Memory.word (m : Memory) (a : Nat) : Word := BitVec.ofNat 32 (leNat (m.readN a 4))

/-! ## Values at bind (R286, R307, R324, R339) -/

/-- A chained counter at bind. -/
def Counter.zero : Counter := { value := 0#32, start := 0#32, mode := 0#2, rl := false }
/-- A tag at bind (R132). -/
def Tag.zero : Tag := { t := 0#8, chk := false }
/-- A bank group at bind (R128, R130). -/
def Grp.zero : Grp := { cur := 0, e := 0#8, head := 0, q := [], promised := 0, hl := 0, col := 0 }
/-- A stream that is not declared. -/
def Stream.none : Stream :=
  { base := 0, ext := 0, pos := 0, stride := 0, mark := 0, hint := 0, beats := [], fetch := 0, due := 0,
    part := [], readAhead := [] }
/-- An empty soft-token register (R226). Its ALLOW and HASH, for which the spec gives no value, are 0xFFFF and 0 (DESIGN CHOICE,
log 70). -/
def Soft.empty : Soft :=
  { kind := 0, nc := 0, allow := 0xFFFF#16, hash := 0#64, haddr := 0, hlen := 0, hfmt := 0, ids := [], wts := [],
    mark := false }
/-- No decoding context. -/
def Dctx.none : Dctx :=
  { v := 0, vocb := 0, ebase := 0, edim := 0, efmt := 0, lbase := 0, lsize := 0,
    pbase := 0, psize := 0, posn := 0, ppos := 0, gon := false, gbase := 0, mbase := 0, tbase := 0, nstate := 0,
    start := 0, state := 0#32, evm := false, strs := [], slen := [], cuts := false, tail := [], hit := false,
    hitj := 0, emit := 0, back := 0 }

/-- An element at bind: every register reads zero, the generator at its constants (R286, R307). -/
def Elem.fresh (k : Kind) : Elem :=
  { kind := k, g := [], k := [], rot := 0#5, p := [], c := [], acc := [], slots := [], claimed := [], sortK := [],
    sortI := [], rk := 64, cvb := [], oh := 0#32, hdr := 0#32, gs0 := 0x9E3779B9#32, gs1 := 0x243F6A88#32,
    gs2 := 0xB7E15162#32, gs3 := 0x0000A5C1#32, inq := [], tok := [], wins := [], sram := [], tags := [], grps := [],
    streams := [], reads := [], copies := [], st := [], dc := Dctx.none, softOps := [], marks := [], node := [],
    pha := [], order := [], acqNext := [], relNext := [], epoch := [], used := [], usedDie := [], poison := [], waking := [],
    taken := [], scatAt := 0, waited := [] }

/-- A span at bind: its counter at 0 and schedule A in force (R102). -/
def Span.fresh (run : SpanRun) : Span :=
  { run := run, counter := 0, sched := false, choice := none, swsAt := none, haltAtWrap := false, endp := false, periods := 0,
    pstart := 0, cyc := 0, keyed := false, stalled := false }

/-- A barrier at bind (R366). -/
def Barrier.zero : Barrier := { done := 0, arrived := [], coming := [] }
/-- A new folio slot's control fields: invalid, VER 0 (R214). -/
def Folio.zero : Folio :=
  { valid := false, refresh := false, kill := false, full := false, nfin := false, ph := 0, ver := 0#32, vlat := 0#32,
    drift := 0#32, pend := 0#32, cnt := 0, tc := 0, xOff := 0 }
/-- An adder at bind (R20). -/
def Adder.zero : Adder := { i := 0, crossing := [], arriving := [], loc := [] }

/-- A fabric with nothing bound. -/
def Fabric.empty : Fabric :=
  { elems := [], spans := [], handlers := [], parked := [], toks := [], heldToks := [], hwrites := [], bars := [],
    folios := [], rowCode := [], adders := [], keyFired := [], staged := [], nextSeq := 0, sigTaken := 0 }

/-- A signature that declares nothing. -/
def SigDecl.none : SigDecl :=
  { pin := 0xFF, kx := 0, ky := 0, barriers := 0, debug := false, chainE := 0xFFFF, chainN := 0xFFFF, spans := [],
    tokens := 0, handlers := [], folios := [], rows := [], carries := [], streams := [], adders := [], sends := [],
    evicts := [], soles := [], elems := [] }

/-- An element that declares nothing. -/
def ElemDecl.none (x y : Nat) : ElemDecl :=
  { x := x, y := y, kind := if (x + y) % 2 = 0 then .ce else .me, g := 0, k := 0, p := 0, c := 0, win := 0, cfmt := 0#32,
    groups := [], rcxs := [], recv := 0, dctx := Option.none, schedA := [], schedB := [] }

/-- An image without contents. -/
def Image.none : Image := { key := 0, pblk := 0, bufs := [], datas := [], eps := [], graphs := [], sigs := [] }

/-- A region with nothing in it. -/
def Region.empty : Region :=
  { num := 0, func := 0, ltag := 0#32, aseq := 0, load := 0, graph := 0, prio := 0, rel := 0, sigs := [], old := Fabric.empty,
    now := Fabric.empty, ckpt := Fabric.empty, mode := .ending, brk := none, rnd := 0, cyc := 0, limit := 0,
    roundNs := 0, cycSum := 0, attempt := 0, voids := 0, raised := [], commit := [], commitOn := false, commitDue := 0,
    yieldReq := none, yieldOwn := false, savedOwn := false, readsTo := 0, stopReq := none, haltTaken := false,
    bound := 0, commits := 0, wheel := none, fwver := [], counts := [], staging := [], pmFile := [], sigSnap := [],
    pageStart := 0, roundPc := 0, roundBytes := 0, baseBytes := 0, cfgs := [], stagingCfgs := [], holdsNew := [], returns := [], shadowBad := none, savedBad := none, writeBacks := [],
    saved := false, moved := [], fid := none, fwDie := none }

/-- A launch without contents. -/
def Launch.none : Launch :=
  { func := 0, tag := 0#32, host := 0#32, aseq := 0, slot := 0, set := 0, graph := 0, prio := 0, plen := 0, param := 0#384,
    img := Image.none, bufs := [], binds := [], active := false, released := [], passed := [], pcyc := 0, bytes := 0, frac := 0,
    signals := [], noMore := false, status := Option.none, flt := Option.none }

/-! ## Access to the state -/

/-- The region of a number. -/
def State.reg (s : State) (r : Nat) : Region := s.regions.get Region.empty r

/-- The state with region `r` changed by `f`. -/
def State.modReg (s : State) (r : Nat) (f : Region → Region) : State :=
  { s with regions := s.regions.modify r f }

/-- The region in focus. -/
def State.rg (s : State) : Region := s.reg s.focus.r

/-- The state with the region in focus changed. -/
def State.modR (s : State) (f : Region → Region) : State := s.modReg s.focus.r f

/-- The state with the running fabric of the region in focus changed. -/
def State.modNow (s : State) (f : Fabric → Fabric) : State := s.modR (fun r => { r with now := f r.now })

/-- The key of an element (see `Fabric`). -/
def elemKey (sg x y : Nat) : Nat := sg * 1024 + y * 32 + x

/-- The parity of coordinates gives the kind (R94). -/
def kindAt (x y : Nat) : Kind := if (x + y) % 2 = 0 then .ce else .me

/-- Element (sg, x, y) of a fabric; an element that holds nothing is as at bind (R286). -/
def Fabric.elem (f : Fabric) (sg x y : Nat) : Elem := f.elems.get (Elem.fresh (kindAt x y)) (elemKey sg x y)

/-- The fabric with element (sg, x, y) changed. -/
def Fabric.modElem (f : Fabric) (sg x y : Nat) (g : Elem → Elem) : Fabric :=
  { f with elems := f.elems.set (elemKey sg x y) (g (f.elem sg x y)) }

/-- The element in focus as it stood at the end of the previous cycle (R101). -/
def State.oldE (s : State) : Elem := s.rg.old.elem s.focus.sg s.focus.x s.focus.y

/-- The element in focus as this cycle has written it so far. -/
def State.nowE (s : State) : Elem := s.rg.now.elem s.focus.sg s.focus.x s.focus.y

/-- The state with the element in focus changed. -/
def State.modE (s : State) (g : Elem → Elem) : State :=
  s.modNow (fun f => f.modElem s.focus.sg s.focus.x s.focus.y g)

/-- The state with another element of the signature in focus changed. -/
def State.modEAt (s : State) (sg x y : Nat) (g : Elem → Elem) : State := s.modNow (fun f => f.modElem sg x y g)

/-- Signature `sg` of a region. -/
def Region.sig (r : Region) (sg : Nat) : SigInst :=
  (r.sigs[sg]?).getD { decl := SigDecl.none, idx := 0, page := 0, passed := false, final := false, done := false }

/-- The declaration of an element of a signature. -/
def SigDecl.elem (d : SigDecl) (x y : Nat) : ElemDecl :=
  (d.elems.find? (fun e => e.x == x && e.y == y)).getD (ElemDecl.none x y)

/-- The span that holds (x, y). -/
def SigDecl.spanAt (d : SigDecl) (x y : Nat) : Option SpanDecl :=
  d.spans.find? (fun p => p.x0 ≤ x && x ≤ p.x1 && p.y0 ≤ y && y ≤ p.y1)

/-- The signature in focus. -/
def State.sig (s : State) : SigInst := s.rg.sig s.focus.sg

/-- The declaration of the element in focus. -/
def State.decl (s : State) : ElemDecl := s.sig.decl.elem s.focus.x s.focus.y

/-- The page of the element in focus. -/
def State.page (s : State) : Nat := s.sig.page

/-- The die of a page, and of a stack (R6). -/
def dieOfPage (p : Nat) : Nat := p / 16
def dieOfStack (k : Nat) : Nat := k / 2

/-- The number of the span that holds the element in focus. -/
def State.spanNo (s : State) : Nat :=
  match s.sig.decl.spanAt s.focus.x s.focus.y with
  | some p => p.n
  | none => 0

/-- Span `n` of signature `sg`. -/
def Fabric.span (f : Fabric) (sg n : Nat) : Span := f.spans.get (Span.fresh .idle) (sg * 16 + n)

/-- The fabric with span `n` of signature `sg` changed. -/
def Fabric.modSpan (f : Fabric) (sg n : Nat) (g : Span → Span) : Fabric :=
  { f with spans := f.spans.set (sg * 16 + n) (g (f.span sg n)) }

/-- The span in focus changed. -/
def State.modSpan (s : State) (g : Span → Span) : State := s.modNow (fun f => f.modSpan s.focus.sg s.spanNo g)

/-- The tenant of a function. -/
def State.tenant (s : State) (f : Nat) : Option Tenant := s.tenants.find f

/-- The state with tenant `f` changed. -/
def State.modTenant (s : State) (f : Nat) (g : Tenant → Tenant) : State :=
  { s with tenants := s.tenants.modify f g }

/-- A launch of a tenant by TAG. -/
def State.launchOf (s : State) (func : Nat) (tag : Word) : Option Launch :=
  match s.tenant func with
  | some t => t.queue.find? (fun l => l.tag == tag)
  | none => none

/-- The state with a launch changed. -/
def State.modLaunch (s : State) (func : Nat) (tag : Word) (g : Launch → Launch) : State :=
  s.modTenant func (fun t => { t with queue := t.queue.map (fun l => if l.tag == tag then g l else l) })

/-- The next latency the spec leaves open, 1 or more (DESIGN CHOICE, log 7). -/
def State.lat (s : State) : Nat × State :=
  match s.lats with
  | [] => (Nat.max 1 s.latDefault, s)
  | n :: t => (Nat.max 1 n, { s with lats := t })

/-- The next latency where the spec bounds it. -/
def State.latMost (s : State) (most : Nat) : Nat × State := (Nat.min s.lat.1 most, s.lat.2)

/-- A fresh number for something in flight (DESIGN CHOICE, log 60). -/
def State.fresh (s : State) : Nat × State := (s.nextId, { s with nextId := s.nextId + 1 })

/-- A fabric event counted on a page for the tenant's counters (R259, R261): key event × 128 + page. -/
def Region.count (r : Region) (ev page n : Nat) : Region :=
  { r with counts := r.counts.set (ev * 128 + page) (r.counts.get 0 (ev * 128 + page) + n) }

/-- The event counted for the page in focus. -/
def State.count (s : State) (ev : Nat) : State := s.modR (fun r => r.count ev s.page 1)

/-! ## Stalls and faults -/

/-- The span in focus freezes: the step takes no effect (R111). -/
def State.stall (s : State) : State := s.modSpan (fun p => { p with stalled := true })

/-- How a FAULT names the schedule of an entry: an eviction write-back, which has none, stands under stamp 0xFFFF (R248). -/
def schOf (sched : Bool) (stamp : Nat) : Nat := if stamp = 0xFFFF then 0xFF else if sched then 1 else 0

/-- A fault located at the entry in focus (R248). -/
def State.fltHere (s : State) (code win addr : Nat) : Flt :=
  { code := code, page := s.page, x := s.focus.x, y := s.focus.y, sch := schOf s.focus.sched s.focus.stamp,
    stamp := s.focus.stamp, win := win, addr := addr, resumable := false, counts := code == 0x50 || code == 0x51 || code == 0x70 }

/-- A fault is raised in the region in focus: the end of the cycle takes the first of the cycle's faults
(R249, `takeFault`). -/
def State.raise (s : State) (f : Flt) : State := s.modR (fun r => { r with raised := r.raised ++ [f] })

/-- A precise fault of the entry in focus: its step takes no effect, and the fault is raised (R249). -/
def State.raiseHere (s : State) (code addr : Nat) : State := s.raise (s.fltHere code 0 addr)

/-- What stands in the way of an entry: nothing, a freeze, a fault of a code with an address, or a unit of a sparse buffer that is not
backed, which is fault 0x40 with its address, resumable (R141, R438). -/
inductive Chk where
  | ok
  | stall
  | fault (code addr : Nat)
  | unbacked (addr : Nat)
  deriving DecidableEq, Repr

/-- Two conditions on one step together: a step that must freeze raises no fault yet (R111); of two faults the
lower code stands (R249) (DEDUCED, log 24). -/
def Chk.and : Chk → Chk → Chk
  | .stall, _ => .stall
  | _, .stall => .stall
  | .fault c a, .fault c' a' => if c' < c then .fault c' a' else .fault c a
  | .fault c a, .unbacked a' => if 0x40 < c then .unbacked a' else .fault c a
  | .unbacked a, .fault c' a' => if c' < 0x40 then .fault c' a' else .unbacked a
  | .unbacked a, _ => .unbacked a
  | .fault c a, .ok => .fault c a
  | .ok, c => c

/-- The outcome of an entry under a check: its effect, the freeze of its step, or the fault. -/
def State.under (s : State) (c : Chk) (eff : State → State) : State :=
  match c with
  | .ok => eff s
  | .stall => s.stall
  | .fault code addr => s.raiseHere code addr
  | .unbacked addr => s.raise { s.fltHere 0x40 0 addr with resumable := true }

/-- An outcome that is always a next state. -/
def go (s : State) : Host.Outcome State Fault Refusal := .next s

/-- Order of faults in one cycle: lowest code, page, y, x, schedule A before B (R249). -/
def Flt.before (a b : Flt) : Bool :=
  if a.code ≠ b.code then a.code < b.code
  else if a.page ≠ b.page then a.page < b.page
  else if a.y ≠ b.y then a.y < b.y
  else if a.x ≠ b.x then a.x < b.x
  else a.sch < b.sch

/-- The fault of the cycle that is reported. A silent-error mismatch, a consumed error or the round limit yields to
a fault that halts (R264). -/
def firstFault (l : List Flt) : Option Flt :=
  match sortBy Flt.before (l.filter (fun f => !f.counts)) with
  | f :: _ => some f
  | [] => (sortBy Flt.before l).head?

/-! ## Device messages (R40, R42, R46) -/

/-- A device message queued for sending. A new EVENT that finds the queue of 4,096 full is discarded and counted; a
viral part sends nothing (R24, R40). -/
def State.send (s : State) (m : DMsg) : State :=
  if s.viral then s
  else if m.kind = 0x83 ∧ s.nmp.queue.length ≥ 4096 then
    { s with nmp := { s.nmp with errCount := Nat.min 65535 (s.nmp.errCount + 1) } }
  else { s with nmp := { s.nmp with queue := s.nmp.queue ++ [m] } }

/-- ACK (R46). -/
def State.ack (s : State) (h : MsgHdr) (kind status : Nat) : State :=
  s.send { kind := 0x86, func := h.func.toNat, tag := 0#32, units := 1
           payload := leBytes 1 status ++ leBytes 1 kind ++ leBytes 2 0 ++ leBytes 4 h.tag.toNat }

/-- COMPLETE (R46), with its completed-request record (R48), which lasts until the host acknowledges it. `flt` is the
code and FID of a FAULT of the request that came before. -/
def State.complete (s : State) (func kind status : Nat) (rtag : Word) (pcyc bytes : Nat) (flt : Option (Nat × Nat)) : State :=
  let t := s.send { kind := 0x81, func := func, tag := 0#32, units := 1
                    payload := leBytes 1 status ++ leBytes 1 kind ++ leBytes 2 0 ++ leBytes 4 rtag.toNat ++
                      leBytes 8 pcyc ++ leBytes 8 bytes }
  let f : FinRec := { func := func, status := status, kind := kind, flt := flt.isSome, rtag := rtag,
                      fcode := (flt.map Prod.fst).getD 0, ffid := (flt.map Prod.snd).getD 0, pcyc := pcyc, bytes := bytes,
                      seq := none }
  { t with nmp := { t.nmp with fin := t.nmp.fin ++ [f] } }

/-- The TAG under which the host knows a launch. -/
def State.hostTag (s : State) (func : Nat) (tag : Word) : Word := ((s.launchOf func tag).map (·.host)).getD 0#32

/-- FAULT (R46, R248). -/
def State.faultMsg (s : State) (func : Nat) (ltag : Word) (fid : Nat) (f : Flt) : State :=
  s.send { kind := 0x82, func := func, tag := 0#32, units := 1
           payload := leBytes 1 f.code ++ leBytes 1 (if f.resumable then 1 else 0) ++ leBytes 2 f.page ++
             leBytes 4 (s.hostTag func ltag).toNat ++ leBytes 4 fid ++ leBytes 1 f.x ++ leBytes 1 f.y ++ leBytes 1 f.sch ++ leBytes 1 0 ++
             leBytes 2 f.stamp ++ leBytes 2 f.win ++ leBytes 4 0 ++ leBytes 8 f.addr }

/-- EVENT (R46). -/
def State.eventMsg (s : State) (func src page : Nat) (ltag value : Word) (x y stamp : Nat) : State :=
  s.send { kind := 0x83, func := func, tag := 0#32, units := 1
           payload := leBytes 1 src ++ leBytes 1 0 ++ leBytes 2 page ++ leBytes 4 ltag.toNat ++ leBytes 4 value.toNat ++
             leBytes 1 x ++ leBytes 1 y ++ leBytes 2 0 ++ leBytes 2 stamp }

/-! ## Charges (R71, R72) -/

/-- A signed 64-bit account that saturates. -/
def satAccount (d : Int) : Int := satS 64 d

/-- Page-cycles and bytes charged to a tenant's account; the fraction below one page-cycle is carried. -/
def Tenant.charge (t : Tenant) (pc bytes : Nat) : Tenant :=
  let m := bytes * t.rate + t.frac
  { t with deficit := satAccount (t.deficit - ((pc + m / 2 ^ 26 : Nat) : Int)), frac := m % 2 ^ 26 }

/-- Whether a region saves. -/
def Region.saves (g : Region) : Bool := match g.mode with | .saving _ _ => true | _ => false

/-- Whether a region's launch is over: what it still commits can wait for nothing. -/
def Region.over (g : Region) : Bool :=
  g.stopReq.isSome || (match g.mode with | .ending => true | _ => false)

/-- Whether a number is one of an access of the round whose commit is under way (R168). -/
def Region.isEnded (g : Region) (id : Nat) : Bool := g.commitOn && decide (id < g.readsTo)

/-- Whether a row that a region holds is suspended: its save waits for it to be open again (R163). -/
def State.suspends (s : State) (r : Nat) : Bool := s.rows.any (fun h => h.r == r && h.st == .suspended)

/-- Whether a region saves and the bound of R88 comes near: what is still in flight comes at once (DEDUCED, log 68). -/
def Region.hurried (g : Region) (cycle : Nat) : Bool :=
  match g.mode with
  | .saving n _ => decide (n ≤ cycle + 1000)
  | _ => false

/-- How many cycles a save that begins now may take: 10,000, and no more than is left of 22,500 since the request (R88). -/
def Region.saveMost (g : Region) (cycle : Nat) : Nat :=
  match g.yieldReq with
  | some q => Nat.min 10000 (q + 22500 - cycle)
  | none => 10000

/-- Pages that a region holds now. -/
def Region.held (r : Region) : Nat := (r.sigs.filter (fun q => !q.passed)).length

/-- What a region has run up since its last posting: page-cycles and bytes moved. -/
def State.owed (s : State) (r : Region) : Nat := r.held * (s.cycle - r.pageStart)

/-- Page-cycles, and bytes at a rate, added to a launch's totals; the fraction below one page-cycle is carried. -/
def Launch.charge (l : Launch) (rate pc bytes : Nat) : Launch :=
  let m := bytes * rate + l.frac
  { l with pcyc := l.pcyc + pc + m / 2 ^ 26, bytes := l.bytes + bytes, frac := m % 2 ^ 26 }

/-- Page-cycles and bytes of a region charged to its tenant and to its launch. -/
def State.chargeOwn (s : State) (g : Region) (pc bytes : Nat) : State :=
  (s.modTenant g.func (fun t => t.charge pc bytes)).modLaunch g.func g.ltag (fun l =>
    l.charge (((s.tenants.find g.func).map (·.rate)).getD 0) pc bytes)

/-- Page-cycles and bytes charged to the tenant, where its own debt asked for the yield, and else to function 0 (R72). -/
def State.chargeSave (s : State) (g : Region) (own : Bool) (pc bytes : Nat) : State :=
  if own then s.chargeOwn g pc bytes
  else s.modTenant 0 (fun t => t.charge pc bytes)

/-- Page-cycles and bytes of region `r` posted to its tenant and its launch, but for the page-cycles of a save, which go where the yield was
asked for (R72); nothing is owed any more (R71). -/
def State.postAmount (s : State) (r pc bytes : Nat) : State :=
  let g := s.reg r
  (if g.saves then (s.chargeOwn g 0 bytes).chargeSave g g.yieldOwn pc 0 else s.chargeOwn g pc bytes).modReg r
    (fun g => { g with pageStart := s.cycle, roundBytes := 0, baseBytes := 0 })

/-- The charges of region `r` posted, at a round boundary and at release (R71). -/
def State.post (s : State) (r : Nat) : State := s.postAmount r (s.owed (s.reg r)) (s.reg r).roundBytes

/-- The charges posted at the void of a round that is not charged: those up to the round's start, pages and bytes (R71). -/
def State.postFree (s : State) (r : Nat) : State :=
  let g := s.reg r
  s.postAmount r (g.held * (s.cycle - g.cyc - g.pageStart)) g.baseBytes

/-! ## Taking a fault: the void, its report, and the return (R123, R247 to R251) -/

/-- The handler tables of the image (R123 step 5, R282). Of two records of one entry the first counts (DESIGN CHOICE, log 89). -/
def Region.imageHandlers (r : Region) : Tbl Word :=
  (List.range r.sigs.length).flatMap (fun sg => (r.sig sg).decl.handlers.map (fun h => (sg * 16 + h.1, h.2)))

/-- A hidden register whose vector meets a written range is emptied (R232). -/
def Soft.touched (r : Soft) (a size : Nat) : Soft :=
  let len := r.hlen * (if r.hfmt = 0 then 4 else 2)
  if r.kind = 3 ∧ a < r.haddr + len ∧ r.haddr < a + size then Soft.empty else r

/-- A word or a range written whole holds no poison any more (R253). -/
def Elem.unpoison (e : Elem) (a size : Nat) : Elem :=
  { e with poison := e.poison.filter (fun w => !(decide (a ≤ w) && decide (w + 4 ≤ a + size))) }

/-- Bytes written into the banks of an ME, with what every such write does: a hidden register over them is emptied, and their poison goes
(R232, R253). -/
def Elem.putBytes (e : Elem) (a : Nat) (bytes : List Byte) : Elem :=
  { e.unpoison a bytes.length with sram := e.sram.writeN a bytes, st := e.st.map (fun p => (p.1, p.2.touched a bytes.length)) }

/-- RMW returns that landed in the voided round, written again into the restored fabric: the bytes, and CHK cleared
(R357). -/
def Fabric.relandAll (f : Fabric) (l : List (Nat × Nat × List Byte)) : Fabric :=
  l.foldl (fun f q =>
    let e := f.elems.get (Elem.fresh .me) q.1
    let b := q.2.1 / 512
    { f with elems := f.elems.set q.1 { e.putBytes q.2.1 q.2.2 with
        tags := if q.2.2 = [] then e.tags else e.tags.set b { (e.tags.get Tag.zero b) with chk := false }
        reads := e.reads.eraseP (fun r => r.rmw && r.dst == q.2.1 && r.size == q.2.2.length) } }) f

/-- The checkpoint as a void restores it: handler tables reloaded from the image, returns written again. -/
def Region.restored (r : Region) : Fabric := ({ r.ckpt with handlers := r.imageHandlers }).relandAll r.returns

/-- The void of a region's running round (R123): its staged stores are discarded, the checkpoint is restored, streams
rewind with it, networks empty, handlers reload, and holds taken in it are released. The ended round's commit goes
on, with the walks that it waits for, and what a region that saves has counted and run up since its boundary stays (R71, R263). A round that
is not charged has its page-cycles and bytes dropped (R71). -/
def State.voidRound (s : State) (r : Nat) (charged : Bool) : State :=
  let g := s.reg r
  let t := if charged || g.saves then s.post r else s.postFree r
  let t := t.modReg r (fun g => { g with
    old := g.restored, now := g.restored, brk := none, limit := 0, cyc := 0, raised := [], counts := if g.saves then g.counts else [],
    attempt := g.attempt + 1, holdsNew := [], shadowBad := none })
  let t := t.modTenant g.func (fun tn => { tn with
    prefixes := tn.prefixes.map (fun e => { e with
      holds := e.holds.filter (fun h => h != r || g.commit.any (fun i => i.act == .addRef e.h e.recs)) }) })
  { t with rows := t.rows.filter (fun h => !(h.r == r && g.holdsNew.contains h.pa))
           walks := t.walks.filter (fun w => w.r != r || (g.isEnded w.id && !w.eng)) }

/-- The report of a round shadow that cannot be read (R248, R254). -/
def Region.shadowFault (g : Region) : Option Flt :=
  g.shadowBad.map (fun q => { code := 0x70, page := q.1, x := q.2.1, y := q.2.2.1, sch := 0xFF, stamp := 0xFFFF, win := 0, addr := q.2.2.2
                              resumable := false, counts := false })

/-- The FID of a tenant's next FAULT, and the tenant advanced (R248). -/
def State.takeFid (s : State) (func : Nat) : Nat × State :=
  (((s.tenants.find func).map (·.nfid)).getD 1, s.modTenant func (fun t => { t with nfid := t.nfid + 1 }))

/-- The report of a fault: a FAULT with the tenant's next FID. -/
def State.report (s : State) (r : Nat) (f : Flt) : Nat × State :=
  let g := s.reg r
  let (fid, t) := s.takeFid g.func
  (fid, (t.modLaunch g.func g.ltag (fun l => { l with flt := some (f.code, fid) })).faultMsg g.func g.ltag fid f)

/-- The void of a region whose launch ends: a round shadow that cannot be read is reported there (R254); the launch's COMPLETE keeps
the status that ends it (DEDUCED, log 65). -/
def State.voidLast (s : State) (r : Nat) : State :=
  match (s.reg r).shadowFault with
  | some f => ((s.voidRound r true).report r f).2
  | none => s.voidRound r true

/-- Whether an item waits for SIGNAL: a region that yielded while a resumable fault halted it (R86). -/
def Ready.halted (i : Ready) : Bool :=
  match i.saved with
  | some g => (match g.mode with | .halted _ => true | _ => false)
  | none => false

/-- A positive account of a tenant with no ready item and no bound region is cleared (R73). -/
def State.creditClear (s : State) (func : Nat) : State :=
  if s.items.any (fun i => i.func == func && !i.halted) || s.regions.any (fun p => p.2.func == func) then s
  else s.modTenant func (fun t => { t with deficit := Min.min t.deficit 0 })

/-- A launch that ends early (R54, R250): nothing more is released, its saved regions and their rows go, and its
running regions are voided and end once their commits are done. With its last ready item a positive account goes (R73). -/
def State.endLaunch (s : State) (func : Nat) (tag : Word) (status : Nat) : State :=
  let gone := s.items.filter (fun i => i.func == func && i.ltag == tag)
  let nums := gone.filterMap (fun i => i.saved.map (·.num))
  let t := s.modLaunch func tag (fun l => { l with noMore := true, status := some (l.status.getD status) })
  let t := { t with
    items := t.items.filter (fun i => !(i.func == func && i.ltag == tag))
    rows := t.rows.filter (fun h => !(h.st == RowSt.saved && nums.contains h.r))
    chosen := t.chosen.filter (fun c => !(c.1 == func && c.2.1 == tag))
    choicePend := true }
  (t.creditClear func).regions.foldl (fun (u : State) (p : Nat × Region) =>
    if p.2.func == func && p.2.ltag == tag then
      match p.2.mode with
      | .saving _ _ => u.modReg p.1 (fun g => { g with stopReq := some status })
      | .ending => u
      | _ => (u.voidLast p.1).modReg p.1 (fun g => { g with mode := .ending })
    else u) (t.creditClear func)

/-- A fault that ends its region's launch (R250); `charged` says whether the void's cause leaves its round charged (R71). -/
def State.endByFault (s : State) (r : Nat) (f : Flt) (charged : Bool) : State :=
  let g := s.reg r
  ((s.voidRound r charged).report r f).2.endLaunch g.func g.ltag 0x07

/-- A fabric with what its elements have in flight `k` cycles later. -/
def Fabric.later (k : Nat) (f : Fabric) : Fabric :=
  { f with elems := f.elems.map (fun (p : Nat × Elem) => (p.1, { p.2 with
      reads := p.2.reads.map (fun r => { r with due := r.due + k })
      copies := p.2.copies.map (fun c => { c with due := c.due + k })
      softOps := p.2.softOps.map (fun o => { o with due := o.due + k })
      streams := p.2.streams.map (fun (q : Nat × Stream) => (q.1, { q.2 with due := q.2.due + k })) })) }

/-- A void that counts under the replay limit (R251): the third ends the region; else the round replays within 1,000 cycles
(R123), or the region yields when the round limit voided it or a yield is pending (R87, R93); a save that is under way goes on. What was in
flight when the round started is in flight again, so that the replay performs the same steps. -/
def State.countedVoid (s : State) (r : Nat) (f : Flt) : State :=
  let g := s.reg r
  let charged := f.code == 0x51
  if g.voids + 1 ≥ 3 then
    (((s.voidRound r charged).report r f).2.endLaunch g.func g.ltag 0x07)
  else
    let yields := charged || (s.reg r).yieldReq.isSome
    let (n, t) := (s.voidRound r charged).latMost (if yields then (s.reg r).saveMost s.cycle else 1000)
    let late := Fabric.later (n + (s.reg r).cyc)
    t.modReg r (fun g => { g with
      voids := g.voids + 1
      mode := if g.saves then g.mode else if yields then .saving (s.cycle + n) true else .replaying (s.cycle + n)
      old := late g.old, now := late g.now, ckpt := late g.ckpt })

/-- TAKING A FAULT, the one operation: of the faults raised in region `r` in this cycle the first of R249 is taken.
The round is voided; a shadow that cannot be read takes the fault's place, and the round is charged as the fault's own void is (R71,
R251, R254). A fault that counts under R251 replays or yields. Any other is reported by a FAULT; a resumable
one halts the region until SIGNAL; a region that is asked to yield saves at once, and one that saves goes on with it (R86); the rest end the
launch (R250). -/
def State.takeFault (s : State) (r : Nat) : State :=
  match firstFault (s.reg r).raised, (s.reg r).shadowFault with
  | none, _ => s
  | some f, some bad => s.endByFault r bad (!f.counts || f.code == 0x51)
  | some f, none =>
    if f.counts then s.countedVoid r f
    else if f.resumable then
      let g := s.reg r
      let (fid, t) := (s.voidRound r true).report r f
      let (n, t) := if g.yieldReq.isSome && !g.saves then t.latMost (g.saveMost s.cycle) else (0, t)
      let mode : RegionMode := if g.saves then g.mode else if g.yieldReq.isSome then .saving (s.cycle + n) true else .halted fid
      { t.modReg r (fun g => { g with mode := mode, fid := some fid }) with
        nmp := { t.nmp with flts := t.nmp.flts ++ [{ func := g.func, ltag := g.ltag, fid := fid, flt := f }] } }
    else s.endByFault r f true

/-- The return from a void: the round replays from the checkpoint, every span at counter 0 (R123). -/
def Region.replay (r : Region) : Region := { r with mode := .running, limit := 0, cyc := 0 }

end Sys2Proof.Machine
end

