-- ==== Sys2Proof/Machine/Operands.lean ====
section
/-! DEFINITION. Every operand form: sources, destinations, links, partners, local offsets (R292, R296 to R299, R338). -/

namespace Sys2Proof.Machine

open Sys2Proof

/-! ## Links (R95, R98, R119) -/

/-- Where an element's output on a side leads: nowhere, across a cut abutment face, or into the input `side` of
an element, through a queue of `cap` words. -/
inductive Link where
  | dead
  | cut
  | live (sg x y side cap : Nat)
  deriving DecidableEq, Repr

/-- The opposite side of 0 n, 1 e, 2 s, 3 w. -/
def opposite (side : Nat) : Nat := (side + 2) % 4

/-- The signature chained to signature `sg` on a side, if the region has one (R276). -/
def Region.chained (r : Region) (sg side : Nat) : Option Nat :=
  let me := r.sig sg
  match side with
  | 0 => r.sigs.findIdx? (fun q => q.idx == me.decl.chainN)
  | 1 => r.sigs.findIdx? (fun q => q.idx == me.decl.chainE)
  | 2 => r.sigs.findIdx? (fun q => q.decl.chainN == me.idx)
  | _ => r.sigs.findIdx? (fun q => q.decl.chainE == me.idx)

/-- The depth of a link: 2 within a span, 16 for an expansion joint (R98), and for a link at whose other end is an
element of no span (DESIGN CHOICE, log 108). -/
def linkCap (d : SigDecl) (x y x' y' : Nat) : Nat :=
  match d.spanAt x y, d.spanAt x' y' with
  | some a, some b => if a.n = b.n then 2 else 16
  | _, _ => 16

/-- The link from element (sg, x, y) on a side. -/
def Region.link (r : Region) (sg x y side : Nat) : Link :=
  let edge := match side with | 0 => y == 31 | 1 => x == 31 | 2 => y == 0 | _ => x == 0
  if edge then
    match r.chained sg side with
    | none => .dead
    | some q =>
      if (r.sig q).passed then .cut
      else match side with
        | 0 => .live q x 0 2 16
        | 1 => .live q 0 y 3 16
        | 2 => .live q x 31 0 16
        | _ => .live q 31 y 1 16
  else
    match side with
    | 0 => .live sg x (y + 1) 2 (linkCap (r.sig sg).decl x y x (y + 1))
    | 1 => .live sg (x + 1) y 3 (linkCap (r.sig sg).decl x y (x + 1) y)
    | 2 => .live sg x (y - 1) 0 (linkCap (r.sig sg).decl x y x (y - 1))
    | _ => .live sg (x - 1) y 1 (linkCap (r.sig sg).decl x y (x - 1) y)

/-- The words that stood in the input queue on a side at the end of the previous cycle. -/
def State.inWords (s : State) (side : Nat) : List Word := s.oldE.inq.get [] side

/-- Whether the output on a side had room at the end of the previous cycle (R111). -/
def State.outRoom (s : State) (side : Nat) : Bool :=
  match s.rg.link s.focus.sg s.focus.x s.focus.y side with
  | .live sg x y sd cap => decide (((s.rg.old.elem sg x y).inq.get [] sd).length < cap)
  | _ => false

/-- One word appended to the link on a side. -/
def State.pushOut (s : State) (side : Nat) (v : Word) : State :=
  match s.rg.link s.focus.sg s.focus.x s.focus.y side with
  | .live sg x y sd _ => s.modEAt sg x y (fun e => { e with inq := e.inq.set sd (e.inq.get [] sd ++ [v]) })
  | _ => s

/-! ## Poison (R253) -/

/-- A poisoned word is named by its offset in the ME's banks, or by a number above them: a register by its code, an
accumulator word, a word of a matrix slot. -/
def regWord (c : Nat) : Nat := 2 ^ 24 + 4 * c
def accWord (a i : Nat) : Nat := 2 ^ 25 + 4 * (256 * a + i)
def slotWord (off : Nat) : Nat := 2 ^ 26 + off

/-- Word `i` of the input queue on a side; word 0 is what its operand code reads. -/
def linkWord (side i : Nat) : Nat := regWord (64 + side + 64 * i)

/-- The side of the queue whose word a mark names. -/
def linkSide (w : Nat) : Option Nat :=
  if w < regWord 64 ∨ 2 ^ 25 ≤ w then none else some ((w - 2 ^ 24) / 4 % 64)

/-- A mark when the oldest word of the queue on a side goes: that word's goes with it, and the others move up. -/
def popMark (side w : Nat) : Option Nat :=
  if linkSide w ≠ some side then some w else if w < regWord 128 then none else some (w - 256)

/-- Whether a range holds a poisoned word (R253). -/
def Elem.rangePoison (e : Elem) (a size : Nat) : Bool := e.poison.any (fun w => decide (a ≤ w + 3) && decide (w < a + size))

/-- An entry that reads a poisoned register, accumulator or slot consumes it. -/
def State.wordChk (s : State) (a size : Nat) : Chk := if s.oldE.rangePoison a size then .fault 0x70 0 else .ok

/-! ## Popping and predicates (R292, R298) -/

/-- The oldest word of the input queue on a side removed; the cycle has taken one more from it. -/
def State.popIn (s : State) (side : Nat) : State :=
  s.modE (fun e => { e with poison := e.poison.filterMap (popMark side), inq := e.inq.set side ((e.inq.get [] side).drop 1)
                            taken := e.taken.set side (e.taken.get 0 side + 1) })

/-! ## Partners and predicates (R292) -/

/-- The x of the CE whose predicates an element uses: a CE its own, an ME its partner's. -/
def State.predX (s : State) : Nat :=
  match kindAt s.focus.x s.focus.y with
  | .ce => s.focus.x
  | .me => if s.focus.x = 0 then 1 else s.focus.x - 1

/-- Predicate n as it stood at the end of the previous cycle; p0 reads true (R106). -/
def State.pred (s : State) (n : Nat) : Bool :=
  if n = 0 then true else (s.rg.old.elem s.focus.sg s.predX s.focus.y).p.get false n

/-- A predicate written at the end of the step; a write to p0 is discarded. -/
def State.setPred (s : State) (n : Nat) (b : Bool) : State :=
  if n = 0 then s else s.modEAt s.focus.sg s.predX s.focus.y (fun e => { e.unpoison (regWord (96 + n)) 4 with p := e.p.set n b })

/-- `pred_true(p, n)` (R306). -/
def State.predTrue (s : State) (p : Nat) (pn : Bool) : Bool := s.pred p != pn

/-! ## Sources -/

/-- The physical register of k`n` under rotation base B (R106). -/
def physK (rot : BitVec 5) (n : Nat) : Nat := (n + 32 - rot.toNat) % 32

/-- The span in focus as it stood at the end of the previous cycle. -/
def State.oldSpan (s : State) : Span := s.rg.old.span s.focus.sg s.spanNo

/-- The read-only operands (R297). -/
def State.readOnly (s : State) (c : Nat) : Word :=
  match c with
  | 73 => BitVec.ofNat 32 s.oldSpan.cyc
  | 74 => BitVec.ofNat 32 s.oldSpan.periods
  | 75 => BitVec.ofNat 32 s.rg.rnd
  | 76 => BitVec.ofNat 32 (s.page * 2 ^ 16 + s.focus.y * 2 ^ 8 + s.focus.x)
  | 77 => BitVec.ofNat 32 s.rg.func
  | 78 => s.oldE.hdr
  | _ => BitVec.ofNat 32 ((if s.oldSpan.sched then 1 else 0) + s.oldE.rot.toNat * 2 +
      (if s.sig.decl.debug then 64 else 0))

/-- The value of operand code c as a source (R296). -/
def State.src (s : State) (c : Nat) : Word :=
  if c < 32 then s.oldE.g.get 0#32 c
  else if c < 64 then s.oldE.k.get 0#32 (physK s.oldE.rot (c - 32))
  else if c < 68 then ((s.inWords (c - 64)).head?).getD 0#32
  else if 73 ≤ c ∧ c < 80 then s.readOnly c
  else if 80 ≤ c ∧ c < 88 then (s.oldE.c.get Counter.zero (c - 80)).value
  else if 96 ≤ c ∧ c < 104 then boolWord (s.pred (c - 96))
  else 0#32

/-- A source under a modifier (R299). -/
def State.srcM (s : State) (c m : Nat) : Word := modify (s.src c) m

/-- The code under which a register is marked pending: k registers by their physical number. -/
def State.code (s : State) (c : Nat) : Nat :=
  if 32 ≤ c ∧ c < 64 then 32 + physK s.oldE.rot (c - 32) else c

/-- Whether the register of a code is pending (R229): predicates in the CE that holds them. -/
def State.pendingCode (s : State) (c : Nat) : Bool :=
  if 96 ≤ c ∧ c < 104 then (s.rg.old.elem s.focus.sg s.predX s.focus.y).marks.contains (.reg c)
  else s.oldE.marks.contains (.reg (s.code c))

/-- What stands in the way of reading predicate n: pending, or poisoned in the CE that holds it. -/
def State.predChk (s : State) (n : Nat) : Chk :=
  if n = 0 then .ok
  else if s.pendingCode (96 + n) then .stall
  else if (s.rg.old.elem s.focus.sg s.predX s.focus.y).rangePoison (regWord (96 + n)) 4 then .fault 0x70 0
  else .ok

/-- What stands in the way of reading a source: a cut link, an empty link, a pending register. -/
def State.srcChk (s : State) (c : Nat) : Chk :=
  if 64 ≤ c ∧ c < 68 then
    match s.rg.link s.focus.sg s.focus.x s.focus.y (c - 64) with
    | .cut => .fault 0x22 0
    | _ => if s.inWords (c - 64) = [] then .stall else s.wordChk (regWord c) 4
  else if 96 ≤ c ∧ c < 104 then s.predChk (c - 96)
  else if s.pendingCode c then .stall else s.wordChk (regWord (s.code c)) 4

/-- Every source of an entry. -/
def State.srcsChk (s : State) (cs : List Nat) : Chk := cs.foldl (fun a c => a.and (s.srcChk c)) .ok

/-- The link words that an entry's sources consume, each side once (R298). -/
def State.consume (s : State) (cs : List Nat) : State :=
  (List.range 4).foldl (fun t side => if cs.contains (64 + side) then t.popIn side else t) s

/-! ## Destinations -/

/-- What stands in the way of writing a destination: a cut or full link, a pending register. -/
def State.dstChk (s : State) (c : Nat) : Chk :=
  if 68 ≤ c ∧ c < 72 then
    match s.rg.link s.focus.sg s.focus.x s.focus.y (c - 68) with
    | .cut => .fault 0x22 0
    | _ => if s.outRoom (c - 68) then .ok else .stall
  else if s.pendingCode c then .stall else .ok

/-- A value written to a destination whose k register is given by its physical number. -/
def State.putRaw (s : State) (c : Nat) (v : Word) : State :=
  if c < 32 then s.modE (fun e => { e.unpoison (regWord c) 4 with g := e.g.set c v })
  else if c < 64 then s.modE (fun e => { e.unpoison (regWord c) 4 with k := e.k.set (c - 32) v })
  else if 68 ≤ c ∧ c < 72 then s.pushOut (c - 68) v
  else if 96 ≤ c ∧ c < 104 then s.setPred (c - 96) (v != 0#32)
  else s

/-- `d ← v` at the end of the step (R298, R308): z discards, a predicate receives v ≠ 0. -/
def State.put (s : State) (c : Nat) (v : Word) : State := s.putRaw (s.code c) v

/-! ## The shape of an entry -/

/-- An entry that reads sources and writes destinations: the freeze of its step or its fault where something
stands in the way, else its effect on the state whose link words are consumed, counted as fired (R101, R259). -/
def State.entry (s : State) (srcs dsts : List Nat) (extra : Chk) (eff : State → State) : State :=
  s.under (((s.srcsChk srcs).and (dsts.foldl (fun a c => a.and (s.dstChk c)) .ok)).and extra)
    (fun s => (eff (s.consume srcs)).count 0x01)

/-- An entry that writes one 32-bit value computed from the state at the end of the previous cycle. -/
def State.compute (s : State) (srcs : List Nat) (d : Nat) (v : Word) : State :=
  s.entry srcs [d] .ok (fun t => t.put d v)

/-! ## Local offsets (R127, R128, R131 to R133, R338) -/

/-- First byte and size of a group (R127). -/
def GroupDecl.base (g : GroupDecl) : Nat := g.lo * 0x3000
def GroupDecl.bytes (g : GroupDecl) : Nat := (g.hi + 1 - g.lo) * 0x3000

/-- Bytes of one buffer of an operand store (R128). -/
def GroupDecl.bufBytes (g : GroupDecl) : Nat := g.bytes / g.n

/-- The group that a local offset names, and the absolute address with distance j, for an access of `size` bytes that
stays in its buffer (R338); none where R131 faults (DEDUCED, log 24). -/
def resolveLocal (d : ElemDecl) (e : Elem) (off j size : Nat) : Option (GroupDecl × Nat) :=
  match d.groups.find? (fun g => g.mode == .store && g.base ≤ off && off < g.base + g.bufBytes) with
  | none => none
  | some g =>
    if j < g.n ∧ off - g.base + size ≤ g.bufBytes then
      some (g, g.base + (((e.grps.get Grp.zero g.i).cur + j) % g.n) * g.bufBytes + (off - g.base))
    else none

/-- The tag blocks of a range. -/
def tagBlocks (a size : Nat) : List Nat := (List.range ((a + size - 1) / 512 + 1 - a / 512)).map (· + a / 512)

/-- The banks of a range. -/
def banksOf (a size : Nat) : List Nat := (List.range ((a + size - 1) / 0x3000 + 1 - a / 0x3000)).map (· + a / 0x3000)

/-- Whether a range of an ME meets a pending range (R229). -/
def Elem.rangePending (e : Elem) (a size : Nat) : Bool :=
  e.marks.any (fun m => match m with | .range o l => decide (a < o + l) && decide (o < a + size) | _ => false)

/-- The check of a read of `size` bytes at absolute address a of group g, distance j (R30, R133, R229). -/
def readChk (e : Elem) (g : GroupDecl) (a j size : Nat) : Chk :=
  if (banksOf a size).any (fun b => e.waking.contains b) || e.rangePending a size then .stall
  else if (tagBlocks a size).any (fun b =>
      !(e.tags.get Tag.zero b).chk && (e.tags.get Tag.zero b).t != (e.grps.get Grp.zero g.i).e + BitVec.ofNat 8 j)
    then .fault 0x30 0
  else .ok

/-- The check bits that a completed read sets (R133). -/
def Elem.markRead (e : Elem) (a size : Nat) : Elem :=
  { e with tags := (tagBlocks a size).foldl (fun t b => t.set b { (t.get Tag.zero b) with chk := true }) e.tags }

/-- How a write into an operand store sets its tags (R132): tagged, untagged, or local with its tag. -/
inductive TagOp where
  | tagged (t : Byte)
  | untagged
  | loc (t : Byte)
  deriving DecidableEq, Repr

/-- The tag after a write. -/
def TagOp.apply (o : TagOp) (t : Tag) : Tag :=
  match o with
  | .tagged v => { t := v, chk := false }
  | .untagged => { t with chk := false }
  | .loc v => { t := v, chk := true }

/-- Bytes written into an ME at an absolute address (R132, R232, R253). -/
def Elem.writeSram (e : Elem) (a : Nat) (bytes : List Byte) (o : TagOp) : Elem :=
  { e.putBytes a bytes with tags := (tagBlocks a bytes.length).foldl (fun t b => t.set b (o.apply (t.get Tag.zero b))) e.tags }

/-- Bytes written into an ME outside an operand store (FIFO or line buffer): no tags (R133). -/
def Elem.writeRaw (e : Elem) (a : Nat) (bytes : List Byte) : Elem := e.putBytes a bytes

/-- Whether a range meets a bank that is waking (R30). -/
def Elem.asleep (e : Elem) (a size : Nat) : Bool := (banksOf a size).any (fun b => e.waking.contains b)

/-- A local read of `size` bytes at offset `off` of the element in focus: its check, and where it reads. -/
def State.localRead (s : State) (off j size : Nat) : Chk × Nat :=
  match resolveLocal s.decl s.oldE off j size with
  | none => (.fault 0x43 off, 0)
  | some (g, a) => (readChk s.oldE g a j size, a)

/-- A local write: its check, where it writes, and the group. -/
def State.localWrite (s : State) (off j size : Nat) : Chk × Nat × Nat :=
  match resolveLocal s.decl s.oldE off j size with
  | none => (.fault 0x43 off, 0, 0)
  | some (g, a) =>
    (if (banksOf a size).any (fun b => s.oldE.waking.contains b) || s.oldE.rangePending a size then .stall else .ok, a, g.i)

/-- Bytes of the element in focus as they stood at the end of the previous cycle. -/
def State.sramOld (s : State) (a n : Nat) : List Byte := s.oldE.sram.readN a n

/-- A consumed uncorrectable error in the bytes an entry reads voids the round and counts (R253). -/
def State.poisonChk (s : State) (a size : Nat) : Chk :=
  s.wordChk a size

/-- A bank group of the element in focus by number, of a mode. -/
def State.group (s : State) (i : Nat) : Option GroupDecl := s.decl.groups.find? (fun g => g.i == i)

/-- The state of a bank group at the end of the previous cycle. -/
def State.grp (s : State) (i : Nat) : Grp := s.oldE.grps.get Grp.zero i

/-- The bank group changed. -/
def Elem.modGrp (e : Elem) (i : Nat) (f : Grp → Grp) : Elem :=
  { e with grps := e.grps.set i (f (e.grps.get Grp.zero i)) }

/-- The place in the banks of the FIFO word `k` places from the head (R129). -/
def GroupDecl.fifoAddr (g : GroupDecl) (head k : Nat) : Nat := g.base + 4 * ((head + k) % g.n)

/-- A word appended at the tail of a FIFO, in its place in the banks too (R129). -/
def Elem.fifoPush (e : Elem) (g : GroupDecl) (w : Word) : Elem :=
  let k := e.grps.get Grp.zero g.i
  (e.writeRaw (g.fifoAddr k.head k.q.length) (leBytes 4 w.toNat)).modGrp g.i (fun k => { k with q := k.q ++ [w] })

/-- The head word of a FIFO removed (R129). -/
def Elem.fifoPop (e : Elem) (g : GroupDecl) : Elem := e.modGrp g.i (fun k => { k with q := k.q.drop 1, head := (k.head + 1) % g.n })

/-- A stream of the element in focus as it stood. -/
def State.stream (s : State) (n : Nat) : Stream := s.oldE.streams.get Stream.none n

/-- A stream changed. -/
def Elem.modStream (e : Elem) (n : Nat) (f : Stream → Stream) : Elem :=
  { e with streams := e.streams.set n (f (e.streams.get Stream.none n)) }

end Sys2Proof.Machine
end

