-- ==== Sys2Proof/Machine/Flags.lean ====
section
/-! DEFINITION. Conditions, predicates and lane results: every flag computation of the spec (R198, R311, R312, R314,
R321, R374, R375). The part has no flag register: a predicate is the only flag. -/

namespace Sys2Proof.Machine

open Sys2Proof

/-- Lane i of a register under integer type ty, read signed or unsigned (R308). -/
def laneV (ty : Nat) (a : Word) (i : Nat) : Int :=
  if tySigned ty then sextN (tyWidth ty) (lane a (tyWidth ty) i) else (lane a (tyWidth ty) i : Int)

/-- The saturation of a lane type (R308). -/
def satTy (ty : Nat) (v : Int) : Int := if tySigned ty then satS (tyWidth ty) v else satN (tyWidth ty) v

/-- The register of lane results of a two-source lane operation on signed or unsigned lane values (R311). -/
def lanes2 (ty : Nat) (f : Int → Int → Int) (a b : Word) : Word :=
  ofLanes (tyWidth ty) (fun i => f (laneV ty a i) (laneV ty b i))

/-- The same on the raw lanes, as naturals, with the lane width. -/
def lanesN (ty : Nat) (f : Nat → Nat → Nat → Int) (a b : Word) : Word :=
  ofLanes (tyWidth ty) (fun i => f (tyWidth ty) (lane a (tyWidth ty) i) (lane b (tyWidth ty) i))

/-- SHL of a lane (R312). -/
def laneShl (w x s : Nat) : Int := if s ≥ w then 0 else (x * 2 ^ s : Nat)
/-- SHR of a lane. -/
def laneShr (_w x s : Nat) : Int := (x / 2 ^ s : Nat)
/-- SHRA of a lane. -/
def laneShra (w x s : Nat) : Int := sextN w x / (2 ^ Nat.min s (w - 1) : Nat)
/-- ROT of a lane. -/
def laneRot (w x s : Nat) : Int := (x * 2 ^ (s % w) + x / 2 ^ (w - s % w) : Nat)
/-- CLZ of a lane. -/
def laneClz (w x _s : Nat) : Int := (w - bitLen x : Nat)
/-- POPC of a lane. -/
def lanePopc (w x _s : Nat) : Int := ((List.range w).filter (fun j => x.testBit j)).length
/-- BREV of a lane. -/
def laneBrev (w x _s : Nat) : Int :=
  ((List.range w).foldl (fun acc j => acc + (if x.testBit (w - 1 - j) then 2 ^ j else 0)) 0 : Nat)

/-- The lane condition of CMP (R321): SUB[2:0] on the values and the raw lanes. -/
def cmpLane (c : Nat) (xv yv : Int) (x y : Nat) : Bool :=
  match c with
  | 0 => xv == yv
  | 1 => xv != yv
  | 2 => decide (xv < yv)
  | 3 => decide (xv ≥ yv)
  | 4 => decide (xv ≤ yv)
  | 5 => decide (xv > yv)
  | 6 => (x &&& y) != 0
  | _ => (x &&& y) == 0

/-- A condition over all lanes, or any lane when SUB[3] is 1 (R321, R374). -/
def overLanes (ty sub : Nat) (p : Nat → Bool) : Bool :=
  if sub ≥ 8 then (List.range (32 / tyWidth ty)).any p else (List.range (32 / tyWidth ty)).all p

/-- The predicate of CMP (R321). -/
def cmpPred (ty sub : Nat) (a b : Word) : Bool :=
  overLanes ty sub (fun i =>
    cmpLane (sub % 8) (laneV ty a i) (laneV ty b i) (lane a (tyWidth ty) i) (lane b (tyWidth ty) i))

/-- The carry of ADDC: the sum as an exact number (R314). -/
def addcSum (sub : Bool) (a b : Word) (q : Bool) : Nat :=
  a.toNat + (if sub then 2 ^ 32 - 1 - b.toNat else b.toNat) + (if q then 1 else 0)

/-- The value of lane i under float type ty (R370). -/
def laneF (ty : Nat) (a : Word) (i : Nat) : FV := valueOf (tyFmt ty) (lane a (tyWidth ty) i)

/-- The lane condition of FCMP (R374). -/
def fcmpLane (c : Nat) (x y : FV) : Bool :=
  let nan := x.isNan || y.isNan
  match c with
  | 0 => !nan && FV.eq x y
  | 1 => nan || !FV.eq x y
  | 2 => !nan && FV.lt x y
  | 3 => !nan && !FV.lt x y
  | 4 => !nan && !FV.lt y x
  | 5 => !nan && FV.lt y x
  | 6 => nan
  | _ => !nan

/-- The predicate of FCMP. -/
def fcmpPred (ty sub : Nat) (a b : Word) : Bool :=
  overLanes ty sub (fun i => fcmpLane (sub % 8) (laneF ty a i) (laneF ty b i))

end Sys2Proof.Machine
end

