-- ==== Sys2Proof/Machine/Int.lean ====
section
/-! DEFINITION. Integer and packed integer entries, 0x00 to 0x2C (R308 to R322). -/

namespace Sys2Proof.Machine

open Sys2Proof

/-- A two-source format-T lane entry: the result of `f` on the modified sources (R311). -/
def State.alu2 (s : State) (f : FT) (v : Word → Word → Word) : State :=
  s.compute [f.a.toNat, f.b.toNat] f.d.toNat
    (v (s.srcM f.a.toNat f.am.toNat) (s.srcM f.b.toNat f.bm.toNat))

/-- A one-source format-T entry. -/
def State.alu1 (s : State) (f : FT) (v : Word → Word) : State :=
  s.compute [f.a.toNat] f.d.toNat (v (s.srcM f.a.toNat f.am.toNat))

/-- A three-source format-F entry; C takes no modifier (R299). -/
def State.alu3 (s : State) (f : FF) (v : Word → Word → Word → Word) : State :=
  s.compute [f.a.toNat, f.b.toNat, f.c.toNat] f.d.toNat
    (v (s.srcM f.a.toNat f.am.toNat) (s.srcM f.b.toNat f.bm.toNat) (s.src f.c.toNat))

/-- A format-I entry on A and its immediate. -/
def State.aluI (s : State) (f : FI) (v : Word → Word) : State :=
  s.compute [f.a.toNat] f.d.toNat (v (s.src f.a.toNat))

/-- IMM21 sign-extended to 32 bits (R295). -/
def imm32 (i : BitVec 21) : Word := i.signExtend 32

/-! ## Moves and immediates (R310) -/

/-- NOP (R310): nothing; its route context is held by the fire (R293). -/
def execNop (s : State) : Host.Outcome State Fault Refusal := go (s.entry [] [] .ok (fun t => t))

/-- MOV (R310): d ← a. -/
def execMov (f : FT) (s : State) : Host.Outcome State Fault Refusal := go (s.alu1 f (fun a => a))

/-- MOVI (R310): d ← the sign-extended immediate. -/
def execMovi (f : FI) (s : State) : Host.Outcome State Fault Refusal := go (s.compute [] f.d.toNat (imm32 f.imm))

/-- MOVHI (R310): d ← n32((a AND 0x7FF) + IMM21 × 2^11). -/
def execMovhi (f : FI) (s : State) : Host.Outcome State Fault Refusal :=
  go (s.aluI f (fun a => (a &&& 0x7FF#32) + (f.imm.zeroExtend 32 <<< 11)))

/-- ADDI (R310). -/
def execAddi (f : FI) (s : State) : Host.Outcome State Fault Refusal := go (s.aluI f (fun a => a + imm32 f.imm))

/-- ANDI (R310). -/
def execAndi (f : FI) (s : State) : Host.Outcome State Fault Refusal := go (s.aluI f (fun a => a &&& imm32 f.imm))

/-- ORI (R310). -/
def execOri (f : FI) (s : State) : Host.Outcome State Fault Refusal := go (s.aluI f (fun a => a ||| imm32 f.imm))

/-- XORI (R310). -/
def execXori (f : FI) (s : State) : Host.Outcome State Fault Refusal := go (s.aluI f (fun a => a ^^^ imm32 f.imm))

/-- LEA (R310): d ← n32(a + b × 2^SUB). -/
def execLea (f : FT) (s : State) : Host.Outcome State Fault Refusal :=
  go (s.alu2 f (fun a b => a + (b <<< f.sub.toNat)))

/-! ## Lane arithmetic (R312) -/

/-- ADD (R312): xv + yv, wrapping. -/
def execAdd (f : FT) (s : State) : Host.Outcome State Fault Refusal :=
  go (s.alu2 f (lanes2 f.ty.toNat (fun x y => x + y)))

/-- SUB (R312): xv - yv, wrapping. -/
def execSub (f : FT) (s : State) : Host.Outcome State Fault Refusal :=
  go (s.alu2 f (lanes2 f.ty.toNat (fun x y => x - y)))

/-- ADDS (R312): saturating sum. -/
def execAdds (f : FT) (s : State) : Host.Outcome State Fault Refusal :=
  go (s.alu2 f (lanes2 f.ty.toNat (fun x y => satTy f.ty.toNat (x + y))))

/-- SUBS (R312): saturating difference. -/
def execSubs (f : FT) (s : State) : Host.Outcome State Fault Refusal :=
  go (s.alu2 f (lanes2 f.ty.toNat (fun x y => satTy f.ty.toNat (x - y))))

/-- NEG (R312): SUB 0 wraps, SUB 1 saturates. -/
def execNeg (f : FT) (s : State) : Host.Outcome State Fault Refusal :=
  go (s.alu1 f (fun a => lanes2 f.ty.toNat (fun x _ => if f.sub = 1#4 then satTy f.ty.toNat (-x) else -x) a a))

/-- ABS (R312). -/
def execAbs (f : FT) (s : State) : Host.Outcome State Fault Refusal :=
  go (s.alu1 f (fun a =>
    lanes2 f.ty.toNat (fun x _ => if f.sub = 1#4 then satTy f.ty.toNat x.natAbs else x.natAbs) a a))

/-- MIN (R312). -/
def execMin (f : FT) (s : State) : Host.Outcome State Fault Refusal :=
  go (s.alu2 f (lanes2 f.ty.toNat (fun x y => if x ≤ y then x else y)))

/-- MAX (R312). -/
def execMax (f : FT) (s : State) : Host.Outcome State Fault Refusal :=
  go (s.alu2 f (lanes2 f.ty.toNat (fun x y => if x ≤ y then y else x)))

/-- MUL (R312): the low w bits of the product. -/
def execMul (f : FT) (s : State) : Host.Outcome State Fault Refusal :=
  go (s.alu2 f (lanes2 f.ty.toNat (fun x y => x * y)))

/-- MULH (R312): floor(xv × yv / 2^w). -/
def execMulh (f : FT) (s : State) : Host.Outcome State Fault Refusal :=
  go (s.alu2 f (lanes2 f.ty.toNat (fun x y => Int.fdiv (x * y) (2 ^ tyWidth f.ty.toNat : Nat))))

/-- AND (R312). -/
def execAndW (f : FT) (s : State) : Host.Outcome State Fault Refusal := go (s.alu2 f (fun a b => a &&& b))

/-- OR (R312). -/
def execOrW (f : FT) (s : State) : Host.Outcome State Fault Refusal := go (s.alu2 f (fun a b => a ||| b))

/-- XOR (R312). -/
def execXorW (f : FT) (s : State) : Host.Outcome State Fault Refusal := go (s.alu2 f (fun a b => a ^^^ b))

/-- ANDN (R312): a AND NOT b. -/
def execAndn (f : FT) (s : State) : Host.Outcome State Fault Refusal := go (s.alu2 f (fun a b => a &&& ~~~b))

/-- SHL (R312). -/
def execShl (f : FT) (s : State) : Host.Outcome State Fault Refusal := go (s.alu2 f (lanesN f.ty.toNat laneShl))

/-- SHR (R312). -/
def execShr (f : FT) (s : State) : Host.Outcome State Fault Refusal := go (s.alu2 f (lanesN f.ty.toNat laneShr))

/-- SHRA (R312). -/
def execShra (f : FT) (s : State) : Host.Outcome State Fault Refusal := go (s.alu2 f (lanesN f.ty.toNat laneShra))

/-- ROT (R312). -/
def execRot (f : FT) (s : State) : Host.Outcome State Fault Refusal := go (s.alu2 f (lanesN f.ty.toNat laneRot))

/-- CLZ (R312). -/
def execClz (f : FT) (s : State) : Host.Outcome State Fault Refusal :=
  go (s.alu1 f (fun a => lanesN f.ty.toNat laneClz a a))

/-- POPC (R312). -/
def execPopc (f : FT) (s : State) : Host.Outcome State Fault Refusal :=
  go (s.alu1 f (fun a => lanesN f.ty.toNat lanePopc a a))

/-- BREV (R312). -/
def execBrev (f : FT) (s : State) : Host.Outcome State Fault Refusal :=
  go (s.alu1 f (fun a => lanesN f.ty.toNat laneBrev a a))

/-- The shift of SHI by kind (R316). -/
def shiVal (kind n : Nat) (a : Word) : Word :=
  lanesN 0 (match kind with | 0 => laneShl | 1 => laneShr | 2 => laneShra | _ => laneRot) a (BitVec.ofNat 32 n)

/-- SHI (R316). -/
def execShi (f : FI) (s : State) : Host.Outcome State Fault Refusal :=
  go (s.aluI f (shiVal (bitsOf f.imm 6 5) (bitsOf f.imm 4 0)))

/-! ## Three sources (R313) -/

/-- MAD (R313). -/
def execMad (f : FF) (s : State) : Host.Outcome State Fault Refusal :=
  go (s.alu3 f (fun a b c => ofLanes (tyWidth f.ty3.toNat) (fun i =>
    laneV f.ty3.toNat a i * laneV f.ty3.toNat b i + laneV f.ty3.toNat c i)))

/-- SEL (R313): whole when C is a predicate code, else per lane. -/
def selVal (pred : Bool) (ty : Nat) (a b c : Word) : Word :=
  if pred then (if c = 1#32 then a else b)
  else ofLanes (tyWidth ty) (fun i =>
    if lane c (tyWidth ty) i ≠ 0 then (lane a (tyWidth ty) i : Int) else (lane b (tyWidth ty) i : Int))

/-- SEL (R313). -/
def execSel (f : FF) (s : State) : Host.Outcome State Fault Refusal :=
  go (s.alu3 f (selVal (codeP f.c.toNat) f.ty3.toNat))

/-- The exact sum of a dot product with its accumulator, wrapped once (R313). -/
def dotVal (n ty : Nat) (a b c : Word) : Word :=
  n32 ((List.range n).foldl (fun acc i => acc + laneV ty a i * laneV ty b i)
    (if tySigned ty then c.toInt else (c.toNat : Int)))

/-- DOT4 (R313). -/
def execDot4 (f : FF) (s : State) : Host.Outcome State Fault Refusal := go (s.alu3 f (dotVal 4 f.ty3.toNat))

/-- DOT2 (R313). -/
def execDot2 (f : FF) (s : State) : Host.Outcome State Fault Refusal := go (s.alu3 f (dotVal 2 f.ty3.toNat))

/-! ## Carry, bit fields, packing and shuffles (R314 to R318) -/

/-- ADDC (R314): d and the carry predicate pq together. -/
def execAddc (f : FT) (s : State) : Host.Outcome State Fault Refusal :=
  let q := f.sub.toNat % 8
  let t := addcSum (f.sub.toNat ≥ 8) (s.srcM f.a.toNat f.am.toNat) (s.srcM f.b.toNat f.bm.toNat) (s.pred q)
  go (s.entry [f.a.toNat, f.b.toNat] [f.d.toNat, 96 + q] .ok
    (fun u => (u.put f.d.toNat (BitVec.ofNat 32 t)).setPred q (decide (t ≥ 2 ^ 32))))

/-- The extracted field of BFX (R315). -/
def bfxVal (pos len : Nat) (sx : Bool) (a : Word) : Word :=
  let v := a.toNat / 2 ^ pos % 2 ^ len
  if sx then n32 (sextN len v) else BitVec.ofNat 32 v

/-- BFX (R315). -/
def execBfx (f : FI) (s : State) : Host.Outcome State Fault Refusal :=
  go (s.aluI f (bfxVal (bitsOf f.imm 4 0) (bitsOf f.imm 9 5 + 1) (bitAt f.imm 10)))

/-- The destination of BFI with its field replaced (R315). -/
def bfiVal (pos len : Nat) (old a : Word) : Word :=
  BitVec.ofNat 32 (old.toNat - (old.toNat / 2 ^ pos % 2 ^ len) * 2 ^ pos + a.toNat % 2 ^ len * 2 ^ pos)

/-- BFI (R315): reads its destination. -/
def execBfi (f : FI) (s : State) : Host.Outcome State Fault Refusal :=
  go (s.aluI f (bfiVal (bitsOf f.imm 4 0) (bitsOf f.imm 9 5 + 1) (s.src f.d.toNat)))

/-- PACK's result (R317). -/
def packVal (ty : Nat) (tr : Bool) (a b : Word) : Word :=
  let w := tyWidth ty
  let m := 16 / w
  ofLanes w (fun i =>
    let v := if i < m then sextN (2 * w) (lane a (2 * w) i) else sextN (2 * w) (lane b (2 * w) (i - m))
    if tr then v else satTy ty v)

/-- PACK (R317). -/
def execPack (f : FT) (s : State) : Host.Outcome State Fault Refusal :=
  go (s.alu2 f (packVal f.ty.toNat (f.sub = 1#4)))

/-- UNPK's result (R317). -/
def unpkVal (ty : Nat) (hi : Bool) (a : Word) : Word :=
  let w := tyWidth ty
  let m := 16 / w
  ofLanes (2 * w) (fun j => laneV ty a (j + (if hi then m else 0)))

/-- UNPK (R317). -/
def execUnpk (f : FT) (s : State) : Host.Outcome State Fault Refusal :=
  go (s.alu1 f (unpkVal f.ty.toNat (f.sub = 1#4)))

/-- SHUF's result (R318). -/
def shufVal (imm : BitVec 21) (a : Word) : Word :=
  ofLanes 8 (fun k => match bitsOf imm (4 * k + 3) (4 * k) with
    | 4 => 0
    | 5 => 0xFF
    | b => (lane a 8 b : Int))

/-- SHUF (R318). -/
def execShuf (f : FI) (s : State) : Host.Outcome State Fault Refusal := go (s.aluI f (shufVal f.imm))

/-! ## Windows (R112) and division (R319, R320) -/

/-- A window as it opens at the entry in focus (R112). -/
def State.newWin (s : State) (kind : WinKind) (dst w wm : Nat) (res : Option Word) : Win :=
  { kind := kind, stamp := s.focus.stamp, sched := s.focus.sched, w := w, wm := wm, left := w, dst := s.code dst,
    res := res, closed := false, frozen := 0 }

/-- The lowest free window latch of an element (R112). A window that closes in this cycle still has its number, so the
numbers pass 8 where no more than 8 windows are open. -/
def Elem.freeLatch (e : Elem) : Nat := ((List.range 16).find? (fun i => (e.wins.find i).isNone)).getD 0

/-- A window opened in the element in focus: the next `w` running cycles (R112). -/
def State.openWin (s : State) (kind : WinKind) (dst w wm : Nat) (res : Option Word) : State :=
  s.modE (fun e => { e with wins := e.wins.set e.freeLatch (s.newWin kind dst w wm res) })

/-- Quotient and remainder of R319. -/
def divRem (uns : Bool) (a b : Word) : Int × Int :=
  let u : Int := if uns then a.toNat else a.toInt
  let v : Int := if uns then b.toNat else b.toInt
  if v = 0 then (-1, u) else (Int.tdiv u v, u - Int.tdiv u v * v)

/-- DIV (R319, R320): the quotient reaches the latch in the 20th cycle after the fire. -/
def execDiv (f : FW) (s : State) : Host.Outcome State Fault Refusal :=
  go (s.entry [f.a.toNat, f.b.toNat] [f.d.toNat] .ok (fun t =>
    t.openWin (.result (s.cycle + 20) (n32 (divRem (bitAt f.sub 0) (s.src f.a.toNat) (s.src f.b.toNat)).1))
      f.d.toNat f.win.toNat f.wm.toNat none))

/-- REM (R319, R320). -/
def execRem (f : FW) (s : State) : Host.Outcome State Fault Refusal :=
  go (s.entry [f.a.toNat, f.b.toNat] [f.d.toNat] .ok (fun t =>
    t.openWin (.result (s.cycle + 20) (n32 (divRem (bitAt f.sub 0) (s.src f.a.toNat) (s.src f.b.toNat)).2))
      f.d.toNat f.win.toNat f.wm.toNat none))

/-! ## Compare and predicates (R321, R322) -/

/-- CMP (R321). -/
def execCmp (f : FT) (s : State) : Host.Outcome State Fault Refusal :=
  go (s.alu2 f (fun a b => boolWord (cmpPred f.ty.toNat f.sub.toNat a b)))

/-- The predicate j that PSET leaves (R322). -/
def psetVal (op val : Nat) (a : Word) (j : Nat) (old : Bool) : Bool :=
  match op with
  | 0 => val.testBit j
  | 1 => !old
  | _ => a.getLsbD j

/-- PSET (R322). -/
def execPset (f : FK) (s : State) : Host.Outcome State Fault Refusal :=
  let op := bitsOf f.param 17 16
  let srcs := if op = 2 then [f.a.toNat] else []
  let js := (List.range 8).filter (fun j => j ≠ 0 && bitAt f.param j)
  go (s.entry srcs (js.map (96 + ·)) .ok (fun t =>
    js.foldl (fun u j => u.setPred j (psetVal op (bitsOf f.param 15 8) (s.src f.a.toNat) j (s.pred j))) t))

end Sys2Proof.Machine
end

