-- ==== Sys2Proof/Machine/Float.lean ====
section
/-! DEFINITION. Floating-point and conversion entries, 0x90 to 0xAB, and RED (R358, R370 to R387). -/

namespace Sys2Proof.Machine

open Sys2Proof

/-! ## Lane operations (R370 to R375) -/

/-- The rounding mode of an entry (R370). -/
def fMode (sub : BitVec 4) : Nat := bitsOf sub 2 0

/-- A lane-by-lane result under a float type: `g` gives the code of lane i (R370). -/
def lanesF (ty : Nat) (g : Nat → Nat) : Word := ofLanes (tyWidth ty) (fun i => (g i : Int))

/-- The rounded lanes of an exact operation on two sources. -/
def fBin (ty mode : Nat) (op : FV → FV → FV) (a b : Word) : Word :=
  lanesF ty (fun i => roundFV (tyFmt ty) mode (op (laneF ty a i) (laneF ty b i)))

/-- FADD (R372). -/
def execFadd (f : FT) (s : State) : Host.Outcome State Fault Refusal :=
  go (s.alu2 f (fBin f.ty.toNat (fMode f.sub) (FV.add (fMode f.sub))))

/-- FSUB (R372). -/
def execFsub (f : FT) (s : State) : Host.Outcome State Fault Refusal :=
  go (s.alu2 f (fBin f.ty.toNat (fMode f.sub) (FV.sub (fMode f.sub))))

/-- FMUL (R372). -/
def execFmul (f : FT) (s : State) : Host.Outcome State Fault Refusal :=
  go (s.alu2 f (fBin f.ty.toNat (fMode f.sub) FV.mul))

/-- The lesser or the greater of two lane codes, exactly (R373). -/
def fPick (fm : Fmt) (max num : Bool) (cx cy : Nat) : Nat :=
  let x := valueOf fm cx
  let y := valueOf fm cy
  if x.isNan && y.isNan then fm.nanCode
  else if x.isNan then (if num then cy else fm.nanCode)
  else if y.isNan then (if num then cx else fm.nanCode)
  else if (if max then x.ltTotal y else y.ltTotal x) then cy else cx

/-- FMIN and FMAX on words. -/
def fPickLanes (ty : Nat) (max num : Bool) (a b : Word) : Word :=
  lanesF ty (fun i => fPick (tyFmt ty) max num (lane a (tyWidth ty) i) (lane b (tyWidth ty) i))

/-- FMIN (R373). -/
def execFmin (f : FT) (s : State) : Host.Outcome State Fault Refusal :=
  go (s.alu2 f (fPickLanes f.ty.toNat false (bitAt f.sub 0)))

/-- FMAX (R373). -/
def execFmax (f : FT) (s : State) : Host.Outcome State Fault Refusal :=
  go (s.alu2 f (fPickLanes f.ty.toNat true (bitAt f.sub 0)))

/-- The rounded lanes of an exact operation on one source. -/
def fUn (ty mode : Nat) (op : FV → FV) (a : Word) : Word :=
  lanesF ty (fun i => roundFV (tyFmt ty) mode (op (laneF ty a i)))

/-- FABS (R372). -/
def execFabs (f : FT) (s : State) : Host.Outcome State Fault Refusal := go (s.alu1 f (fUn f.ty.toNat 0 FV.abs))

/-- FNEG (R372). -/
def execFneg (f : FT) (s : State) : Host.Outcome State Fault Refusal := go (s.alu1 f (fUn f.ty.toNat 0 FV.negate))

/-- FCMP (R374). -/
def execFcmp (f : FT) (s : State) : Host.Outcome State Fault Refusal :=
  go (s.alu2 f (fun a b => boolWord (fcmpPred f.ty.toNat f.sub.toNat a b)))

/-- The class code of a lane code (R375). -/
def fClass (fm : Fmt) (c : Nat) : Nat :=
  let sub := c % 2 ^ (fm.w - 1) < 2 ^ fm.mb
  match valueOf fm c with
  | .nan => 0
  | .inf n => if n then 1 else 8
  | .fin n m _ => if m = 0 then (if n then 4 else 5) else if n then (if sub then 3 else 2) else (if sub then 6 else 7)

/-- FCLS (R375). -/
def execFcls (f : FT) (s : State) : Host.Outcome State Fault Refusal :=
  let ty := f.ty.toNat
  go (s.alu1 f (fun a => lanesF ty (fun i => fClass (tyFmt ty) (lane a (tyWidth ty) i))))

/-- A value rounded to an integral value; a zero keeps the sign (R372). -/
def fIntegral (mode : Nat) (x : FV) : FV :=
  match x with
  | .fin n _ _ => let i := roundToInt mode x; if i = 0 then .fin n 0 0 else FV.ofInt i
  | v => v

/-- FRND (R372). -/
def execFrnd (f : FT) (s : State) : Host.Outcome State Fault Refusal :=
  go (s.alu1 f (fUn f.ty.toNat (fMode f.sub) (fIntegral (fMode f.sub))))

/-- FSCL's exact value; beyond 2^±1000 the single rounding gives what it gives at the bound. -/
def fScaled (n : Int) (x : FV) : FV := x.scale (Max.max (-1000) (Min.min 1000 n))

/-- FSCL (R372). -/
def execFscl (f : FT) (s : State) : Host.Outcome State Fault Refusal :=
  go (s.alu2 f (fun a b => fUn f.ty.toNat (fMode f.sub) (fScaled b.toInt) a))

/-! ## Fused and dot products (R376) -/

/-- FMA on words: one rounding in each lane. -/
def fmaVal (ty : Nat) (a b c : Word) : Word :=
  lanesF ty (fun i => roundFV (tyFmt ty) 0 (FV.add 0 (FV.mul (laneF ty a i) (laneF ty b i)) (laneF ty c i)))

/-- FMA (R376). -/
def execFma (f : FF) (s : State) : Host.Outcome State Fault Refusal := go (s.alu3 f (fmaVal (8 + f.ty3.toNat)))

/-- FDOT on words: one exact sum and one rounding (R203, R376). -/
def fdotVal (ty : Nat) (a b c : Word) : Word :=
  roundRneF32 (sumFV 0 ((List.range (32 / tyWidth ty)).map (fun i => FV.mul (laneF ty a i) (laneF ty b i)) ++ [f32 c]))

/-- FDOT (R376). -/
def execFdot (f : FF) (s : State) : Host.Outcome State Fault Refusal := go (s.alu3 f (fdotVal (8 + f.ty3.toNat)))

/-! ## Division and square root (R377) -/

/-- FDIV (R377): the quotient reaches the latch in the 24th cycle after the fire. -/
def execFdiv (f : FW) (s : State) : Host.Outcome State Fault Refusal :=
  go (s.entry [f.a.toNat, f.b.toNat] [f.d.toNat] .ok (fun t =>
    t.openWin (.result (s.cycle + 24) (BitVec.ofNat 32 (divRound fp32 f.sub.toNat (f32 (s.src f.a.toNat)) (f32 (s.src f.b.toNat)))))
      f.d.toNat f.win.toNat f.wm.toNat none))

/-- FSQRT (R377). -/
def execFsqrt (f : FW) (s : State) : Host.Outcome State Fault Refusal :=
  go (s.entry [f.a.toNat] [f.d.toNat] .ok (fun t =>
    t.openWin (.result (s.cycle + 24) (BitVec.ofNat 32 (sqrtRound fp32 f.sub.toNat (f32 (s.src f.a.toNat)))))
      f.d.toNat f.win.toNat f.wm.toNat none))

/-! ## Exponential, logarithm, horizontal operations (R378 to R380) -/

/-- FEX2 (R378). -/
def execFex2 (f : FT) (s : State) : Host.Outcome State Fault Refusal := go (s.alu1 f (fun a => fex2 (f32 a)))

/-- FLG2 (R379). -/
def execFlg2 (f : FT) (s : State) : Host.Outcome State Fault Refusal := go (s.alu1 f (fun a => flg2 (f32 a)))

/-- The lane codes of A, then of B. -/
def laneCodes (ty : Nat) (a b : Word) : List Nat :=
  let n := 32 / tyWidth ty
  (List.range n).map (fun i => lane a (tyWidth ty) i) ++ (List.range n).map (fun i => lane b (tyWidth ty) i)

/-- FSUM (R380): the pairwise tree of R204, in lane 0. -/
def execFsum (f : FT) (s : State) : Host.Outcome State Fault Refusal :=
  go (s.alu2 f (fun a b => BitVec.ofNat 32 (treeSum (tyFmt f.ty.toNat) (fMode f.sub) (laneCodes f.ty.toNat a b))))

/-- FMAXA on words (R380). -/
def fmaxaVal (ty : Nat) (a b : Word) : Word :=
  let fm := tyFmt ty
  BitVec.ofNat 32 ((laneCodes ty a b).foldl (fun acc c =>
    fPick fm true false acc (roundFV fm 0 (valueOf fm c).abs)) 0)

/-- FMAXA (R380). -/
def execFmaxa (f : FT) (s : State) : Host.Outcome State Fault Refusal := go (s.alu2 f (fmaxaVal f.ty.toNat))

/-! ## Conversion (R381) -/

/-- The conversion of lanes from LO on; the remaining destination lanes are 0. -/
def cvtLanes (ty dt lo : Nat) (g : Nat → Nat) (a : Word) : Word :=
  let n := Nat.min (32 / tyWidth ty - lo) (32 / tyWidth dt)
  lanesF dt (fun i => if i < n then g (lane a (tyWidth ty) (lo + i)) else 0)

/-- The value of a source code; an 8E2 code decodes relative to the scale, with the special of hdr. -/
def cvtSource (ty : Nat) (hdr : Word) (c : Nat) : FV :=
  if ty = 13 then e2m1Rel (bitsOf hdr 23 16) c else valueOf (tyFmt ty) c

/-- The code of a float destination; an 8E2 target rounds to the set of R206 with the special of OH. -/
def cvtTarget (dt mode : Nat) (oh : Word) (x : FV) : Nat :=
  if dt = 13 then qntCode 0 mode (bitsOf oh 23 16) x (FV.ofInt 1) else roundFV (tyFmt dt) mode x

/-- The destination type and first lane of a conversion. -/
def cvtDt (f : FT) : Nat := bitsOf f.b 3 0
def cvtLo (f : FT) : Nat := bitsOf f.b 6 4

/-- CVT (R381). -/
def execCvt (f : FT) (s : State) : Host.Outcome State Fault Refusal :=
  go (s.alu1 f (cvtLanes f.ty.toNat (cvtDt f) (cvtLo f) (fun c =>
    cvtTarget (cvtDt f) (fMode f.sub) s.oldE.oh (cvtSource f.ty.toNat s.oldE.hdr c))))

/-- A float rounded to an integer lane, saturated; NaN gives 0 (R381). -/
def cvtiCode (dt mode : Nat) (x : FV) : Nat :=
  let w := tyWidth dt
  match x with
  | .nan => 0
  | .inf n => (nN w (satTy dt (if n then -(2 ^ 40 : Nat) else (2 ^ 40 : Nat)))).toNat
  | v => (nN w (satTy dt (roundToInt mode v))).toNat

/-- CVTI (R381). -/
def execCvti (f : FT) (s : State) : Host.Outcome State Fault Refusal :=
  go (s.alu1 f (cvtLanes f.ty.toNat (cvtDt f) (cvtLo f) (fun c =>
    cvtiCode (cvtDt f) (fMode f.sub) (valueOf (tyFmt f.ty.toNat) c))))

/-- CVTF (R381). -/
def execCvtf (f : FT) (s : State) : Host.Outcome State Fault Refusal :=
  go (s.alu1 f (cvtLanes f.ty.toNat (cvtDt f) (cvtLo f) (fun c =>
    roundFV (tyFmt (cvtDt f)) (fMode f.sub)
      (FV.ofInt (if tySigned f.ty.toNat then sextN (tyWidth f.ty.toNat) c else (c : Int))))))

/-! ## The converter (R382 to R387) -/

/-- The block length under a CFMT: 16 × 2^BFK. -/
def convLen (cf : Word) : Nat := 16 * 2 ^ cfBfk cf

/-- The block buffer's words 0 to L - 1. -/
def Elem.block (e : Elem) (n : Nat) : List Word := (List.range n).map (fun i => e.cvb.get 0#32 i)

/-- The block buffer with its first words replaced. -/
def Elem.setBlock (e : Elem) (l : List Word) : Elem :=
  { e with cvb := (l.zipIdx).foldl (fun (t : Tbl Word) p => t.set p.2 p.1) e.cvb }

/-- The block step of BSC.scale: the block, and the header word (R383). -/
def bscStep (cf : Word) (blk : List Word) (a : Word) : List Word × Word :=
  let blk := if cfBfe cf then butterfly (4 + cfBfk cf) blk else blk
  let sc := blockScale (cfCvf cf) (blk.map f32)
  (blk, BitVec.ofNat 32 (sc.1 * 2 ^ 24 + sc.2 % 256 * 2 ^ 16 + cfBfk cf * 2 ^ 12 + bitsOf a 8 8 * 2 ^ 11 + cfCvf cf * 2 ^ 8 +
    bitsOf a 7 0))

/-- BSC (R383). -/
def execBsc (f : FT) (s : State) : Host.Outcome State Fault Refusal :=
  let a := s.srcM f.a.toNat f.am.toNat
  let b := s.srcM f.b.toNat f.bm.toNat
  go (match f.sub.toNat with
    | 0 => s.entry [f.a.toNat, f.b.toNat] [] .ok (fun t => t.modE (fun e => { e with cvb := e.cvb.set (b.toNat % 128) a }))
    | 1 => s.compute [f.a.toNat] f.d.toNat (s.oldE.cvb.get 0#32 (a.toNat % 128))
    | _ =>
      let r := bscStep s.decl.cfmt (s.oldE.block (convLen s.decl.cfmt)) a
      s.entry [f.a.toNat] [f.d.toNat] .ok (fun t => (t.modE (fun e => { e.setBlock r.1 with oh := r.2 })).put f.d.toNat r.2))

/-- BFLY (R384): one stage of R208 over the block. -/
def execBfly (f : FT) (s : State) : Host.Outcome State Fault Refusal :=
  let blk := butterflyStage (bitsOf f.sub 2 0) (s.oldE.block (convLen s.decl.cfmt))
  go (s.entry [] [] .ok (fun t => t.modE (fun e => e.setBlock blk)))

/-- QNT's result (R385): the codes of A shifted in above those of c. -/
def qntVal (cf oh : Word) (ty3 : Nat) (a b c : Word) : Word :=
  let n := if ty3 = 0 then 1 else 2
  let w := nfWidth (cfCvf cf)
  let q := fun i => qntCode (cfCvf cf) (cfRnd cf) (bitsOf oh 23 16) (laneF (8 + ty3) a i) (f32 b)
  BitVec.ofNat 32 (c.toNat / 2 ^ (n * w) + (List.range n).foldl (fun acc i => acc + q i * 2 ^ (32 - n * w + i * w)) 0)

/-- QNT (R385). -/
def execQnt (f : FF) (s : State) : Host.Outcome State Fault Refusal :=
  go (s.alu3 f (qntVal s.decl.cfmt s.oldE.oh f.ty3.toNat))

/-- DQNT's result (R386). -/
def dqntVal (cf a h c : Word) : Word :=
  let w := nfWidth (cfCvf cf)
  let v := scaledValue (cfCvf cf) h (lane a w (c.toNat % (32 / w)))
  BitVec.ofNat 32 (roundFV fp32 (cfRnd cf) (if cfBfe cf then v.scale (-(4 + cfBfk cf : Nat)) else v))

/-- Whether an operand code is a link input. -/
def isLinkIn (c : Nat) : Bool := decide (64 ≤ c) && decide (c < 68)

/-- DQNT (R386): a header of another format, or with a reserved BLEN, faults and the step takes no effect. A header that
it takes from a link is the header received, which stays latched (R200; DEDUCED, log 23). -/
def execDqnt (f : FF) (s : State) : Host.Outcome State Fault Refusal :=
  let cf := s.decl.cfmt
  let a := s.srcM f.a.toNat f.am.toNat
  let h := s.srcM f.b.toNat f.bm.toNat
  let bad : Chk := if bitsOf h 10 8 ≠ cfCvf cf ∨ 3 < bitsOf h 15 12 then .fault 0x31 0 else .ok
  go (s.entry [f.a.toNat, f.b.toNat, f.c.toNat] [f.d.toNat] bad (fun t =>
    let t := t.put f.d.toNat (dqntVal cf a h (s.src f.c.toNat))
    if isLinkIn f.b.toNat then t.modE (fun e => { e with hdr := s.src f.b.toNat }) else t))

/-- HDRW (R387): OH ← a and d ← a. -/
def execHdrw (f : FT) (s : State) : Host.Outcome State Fault Refusal :=
  let a := s.srcM f.a.toNat f.am.toNat
  go (s.entry [f.a.toNat] [f.d.toNat] .ok (fun t => (t.modE (fun e => { e with oh := a })).put f.d.toNat a))

/-- The field of a header word that HDRR extracts (R387). -/
def hdrField (k : Nat) (h : Word) : Word :=
  let sc := bitsOf h 31 24
  match k with
  | 0 => if sc = 0xFF then BitVec.ofNat 32 fp32.nanCode else roundRneF32 (.fin false 1 ((sc : Int) - 127))
  | 1 => roundRneF32 (e4m3Value (bitsOf h 23 16))
  | 2 => BitVec.ofNat 32 (blenLen (bitsOf h 15 12))
  | 3 => BitVec.ofNat 32 (bitsOf h 11 11)
  | 4 => BitVec.ofNat 32 (bitsOf h 10 8)
  | 5 => BitVec.ofNat 32 (bitsOf h 7 0)
  | _ => if sc = 0xFF then 128#32 else n32 ((sc : Int) - 127)

/-- HDRR (R387). -/
def execHdrr (f : FT) (s : State) : Host.Outcome State Fault Refusal := go (s.alu1 f (hdrField f.sub.toNat))

/-! ## RED (R358) -/

/-- One combination of RED. -/
def redOp (op : Nat) (v u : Word) : Word :=
  match op with
  | 0 => v + u
  | 1 => roundRneF32 (FV.add 0 (f32 v) (f32 u))
  | 2 => if v.toInt ≤ u.toInt then v else u
  | 3 => if v.toInt ≤ u.toInt then u else v
  | 4 => if v.toNat ≤ u.toNat then v else u
  | 5 => if v.toNat ≤ u.toNat then u else v
  | 6 => fPickLanes 8 false false v u
  | 7 => fPickLanes 8 true false v u
  | 8 => v &&& u
  | 9 => v ||| u
  | _ => v ^^^ u

/-- The operand codes that RED combines, in order n, e, s, w, then the local operand. -/
def redCodes (f : FM) : List Nat :=
  ((List.range 4).filter (fun i => bitAt f.off i)).map (64 + ·) ++ (if bitAt f.off 4 then [bitsOf f.off 11 5] else [])

/-- RED (R358): the step waits until every masked input holds a word. -/
def execRed (f : FM) (s : State) : Host.Outcome State Fault Refusal :=
  go (s.compute (redCodes f) f.d.toNat (match (redCodes f).map s.src with
    | [] => 0#32
    | v :: t => t.foldl (redOp f.mode.toNat) v))

end Sys2Proof.Machine
end

