-- ==== Sys2Proof/Machine/Matrix.lean ====
section
/-! DEFINITION. Matrix entries, 0xC0 to 0xCC, and the effects of the slot port (R388 to R399). -/

namespace Sys2Proof.Machine

open Sys2Proof

/-! ## Slots, accumulators and tiles (R388, R389) -/

/-- The bytes of a slot: an unclaimed slot reads as zeros. -/
def Elem.slot (e : Elem) (i : Nat) : List Byte :=
  if e.claimed.contains i then e.slots.readN (512 * i) 512 else List.replicate 512 0#8

/-- Bytes written into slots at a byte offset: an unclaimed slot discards them. -/
def Elem.writeSlot (e : Elem) (off : Nat) (b : List Byte) : Elem :=
  if e.claimed.contains (off / 512) then { e.unpoison (slotWord off) b.length with slots := e.slots.writeN off b } else e

/-- An accumulator element, and accumulators written. -/
def Elem.accAt (e : Elem) (a i : Nat) : Word := e.acc.get 0#32 (a * 256 + i)
def Elem.setAcc (e : Elem) (a : Nat) (l : List Word) : Elem :=
  { e.unpoison (accWord a 0) (4 * l.length) with
    acc := (l.zipIdx).foldl (fun (t : Tbl Word) p => t.set (a * 256 + p.2) p.1) e.acc }

/-- The check of the slots, those that are claimed, and of the accumulator that an entry reads (R253, R388). -/
def State.slotChk (s : State) (i n : Nat) : Chk :=
  (List.range n).foldl (fun (c : Chk) k => c.and (if s.oldE.claimed.contains (i + k) then s.wordChk (slotWord (512 * (i + k))) 512 else .ok)) .ok
def State.accChk (s : State) (a : Nat) (on : Bool) : Chk := if on then s.wordChk (accWord a 0) 1024 else .ok

/-- An accumulator in flat order. -/
def Elem.accAll (e : Elem) (a : Nat) : List Word := (List.range 256).map (e.accAt a)

/-- The element width of a matrix format (R209). -/
def mfWidth (mf : Nat) : Nat := match mf with | 0 => 4 | 1 => 8 | 2 => 8 | 3 => 16 | _ => 32

/-- Element e of width w in bytes (R389). -/
def elemCode (l : List Byte) (w i : Nat) : Nat := leAt l (i * w / 8) 4 / 2 ^ (i * w % 8) % 2 ^ w

/-- The bytes of n elements of width w. -/
def packElems (w n : Nat) (f : Nat → Nat) : List Byte :=
  if w = 4 then (List.range (n / 2)).map (fun i => BitVec.ofNat 8 (f (2 * i) % 16 + f (2 * i + 1) % 16 * 16))
  else (List.range n).flatMap (fun i => leBytes (w / 8) (f i))

/-- The value of a matrix element; E2M1's 0b1000 decodes as +0 (R389). -/
def mfValue (mf c : Nat) : FV :=
  match mf with
  | 0 => if c = 8 then .fin false 0 0 else valueOf e2m1 c
  | 1 => valueOf e4m3 c
  | 2 => valueOf e5m2 c
  | 3 => valueOf bf16 c
  | _ => valueOf fp32 c

/-- The bytes of words. -/
def wordBytes (l : List Word) : List Byte := l.flatMap (fun w => leBytes 4 w.toNat)

/-- Word i of bytes. -/
def wordAt (l : List Byte) (i : Nat) : Word := BitVec.ofNat 32 (leAt l (4 * i) 4)

/-! ## The neighbouring ME (R390) -/

/-- The coordinates of a side's neighbour. -/
def sideXY (x y side : Nat) : Nat × Nat :=
  match side with
  | 0 => (x, y + 1)
  | 1 => (x + 1, y)
  | 2 => (x, y - 1)
  | _ => (x - 1, y)

/-- The neighbour of the element in focus on a side. -/
def State.sideOf (s : State) (side : Nat) : Nat × Nat := sideXY s.focus.x s.focus.y side

/-- The side ME as it stood, and its declaration. -/
def State.sideElem (s : State) (side : Nat) : Elem := s.rg.old.elem s.focus.sg (s.sideOf side).1 (s.sideOf side).2
def State.sideDecl (s : State) (side : Nat) : ElemDecl := s.sig.decl.elem (s.sideOf side).1 (s.sideOf side).2

/-- The state with the side ME changed. -/
def State.modSide (s : State) (side : Nat) (g : Elem → Elem) : State :=
  s.modEAt s.focus.sg (s.sideOf side).1 (s.sideOf side).2 g

/-- A read of the side ME: its check with the tags and poison, and where it reads. -/
def State.sideRead (s : State) (side off j n : Nat) : Chk × Nat :=
  let e := s.sideElem side
  match resolveLocal (s.sideDecl side) e off j n with
  | none => (.fault 0x43 off, 0)
  | some (g, a) => ((readChk e g a j n).and (if e.rangePoison a n then .fault 0x70 0 else .ok), a)

/-- A write into the side ME: its check, where it writes, and the group's expected tag. -/
def State.sideWrite (s : State) (side off j n : Nat) : Chk × Nat × Byte :=
  let e := s.sideElem side
  match resolveLocal (s.sideDecl side) e off j n with
  | none => (.fault 0x43 off, 0, 0#8)
  | some (g, a) =>
    (if (banksOf a n).any (fun b => e.waking.contains b) || e.rangePending a n then .stall else .ok, a, (e.grps.get Grp.zero g.i).e)

/-! ## In flight (R392, R394, R399) -/

/-- An operation in flight, fired by the entry in focus. -/
def State.inFlight (s : State) (due : Nat) (instr : Instr) (tile : Bool) (acc : List Nat) (a b : List Byte) (x : Word) (y : Nat)
    (z : List Word) (full : Bool) : State :=
  let (id, t) := s.fresh
  let o : NodeOp := { id := id, due := due, instr := instr, tile := tile, acc := acc, a := a, b := b, x := x, y := y, z := z,
                      full := full, stamp := s.focus.stamp, sched := s.focus.sched }
  t.modE (fun e => { e with node := e.node ++ [o] })

/-- A slot-port transfer of bytes, landing at byte offset y at the end of cycle s + d. -/
def State.slotPort (s : State) (d : Nat) (instr : Instr) (a : List Byte) (y : Nat) : State :=
  s.inFlight (s.cycle + d) instr false [] a [] 0#32 y [] false

/-- A node operation, counted as a tile operation (R259). -/
def State.nodeOp (s : State) (d : Nat) (instr : Instr) (acc : List Nat) (a b : List Byte) (x : Word) (y : Nat) (z : List Word)
    (full : Bool) : State :=
  (s.inFlight (s.cycle + d) instr true acc a b x y z full).count 0x05

/-! ## Claims (R391) -/

/-- The slots of a range. -/
def slotRange (f : FX) : List Nat := (List.range (f.shp.toNat + 1)).map (f.asl.toNat + ·)

/-- Zeros in a slot. -/
def zeroSlot : List Byte := List.replicate 512 0#8

/-- MCLM (R391). -/
def execMclm (f : FX) (s : State) : Host.Outcome State Fault Refusal :=
  let all := (slotRange f).all (fun i => !(s.oldE.claimed.contains i))
  go (s.entry [] [f.d.toNat] .ok (fun t => (t.put f.d.toNat (boolWord all)).modE (fun e =>
    (slotRange f).foldl (fun e i =>
      if e.claimed.contains i then e
      else { e.unpoison (slotWord (512 * i)) 512 with claimed := insertUniq i e.claimed, slots := e.slots.writeN (512 * i) zeroSlot }) e)))

/-- MREL (R391) (DESIGN CHOICE, log 53). -/
def execMrel (f : FX) (s : State) : Host.Outcome State Fault Refusal :=
  go (s.entry [] [] .ok (fun t => t.modE (fun e =>
    (slotRange f).foldl (fun e i =>
      if e.claimed.contains i then
        { e.unpoison (slotWord (512 * i)) 512 with claimed := e.claimed.filter (· != i), slots := e.slots.writeN (512 * i) zeroSlot }
      else e) e)))

/-! ## Loads and drains (R392) -/

/-- MLD (R392). -/
def execMld (f : FX) (s : State) : Host.Outcome State Fault Refusal :=
  let side := bitsOf f.opt 1 0
  let r := s.sideRead side (alignDown (s.src f.d.toNat).toNat 512) (bitsOf f.bsl 1 0) 512
  let bytes := (s.sideElem side).sram.readN r.2 512
  go (s.entry [f.d.toNat] [] r.1 (fun t =>
    (t.slotPort 8 (.mld f) bytes (512 * f.asl.toNat)).modSide side (fun e => e.markRead r.2 512)))

/-- The bytes that MST moves. -/
def mstBytes (opt : Nat) (acc : List Word) : List Byte :=
  match opt with
  | 0 => acc.flatMap (fun w => leBytes 2 (roundFV bf16 0 (f32 w)))
  | 1 => wordBytes (acc.take 128)
  | _ => wordBytes (acc.drop 128)

/-- MST (R392). -/
def execMst (f : FX) (s : State) : Host.Outcome State Fault Refusal :=
  go (s.entry [] [] (s.accChk f.acc.toNat true) (fun t =>
    t.slotPort 4 (.mst f) (mstBytes (bitsOf f.opt 1 0) (s.oldE.accAll f.acc.toNat)) (512 * f.asl.toNat)))

/-- MOUT (R392): 1 KiB into the side ME, tagged as a local write, by the E that the side's group has when MOUT fires: no rule says which E
counts where a BUFSW or STAG falls between the fire and the effect (DESIGN CHOICE, log 94). -/
def execMout (f : FX) (s : State) : Host.Outcome State Fault Refusal :=
  let j := bitsOf f.bsl 1 0
  let w := s.sideWrite (bitsOf f.opt 1 0) (alignDown (s.src f.d.toNat).toNat 512) j 1024
  go (s.entry [f.d.toNat] [] (w.1.and (s.accChk f.acc.toNat true)) (fun t =>
    t.inFlight (s.cycle + 16) (.mout f) false [] (wordBytes (s.oldE.accAll f.acc.toNat)) [w.2.2 + BitVec.ofNat 8 j] 0#32 w.2.1 [] false))

/-- The transposed bytes of MTRN: of a half under FP32 (R389, R392). -/
def mtrnBytes (mf : Nat) (ba : Bool) (l : List Byte) : List Byte :=
  let k := tileK mf
  let w := mfWidth mf
  packElems w (16 * k) (fun i =>
    if ba then elemCode l w (i % k * 16 + i / k) else elemCode l w (i % 16 * k + i / 16))

/-- MTRN (R392). -/
def execMtrn (f : FX) (s : State) : Host.Outcome State Fault Refusal :=
  let mf := cfMfa s.decl.cfmt
  let src := (s.oldE.slot f.bsl.toNat).drop (if bitAt f.shp 0 then 256 else 0)
  go (s.entry [] [] (s.slotChk f.bsl.toNat 1) (fun t => t.slotPort 8 (.mtrn f) (mtrnBytes mf (bitAt f.opt 0) src)
    (512 * f.asl.toNat + (if bitAt f.shp 1 then 256 else 0))))

/-- SLOT_PORT_EFFECT (R392): the transfer n in focus lands. -/
def execSlotPortEffect (s : State) : Host.Outcome State Fault Refusal :=
  match s.nowE.node.find? (fun o => o.id == s.focus.n && !o.tile) with
  | none => go s
  | some o =>
    let t := s.modE (fun e => { e with node := e.node.filter (fun q => q.id != o.id) })
    go (match o.instr with
      | .mout f => t.modSide (bitsOf f.opt 1 0) (fun e => e.writeSram o.y o.a (.loc (o.b.headD 0#8)))
      | _ => t.modE (fun e => e.writeSlot o.y o.a))

/-! ## Accumulators (R393) -/

/-- MZRO (R393). -/
def execMzro (f : FX) (s : State) : Host.Outcome State Fault Refusal :=
  go (s.entry [] [] .ok (fun t => t.modE (fun e => e.setAcc f.acc.toNat (List.replicate 256 0#32))))

/-- MACC (R393). -/
def execMacc (f : FX) (s : State) : Host.Outcome State Fault Refusal :=
  let dyn := bitAt f.opt 0
  let i := if dyn then (s.src (bitsOf f.bsl 4 0)).toNat % 256 else f.asl.toNat * 4 + bitsOf f.bsl 1 0
  go (s.entry (if dyn then [bitsOf f.bsl 4 0] else []) [f.d.toNat] (s.wordChk (accWord f.acc.toNat i) 4)
    (fun t => t.put f.d.toNat (s.oldE.accAt f.acc.toNat i)))

/-! ## Tile operations (R394 to R397) -/

/-- The operand bytes of MMA: a slot, or a half of it under FP32. -/
def State.mmaSlot (s : State) (mf slot half : Nat) : List Byte :=
  let l := s.oldE.slot slot
  if mf = 4 ∧ half = 1 then l.drop 256 else l

/-- MMA (R394). -/
def execMma (f : FX) (s : State) : Host.Outcome State Fault Refusal :=
  let cf := s.decl.cfmt
  go (s.entry [] [] ((s.slotChk f.asl.toNat 1).and ((s.slotChk f.bsl.toNat 1).and (s.accChk f.acc.toNat (bitAt f.opt 0)))) (fun t =>
    t.nodeOp 68 (.mma f) [f.acc.toNat] (s.mmaSlot (cfMfa cf) f.asl.toNat (bitsOf f.shp 0 0))
    (s.mmaSlot (cfMfb cf) f.bsl.toNat (bitsOf f.shp 1 1)) 0#32 0 [] false))

/-- Whether a scale header disagrees with an operand's format or the block length (R395). -/
def scaleBad (mf l : Nat) (h : Word) : Bool := bitsOf h 10 8 != mf || bitsOf h 15 12 != l

/-- MMAS (R395): a header of another format or length faults, and nothing is issued. -/
def execMmas (f : FX) (s : State) : Host.Outcome State Fault Refusal :=
  let cf := s.decl.cfmt
  let l := bitsOf f.opt 2 1
  let nb := tileK (cfMfa cf) / (16 * 2 ^ l)
  let sc := (List.range 128).map (wordAt (s.oldE.slot ((s.src f.d.toNat).toNat % 64)))
  let bad : Chk := if (sc.take (16 * nb)).any (scaleBad (cfMfa cf) l) || ((sc.drop 64).take (16 * nb)).any (scaleBad (cfMfb cf) l)
    then .fault 0x31 0 else .ok
  let ecc := (s.slotChk f.asl.toNat 1).and ((s.slotChk f.bsl.toNat 1).and
    ((s.slotChk ((s.src f.d.toNat).toNat % 64) 1).and (s.accChk f.acc.toNat (bitAt f.opt 0))))
  go (s.entry [f.d.toNat] [] (bad.and ecc) (fun t => t.nodeOp 68 (.mmas f) [f.acc.toNat] (s.oldE.slot f.asl.toNat) (s.oldE.slot f.bsl.toNat)
    0#32 0 sc false))

/-- MCTR (R396). -/
def execMctr (f : FX) (s : State) : Host.Outcome State Fault Refusal :=
  let n := if cfMfa s.decl.cfmt = 3 then 2 else 4
  let ecc := (s.slotChk f.asl.toNat 1).and ((s.slotChk f.bsl.toNat n).and
    ((s.accChk f.acc.toNat (bitAt f.opt 2)).and (s.accChk (f.acc.toNat + 1) (bitAt f.opt 2))))
  go (s.entry [] [] ecc (fun t => t.nodeOp 260 (.mctr f) [f.acc.toNat, f.acc.toNat + 1] (s.oldE.slot f.asl.toNat)
    ((List.range n).flatMap (fun i => s.oldE.slot (f.bsl.toNat + i))) 0#32 0 [] false))

/-- MSRT (R397). -/
def execMsrt (f : FX) (s : State) : Host.Outcome State Fault Refusal :=
  go (s.entry [] [] (s.slotChk f.asl.toNat 1) (fun t => t.nodeOp 68 (.msrt f) [] (s.oldE.slot f.asl.toNat) [] 0#32 0 [] false))

/-- MKEY (R397): the key or index at rank RK, or all ones at RK = 64. -/
def execMkey (f : FX) (s : State) : Host.Outcome State Fault Refusal :=
  let e := s.oldE
  let v : Word := if e.rk ≥ 64 then 0xFFFFFFFF#32
    else if bitAt f.opt 0 then ((e.sortI[e.rk]?).getD 0#16).zeroExtend 32 else (e.sortK[e.rk]?).getD 0#32
  go (s.entry [] [f.d.toNat] .ok (fun t => (t.put f.d.toNat v).modE (fun e' =>
    if bitAt f.opt 1 then { e' with rk := Nat.min (e.rk + 1) 64 } else e')))

/-! ## Results (R203, R394 to R397) -/

/-- One output element: the exact sum of the prior value and the products, rounded once. -/
def tileSum (prior : FV) (l : List (FV × FV)) : Word := roundRneF32 (sumFV 0 (prior :: l.map (fun p => FV.mul p.1 p.2)))

/-- The 256 elements of a tile with operand values A(r, k) and B(k, c). -/
def tileAcc (k : Nat) (prior : Nat → FV) (a b : Nat → Nat → FV) : List Word :=
  (List.range 256).map (fun i => tileSum (prior i) ((List.range k).map (fun j => (a (i / 16) j, b j (i % 16)))))

/-- The prior value of accumulator element i. -/
def priorOf (e : Elem) (acc : Nat) (on : Bool) (i : Nat) : FV := if on then f32 (e.accAt acc i) else .fin false 0 0

/-- MMA's result (R394). -/
def mmaResult (cf : Word) (f : FX) (e : Elem) (o : NodeOp) : List Word :=
  let k := tileK (cfMfa cf)
  tileAcc k (priorOf e f.acc.toNat (bitAt f.opt 0))
    (fun r j => mfValue (cfMfa cf) (elemCode o.a (mfWidth (cfMfa cf)) (r * k + j)))
    (fun j c => mfValue (cfMfb cf) (elemCode o.b (mfWidth (cfMfb cf)) (j * 16 + c)))

/-- MMAS's result (R395): operands scaled by their headers, in o.z. -/
def mmasResult (cf : Word) (f : FX) (e : Elem) (o : NodeOp) : List Word :=
  let k := tileK (cfMfa cf)
  let l := 16 * 2 ^ bitsOf f.opt 2 1
  let hd := fun i => (o.z[i]?).getD 0#32
  tileAcc k (priorOf e f.acc.toNat (bitAt f.opt 0))
    (fun r j => scaledValue (cfMfa cf) (hd (r * (k / l) + j / l)) (elemCode o.a (mfWidth (cfMfa cf)) (r * k + j)))
    (fun j c => scaledValue (cfMfb cf) (hd (64 + c * (k / l) + j / l)) (elemCode o.b (mfWidth (cfMfb cf)) (j * 16 + c)))

/-- Output p = (i, j, k) of MCTR along an axis (R396). -/
def mctrTerms (mf axis i j k : Nat) (m t : List Byte) : List (FV × FV) :=
  let w := mfWidth mf
  let mv := fun a x => mfValue mf (elemCode m w (a * 8 + x))
  let tv := fun i j k => mfValue mf (elemCode t w (i * 64 + j * 8 + k))
  (List.range 8).map (fun x => match axis with
    | 0 => (mv i x, tv x j k)
    | 1 => (mv j x, tv i x k)
    | _ => (mv k x, tv i j x))

/-- MCTR's 512 outputs (R396). -/
def mctrResult (cf : Word) (f : FX) (e : Elem) (o : NodeOp) : List Word :=
  (List.range 512).map (fun q =>
    tileSum (priorOf e f.acc.toNat (bitAt f.opt 2) q)
      (mctrTerms (cfMfa cf) (bitsOf f.opt 1 0) (q / 64) (q / 8 % 8) (q % 8) o.a o.b))

/-- The order of sort keys by type: 0 N32, 1 S32, 2 FP32 with NaN above all (R397). -/
def keyLt (ty : Nat) (a b : Word) : Bool :=
  match ty with
  | 0 => decide (a.toNat < b.toNat)
  | 1 => decide (a.toInt < b.toInt)
  | _ =>
    let x := f32 a
    let y := f32 b
    if x.isNan then false else if y.isNan then true else x.ltTotal y

/-- The keys and indices in rank order; ties keep ascending k (R397). -/
def msrtResult (f : FX) (o : NodeOp) : List (Word × BitVec 16) :=
  let l := (List.range 64).map (fun i => (wordAt o.a i, BitVec.ofNat 16 (leAt o.a (256 + 2 * i) 2)))
  sortBy (fun p q => if bitAt f.opt 0 then keyLt (bitsOf f.shp 1 0) q.1 p.1 else keyLt (bitsOf f.shp 1 0) p.1 q.1) l

/-- The element after a node operation other than FOLM lands. -/
def Elem.landNode (e : Elem) (cf : Word) (o : NodeOp) : Elem :=
  match o.instr with
  | .mma f => e.setAcc f.acc.toNat (mmaResult cf f e o)
  | .mmas f => e.setAcc f.acc.toNat (mmasResult cf f e o)
  | .mctr f => e.setAcc f.acc.toNat (mctrResult cf f e o)
  | .msrt f => { e with sortK := (msrtResult f o).map Prod.fst, sortI := (msrtResult f o).map Prod.snd, rk := 0 }
  | _ => e

end Sys2Proof.Machine
end

