-- ==== Sys2Proof/Machine/Control.lean ====
section
/-! DEFINITION. Control and schedule entries, 0x40 to 0x4F, and the steps of spans, tokens and handlers
(R100 to R107, R115 to R117, R323 to R336). -/

namespace Sys2Proof.Machine

open Sys2Proof

/-! ## Chained counters (R107, R324, R325) -/

/-- One counter stepped: from 0 it reloads its start value and sets RL, else it subtracts 1 and clears RL. -/
def Counter.step (c : Counter) : Counter :=
  if c.value = 0#32 then { c with value := c.start, rl := true } else { c with value := c.value - 1#32, rl := false }

/-- The steps of the counters that `init` selects, with the cascade of every reload into a counter chained above. -/
def stepCounters (init : Nat → Counter → Bool) (c : Tbl Counter) : Tbl Counter :=
  ((List.range 8).foldl (fun (acc : Tbl Counter × Bool) i =>
    let k := acc.1.get Counter.zero i
    if init i k || (acc.2 && k.mode == 3#2) then (acc.1.set i k.step, k.step.rl) else (acc.1, false)) (c, false)).1

/-- CNTI (R324). -/
def execCnti (f : FK) (s : State) : Host.Outcome State Fault Refusal :=
  let a := s.src f.a.toNat
  go (s.entry [f.a.toNat] [] .ok (fun t => t.modE (fun e =>
    { e.unpoison (regWord (80 + bitsOf f.param 2 0)) 4 with c := e.c.set (bitsOf f.param 2 0) { value := a, start := a, mode := f.param.extractLsb' 3 2, rl := false } })))

/-- CNTS (R324): the value, or the start value. -/
def execCnts (f : FK) (s : State) : Host.Outcome State Fault Refusal :=
  let a := s.src f.a.toNat
  let n := bitsOf f.param 2 0
  go (s.entry [f.a.toNat] [] .ok (fun t => t.modE (fun e =>
    let k := e.c.get Counter.zero n
    if bitAt f.param 3 then { e with c := e.c.set n { k with start := a, rl := false } }
    else { e.unpoison (regWord (80 + n)) 4 with c := e.c.set n { k with value := a, rl := false } })))

/-- The check of a counter whose value an entry reads (R253). -/
def State.counterChk (s : State) (i : Nat) : Chk := s.wordChk (regWord (80 + i)) 4

/-- CNTV (R324): steps the counters of its mask whose mode is 10. -/
def execCntv (f : FK) (s : State) : Host.Outcome State Fault Refusal :=
  let picked := (List.range 8).filter (fun i => bitAt f.param i && (s.oldE.c.get Counter.zero i).mode == 2#2)
  go (s.entry [] [] (picked.foldl (fun (a : Chk) i => a.and (s.counterChk i)) .ok) (fun t => t.modE (fun e =>
    { e with c := stepCounters (fun i k => bitAt f.param i && k.mode == 2#2) e.c })))

/-- CNTT (R325). -/
def execCntt (f : FK) (s : State) : Host.Outcome State Fault Refusal :=
  let k := s.oldE.c.get Counter.zero (bitsOf f.param 2 0)
  let v := boolWord (match bitsOf f.param 4 3 with
    | 0 => k.value == 0#32
    | 1 => k.value != 0#32
    | _ => k.rl)
  go (s.entry [] [f.d.toNat] (s.counterChk (bitsOf f.param 2 0)) (fun t => t.put f.d.toNat v))

/-! ## Schedules, rotation, halts (R326 to R329) -/

/-- SWS (R326): the span's choice for the next wrap. -/
def execSws (f : FK) (s : State) : Host.Outcome State Fault Refusal :=
  go (s.entry [] [] .ok (fun t => t.modSpan (fun p => { p with choice := some (bitAt f.param 0), swsAt := some s.cycle })))

/-- ROTB (R327). -/
def execRotb (f : FK) (s : State) : Host.Outcome State Fault Refusal :=
  let srcs := if bitAt f.param 5 then [f.a.toNat] else []
  let v : BitVec 5 := if bitAt f.param 5 then (s.src f.a.toNat).extractLsb' 0 5 else f.param.extractLsb' 0 5
  go (s.entry srcs [] .ok (fun t => t.modE (fun e => { e with rot := v })))

/-- HALTS (R328): the span becomes idle at its next wrap. -/
def execHalts (s : State) : Host.Outcome State Fault Refusal :=
  go (s.entry [] [] .ok (fun t => t.modSpan (fun p => { p with haltAtWrap := true })))

/-- ENDP (R329): the wrap that ends this period ends the round. -/
def execEndp (s : State) : Host.Outcome State Fault Refusal :=
  go (s.entry [] [] .ok (fun t => t.modSpan (fun p => { p with endp := true })))

/-! ## Tokens (R115, R330 to R333) -/

/-- The signatures reached from `sgs` in `k` further faces: each with its distance (R115). A cut face carries
nothing (R119). -/
def Region.reach (r : Region) : Nat → Nat → List Nat → List (Nat × Nat) → List (Nat × Nat)
  | 0, _, _, acc => acc
  | k + 1, d, front, acc =>
    let next := (front.flatMap (fun sg => (List.range 4).filterMap (fun side => r.chained sg side))).filter
      (fun q => !(acc.map Prod.fst).contains q && !(r.sig q).passed)
    let next := next.dedup
    if next = [] then acc else Region.reach r k (d + 1) next (acc ++ next.map (fun q => (q, d + 1)))

/-- Whether a signature takes tokens of an id: it declares it, or an element receives it (R115, R117). -/
def SigDecl.takes (d : SigDecl) (id : Nat) : Bool := d.tokens.testBit id || d.elems.any (fun e => e.recv.testBit id)

/-- A token sent from the page in focus: it arrives at the end of cycle + 4 on the page, and 4 cycles later for each
face crossed, where the id is declared; event 6 counts it (R115, R259). -/
def State.sendToken (s : State) (id : Nat) : State :=
  let dests := (s.rg.reach s.rg.sigs.length 0 [s.focus.sg] [(s.focus.sg, 0)]).filter (fun d => (s.rg.sig d.1).decl.takes id)
  (s.modNow (fun f => { f with toks := f.toks ++ dests.map (fun d => { sg := d.1, id := id, due := s.cycle + 4 + 4 * d.2 }) })).count
    0x06

/-- TOKS (R330). -/
def execToks (f : FK) (s : State) : Host.Outcome State Fault Refusal :=
  go (s.entry [] [] .ok (fun t => t.sendToken (bitsOf f.param 5 0)))

/-- The pending count of a token id as it stood (R115). -/
def State.tokens (s : State) (t : Nat) : Nat := s.oldE.tok.get 0 t

/-- One token consumed; a counter that LOOPB names is loaded from its start value (R332). -/
def Elem.takeToken (e : Elem) (t : Nat) (ctr : Option Nat) : Elem :=
  let e := { e with tok := e.tok.set t (e.tok.get 0 t - 1) }
  match ctr with
  | none => e
  | some n =>
    let k := e.c.get Counter.zero n
    { e.unpoison (regWord (80 + n)) 4 with c := e.c.set n { k with value := k.start, rl := false } }

/-- The wait of TOKW and LOOPB: consumes at fire when a token is pending, and holds its latch (R331). -/
def State.tokWait (s : State) (t w wm : Nat) (ctr : Option Nat) : State :=
  let ready := s.tokens t ≠ 0
  (if ready then s.modE (fun e => e.takeToken t ctr) else s).openWin (.token t ctr) 72 w wm
    (if ready then some 1#32 else none)

/-- TOKW (R331). -/
def execTokw (f : FW) (s : State) : Host.Outcome State Fault Refusal :=
  go (s.entry [] [] .ok (fun u => u.tokWait f.b.toNat f.win.toNat f.wm.toNat none))

/-- TOKT (R330): the pending count; consumes nothing. -/
def execTokt (f : FK) (s : State) : Host.Outcome State Fault Refusal :=
  go (s.compute [] f.d.toNat (BitVec.ofNat 32 (s.tokens (bitsOf f.param 5 0))))

/-- LOOPB (R332): a TOKW with W = 1 in freeze mode. -/
def execLoopb (f : FK) (s : State) : Host.Outcome State Fault Refusal :=
  go (s.entry [] [] .ok (fun u => u.tokWait (bitsOf f.param 5 0) 1 0
    (if bitAt f.param 9 then some (bitsOf f.param 8 6) else none)))

/-- LOOPE (R333): one token by the counter as it stood; the counter does not step. -/
def execLoope (f : FK) (s : State) : Host.Outcome State Fault Refusal :=
  let k := s.oldE.c.get Counter.zero (bitsOf f.param 14 12)
  go (s.entry [] [] (s.counterChk (bitsOf f.param 14 12)) (fun t =>
    if k.value ≠ 0#32 then t.sendToken (bitsOf f.param 5 0)
    else if bitAt f.param 15 then t.sendToken (bitsOf f.param 11 6) else t))

/-! ## Waits on links (R334, R335) and handlers (R336) -/

/-- The condition of WAITW on an element, with its output room (R334). The condition at fire is judged on the state at the end of the
previous cycle. -/
def waitHolds (e : Elem) (room : Nat → Bool) (cls idx : Nat) : Bool :=
  match cls with
  | 0 => (e.inq.get [] idx) != []
  | 1 => room idx
  | 2 => !(e.reads.any (fun r => r.sn == idx))
  | _ => (e.streams.get Stream.none idx).beats != []

/-- WAITW (R334) (DEDUCED, log 26). -/
def execWaitw (f : FW) (s : State) : Host.Outcome State Fault Refusal :=
  let cls := bitsOf f.b 6 4
  let idx := bitsOf f.b 2 0
  go (s.entry [] [f.d.toNat] .ok (fun t => t.openWin (.wait cls idx) f.d.toNat f.win.toNat f.wm.toNat
    (if waitHolds s.oldE s.outRoom cls idx then some 1#32 else none)))

/-- LATCH (R335): a word present at fire is consumed in its step, with the poison it carries (R253); a cut link faults (R119). -/
def execLatch (f : FW) (s : State) : Host.Outcome State Fault Refusal :=
  let side := bitsOf f.b 1 0
  let cut : Chk := match s.rg.link s.focus.sg s.focus.x s.focus.y side with | .cut => .fault 0x22 0 | _ => .ok
  let word : Chk := if s.inWords side = [] then .ok else s.wordChk (regWord (64 + side)) 4
  go (s.entry [] [f.d.toNat] (cut.and word) (fun t =>
    match s.inWords side with
    | [] => t.openWin (.link side) f.d.toNat f.win.toNat f.wm.toNat none
    | v :: _ => (t.popIn side).openWin (.link side) f.d.toNat f.win.toNat f.wm.toNat (some v)))

/-- HANDL (R336): the new word takes effect at the end of cycle s + 4; its bits [21:16] are written as zero. -/
def execHandl (f : FK) (s : State) : Host.Outcome State Fault Refusal :=
  let w := s.src f.a.toNat &&& 0xFFC0FFFF#32
  go (s.entry [f.a.toNat] [] .ok (fun t => t.modNow (fun fb => { fb with
    hwrites := fb.hwrites ++ [{ sg := s.focus.sg, e := bitsOf f.param 3 0, word := w, due := s.cycle + 4, y := s.focus.y, x := s.focus.x }] })))

/-! ## Arrivals of tokens (R115, R117) -/

/-- A fault of a page that no entry raised (R248). -/
def State.raisePage (s : State) (code addr : Nat) : State :=
  s.raise { code := code, page := s.page, x := 0xFF, y := 0xFF, sch := 0xFF, stamp := 0xFFFF, win := 0, addr := addr,
            resumable := false, counts := false }

/-- The elements of the signature in focus that receive a token id. -/
def State.receivers (s : State) (id : Nat) : List ElemDecl := s.sig.decl.elems.filter (fun d => d.recv.testBit id)

/-- The first token of the id in focus for its signature that is due, removed from the network. -/
def State.takeTok (s : State) : State :=
  let mine := fun t : Tok => t.sg == s.focus.sg && t.id == s.focus.n && t.due ≤ s.cycle
  s.modNow (fun f => { f with toks := f.toks.eraseP mine })

/-- TOKEN_ARRIVAL (R115): one token of the id in focus is counted by every element that receives it; an arrival
that would pass 15 is dropped and raises 0x61. -/
def execTokenArrival (s : State) : Host.Outcome State Fault Refusal :=
  let id := s.focus.n
  go ((s.receivers id).foldl (fun t d =>
    let c := (t.rg.now.elem s.focus.sg d.x d.y).tok.get 0 id
    if c ≥ 15 then t.raisePage 0x61 id
    else t.modEAt s.focus.sg d.x d.y (fun e => { e with tok := e.tok.set id (c + 1) })) s.takeTok)

/-- What a handler word does to one span of its mask (R116): start, select, halt. A select or a halt that has reached an idle span acts
at its next wrap. The SWS of the same cycle prevails over a select (R326). -/
def handlerAct (cycle : Nat) (w : Word) (p : Span) : Span :=
  match bitsOf w 24 23 with
  | 0 => match p.run with
    | .idle => { p with run := .running, counter := 0, sched := bitAt w 22, pstart := p.periods }
    | _ => p
  | 1 => if p.swsAt = some cycle then p else { p with choice := some (bitAt w 22) }
  | 2 => { p with haltAtWrap := true }
  | _ => p

/-- The spans of the signature in focus that a handler word names. -/
def State.handlerSpans (s : State) (w : Word) : List Nat :=
  (s.sig.decl.spans.map (·.n)).filter (fun n => bitAt w n)

/-- One handler entry acts on its spans. -/
def State.actHandler (s : State) (w : Word) : State :=
  (s.handlerSpans w).foldl (fun t n => t.modNow (fun f => f.modSpan s.focus.sg n (handlerAct s.cycle w))) s

/-- The entries of the page's table that act on token id, in ascending index (R117). -/
def State.handlersOf (s : State) (id : Nat) : List Word :=
  (List.range 16).filterMap (fun e =>
    let w := s.rg.now.handlers.get 0#32 (s.focus.sg * 16 + e)
    if bitAt w 31 && bitsOf w 30 25 == id && bitsOf w 24 23 != 3 then some w else none)

/-- The writes under way to the handler table of the signature in focus that hold tokens back (R336). -/
def State.rewrites (s : State) : List HWrite :=
  s.rg.now.hwrites.filter (fun h => h.sg == s.focus.sg && (s.cycle < h.due + 1 && h.due ≤ s.cycle + 3))

/-- The valid entries that name the id, before or after, and are being rewritten (R117, R336). -/
def State.rewriting (s : State) (id : Nat) : List Nat :=
  (s.rewrites.filter (fun h =>
    [h.word, s.rg.now.handlers.get 0#32 (s.focus.sg * 16 + h.e)].any (fun w => bitAt w 31 && bitsOf w 30 25 == id))).map (·.e)

/-- Whether a held token of the signature in focus waits for no write any more: none is pending to an entry for which it has waited. -/
def State.freed (s : State) (k : Tok × List Nat) : Bool :=
  k.1.sg == s.focus.sg && k.2.all (fun e => !(s.rewrites.any (fun h => h.e == e)))

/-- Whether a token is one of the handler tokens of the signature in focus that are due: it declares the id, and no element receives
it (R117). -/
def State.handlerDue (s : State) (k : Tok) : Bool :=
  k.sg == s.focus.sg && decide (k.due ≤ s.cycle) && s.sig.decl.tokens.testBit k.id && s.receivers k.id == []

/-- Entry e of the page's table acts once for each arriving token of its TOKEN. -/
def State.entryActs (s : State) (act : List Tok) (e : Nat) : State :=
  let w := s.rg.now.handlers.get 0#32 (s.focus.sg * 16 + e)
  if bitAt w 31 && bitsOf w 24 23 != 3 then
    (act.filter (fun k => k.id == bitsOf w 30 25)).foldl (fun t _ => t.actHandler w) s
  else s

/-- HANDLER_TOKEN_ARRIVAL (R117): of the handler tokens that reach the table of the signature in focus in one cycle, those
whose entry is being rewritten wait, those that no entry names are parked and raise 0x60, and the rest act in ascending
entry index. -/
def execHandlerTokenArrival (s : State) : Host.Outcome State Fault Refusal :=
  let due := s.rg.now.toks.filter s.handlerDue
  let wait := due.filter (fun k => s.rewriting k.id != [])
  let act := due.filter (fun k => s.rewriting k.id == [])
  let lost := act.filter (fun k => s.handlersOf k.id == [])
  let t := s.modNow (fun f => { f with
    toks := f.toks.filter (fun k => !(s.handlerDue k))
    heldToks := f.heldToks ++ wait.map (fun k => (k, s.rewriting k.id))
    parked := f.parked ++ lost.map (fun k => (k.sg, k.id)) })
  go ((List.range 16).foldl (fun u e => u.entryActs act e) (lost.foldl (fun (u : State) k => u.raisePage 0x60 k.id) t))

/-- HANDLER_WRITE_EFFECT (R336): the writes to entry n in focus that are due take effect, the lower y then the lower
x first; tokens that wait for no other write to their entry act on the new words. -/
def execHandlerWriteEffect (s : State) : Host.Outcome State Fault Refusal :=
  let mine := fun h : HWrite => h.sg == s.focus.sg && h.e == s.focus.n && h.due ≤ s.cycle
  let due := sortBy (fun a b : HWrite => a.y < b.y || (a.y == b.y && a.x < b.x)) (s.rg.now.hwrites.filter mine)
  let t := s.modNow (fun f => { f with
    handlers := due.foldl (fun h w => h.set (w.sg * 16 + w.e) w.word) f.handlers
    hwrites := f.hwrites.filter (fun h => !mine h) })
  go (t.modNow (fun f => { f with
    heldToks := f.heldToks.filter (fun k => !(t.freed k))
    toks := f.toks ++ (f.heldToks.filter t.freed).map (fun k => { k.1 with due := s.cycle }) }))

/-! ## Wraps and switches (R103 to R107, R120) -/

/-- The declaration of the span in focus (number n). -/
def State.spanDecl (s : State) : SpanDecl :=
  (s.sig.decl.spans.find? (fun p => p.n == s.focus.n)).getD
    { n := 0, x0 := 0, y0 := 0, x1 := 0, y1 := 0, waiting := false, period := 1, round := 1 }

/-- The round length in periods; 0 declares the greatest whole number of periods within 10,000 cycles, at least 1
(R120): 10,000 and 5,000 for P of 1 and 2, above the greatest length that can be declared (DESIGN CHOICE, log 109). -/
def SpanDecl.roundLen (d : SpanDecl) : Nat := if d.round = 0 then Nat.max 1 (10000 / d.period) else d.round

/-- Coordinates of a span's rectangle. -/
def SpanDecl.coords (d : SpanDecl) : List (Nat × Nat) :=
  (List.range (d.y1 + 1 - d.y0)).flatMap (fun j => (List.range (d.x1 + 1 - d.x0)).map (fun i => (d.x0 + i, d.y0 + j)))

/-- What a wrap does to a CE: the rotation base advances, then the counters in mode wrap step (R103, R106, R107). -/
def Elem.wrap (e : Elem) : Elem :=
  { e with rot := e.rot + 1#5, c := stepCounters (fun _ k => k.mode == 1#2) e.c }

/-- A span after the wrap that ends its period (R103, R104, R116, R118, R120, R329). A counter at P belongs to a wrap that a window has
held up (R113, R114). -/
def spanAfterWrap (d : SpanDecl) (p : Span) : Span :=
  let n := p.periods + 1
  let sched := p.choice.getD p.sched
  let q := { p with counter := 0, periods := n, cyc := if p.counter < d.period then p.cyc + 1 else p.cyc, choice := none, swsAt := none, endp := false,
                    haltAtWrap := false }
  if p.haltAtWrap || p.keyed then { q with run := .idle, sched := sched }
  else if p.endp || (n - p.pstart) % d.roundLen = 0 then { q with run := .waiting (sched != p.sched), sched := sched }
  else if sched != p.sched then { q with run := .switching 2, sched := sched }
  else q

/-- SPAN_WRAP (R103): between the step at P - 1 and the next step at 0. -/
def execSpanWrap (s : State) : Host.Outcome State Fault Refusal :=
  let d := s.spanDecl
  let ces := d.coords.filter (fun c => kindAt c.1 c.2 == .ce)
  go (s.modNow (fun f =>
    (ces.foldl (fun g c => g.modElem s.focus.sg c.1 c.2 Elem.wrap) f).modSpan s.focus.sg d.n (spanAfterWrap d)))

/-- SCHEDULE_SWITCH_END (R104): the step at 0 of the new schedule fires in the next cycle. -/
def execScheduleSwitchEnd (s : State) : Host.Outcome State Fault Refusal :=
  go (s.modNow (fun f => f.modSpan s.focus.sg s.focus.n (fun p => { p with run := .running })))

/-- FREEZE_RELEASE (R111): every blocking condition of the span's step has cleared. -/
def execFreezeRelease (s : State) : Host.Outcome State Fault Refusal :=
  go (s.modNow (fun f => f.modSpan s.focus.sg s.focus.n (fun p => { p with stalled := false })))

/-- The route context in force in the element in focus: output side by input side (R108). The context is number n of
the focus. -/
def State.routes (s : State) : List (Nat × Nat) :=
  match s.decl.rcxs.find? (fun c => c.n == s.focus.n) with
  | none => []
  | some c => (List.range 4).filterMap (fun i => match c.outs[i]? with
    | some o => if o < 4 then some (i, o) else none
    | none => none)

/-- What stands in the way of a pass-through: a word from a cut link, or whose output is cut or full (R109, R111, R119) (DEDUCED,
log 50). A context that feeds a dead link of the page's edge holds its word for ever (DESIGN CHOICE, log 107). -/
def State.passChk (s : State) : Chk :=
  s.routes.foldl (fun (c : Chk) p =>
    if s.inWords p.1 = [] then c
    else match s.rg.link s.focus.sg s.focus.x s.focus.y p.1, s.rg.link s.focus.sg s.focus.x s.focus.y p.2 with
      | .cut, _ => c.and (.fault 0x22 0)
      | _, .cut => c.and (.fault 0x22 0)
      | _, _ => if s.outRoom p.2 then c else c.and .stall) .ok

/-- The word that has just gone out on a side carries its poison (R253). -/
def State.poisonOut (s : State) (side : Nat) : State :=
  match s.rg.link s.focus.sg s.focus.x s.focus.y side with
  | .live sg x y sd _ => s.modEAt sg x y (fun e => { e with poison := insertUniq (linkWord sd ((e.inq.get [] sd).length - 1)) e.poison })
  | _ => s

/-- PASS_THROUGH (R108, R109): each word of a routed input moves to its output, with its poison; a full output freezes the span. -/
def execPassThrough (s : State) : Host.Outcome State Fault Refusal :=
  go (s.under s.passChk (fun t => s.routes.foldl (fun t p =>
    match s.inWords p.1 with
    | [] => t
    | v :: _ =>
      let u := (t.popIn p.1).pushOut p.2 v
      if s.oldE.rangePoison (regWord (64 + p.1)) 4 then u.poisonOut p.2 else u) t))

end Sys2Proof.Machine
end

