-- ==== Sys2Proof/Machine/Local.lean ====
section
/-! DEFINITION. Local loads and stores, FIFO, line-buffer and buffer control: 0x60, 0x61, 0x68 to 0x6B, 0x7A, 0x7B
(R127 to R133, R338, R341, R348). -/

namespace Sys2Proof.Machine

open Sys2Proof

/-! ## LDL and STL (R341) -/

/-- The size of a local access by MODE[1:0]. -/
def localSize (mode : BitVec 4) : Nat := match bitsOf mode 1 0 with | 0 => 4 | 1 => 2 | _ => 1

/-- The offset of a local access, aligned down to its size (R338, R341). -/
def State.localOff (s : State) (f : FM) : Nat :=
  alignDown (bitsOf f.off 17 0 + (if bitAt f.mode 3 then (s.src f.strm.toNat).toNat else 0)) (localSize f.mode)

/-- The sources of a local access: its register where it stores, and the index. -/
def localSrcs (f : FM) (store : Bool) : List Nat :=
  (if store then [f.d.toNat] else []) ++ (if bitAt f.mode 3 then [f.strm.toNat] else [])

/-- LDL (R341): d ← the bytes at e, zero-extended, as they stood at the end of the previous cycle. -/
def execLdl (f : FM) (s : State) : Host.Outcome State Fault Refusal :=
  let n := localSize f.mode
  let r := s.localRead (s.localOff f) 0 n
  go (s.entry (localSrcs f false) [f.d.toNat] (r.1.and (s.poisonChk r.2 n)) (fun t =>
    (t.put f.d.toNat (BitVec.ofNat 32 (leNat (s.sramOld r.2 n)))).modE (fun e => e.markRead r.2 n)))

/-- STL (R341): the bytes at e ← the low bytes of a; T ← E, CHK ← 1. -/
def execStl (f : FM) (s : State) : Host.Outcome State Fault Refusal :=
  let n := localSize f.mode
  let w := s.localWrite (s.localOff f) 0 n
  go (s.entry (localSrcs f true) [] w.1 (fun t =>
    t.modE (fun e => e.writeSram w.2.1 (leBytes n (s.src f.d.toNat).toNat) (.loc (s.grp w.2.2).e))))

/-! ## FIFO groups (R129, R343, R348) -/

/-- A FIFO whose banks are waking freezes the span (R30). -/
def State.fifoWake (s : State) (g : Nat) : Chk :=
  match s.group g with
  | some d => if s.oldE.asleep d.base d.bytes then .stall else .ok
  | none => .ok

/-- Room of a FIFO for n more words: words held and words promised to reads in flight count. -/
def State.fifoRoom (s : State) (g n : Nat) : Chk :=
  let depth := ((s.group g).map (·.n)).getD 0
  if (s.grp g).q.length + (s.grp g).promised + n ≤ depth then s.fifoWake g else .stall

/-- FPUSH (R348). -/
def execFpush (f : FM) (s : State) : Host.Outcome State Fault Refusal :=
  let a := s.src f.d.toNat
  go (s.entry [f.d.toNat] [] (s.fifoRoom f.mode.toNat 1) (fun t =>
    match s.group f.mode.toNat with
    | some g => t.modE (fun e => e.fifoPush g a)
    | none => t))

/-- FPOP (R348): the head word, removed; an empty FIFO freezes. -/
def execFpop (f : FM) (s : State) : Host.Outcome State Fault Refusal :=
  let k := s.grp f.mode.toNat
  match s.group f.mode.toNat with
  | none => go (s.raiseHere 0x43 0)
  | some g =>
    let chk := (s.fifoWake g.i).and (if k.q = [] then .stall else s.poisonChk (g.fifoAddr k.head 0) 4)
    go (s.entry [] [f.d.toNat] chk (fun t => (t.put f.d.toNat (k.q.head?.getD 0#32)).modE (fun e => e.fifoPop g)))

/-! ## Line buffers (R130, R348) -/

/-- The byte offset of a column of a line of a line buffer. -/
def GroupDecl.lineAddr (g : GroupDecl) (line col : Nat) : Nat := g.base + (line * g.wd + col) * 4

/-- LBSH (R348, R130): writes at column COL of line HL, then advances. -/
def execLbsh (f : FM) (s : State) : Host.Outcome State Fault Refusal :=
  match s.group f.mode.toNat with
  | none => go (s.raiseHere 0x43 0)
  | some g =>
    let k := s.grp g.i
    let a := g.lineAddr k.hl k.col
    let wake : Chk := if (banksOf a 4).any (fun b => s.oldE.waking.contains b) then .stall else .ok
    go (s.entry [f.d.toNat] [] wake (fun t => t.modE (fun e =>
      (e.writeRaw a (leBytes 4 (s.src f.d.toNat).toNat)).modGrp g.i (fun k =>
        if k.col + 1 = g.wd then { k with col := 0, hl := (k.hl + 1) % g.n } else { k with col := k.col + 1 }))))

/-- The relative line and the column of LBRD (R348). -/
def State.lbrdAt (s : State) (f : FM) : Nat × Nat :=
  let x := s.src (bitsOf f.off 18 15)
  (f.strm.toNat + (if bitAt f.off 20 then bitsOf x 31 16 else 0),
    bitsOf f.off 14 0 + (if bitAt f.off 19 then bitsOf x 15 0 else 0))

/-- LBRD (R348, R130): relative line 0 is the line most recently completed; lines and columns are taken modulo H and
Wd. -/
def execLbrd (f : FM) (s : State) : Host.Outcome State Fault Refusal :=
  match s.group f.mode.toNat with
  | none => go (s.raiseHere 0x43 0)
  | some g =>
    let ic := s.lbrdAt f
    let a := g.lineAddr (((((s.grp g.i).hl : Int) - 1 - ic.1) % (g.n : Int)).toNat) (ic.2 % g.wd)
    let wake : Chk := if (banksOf a 4).any (fun b => s.oldE.waking.contains b) then .stall else .ok
    let srcs := if bitAt f.off 20 || bitAt f.off 19 then [bitsOf f.off 18 15] else []
    go (s.entry srcs [f.d.toNat] (wake.and (s.poisonChk a 4)) (fun t =>
      t.put f.d.toNat (BitVec.ofNat 32 (leNat (s.sramOld a 4)))))

/-! ## Operand-store control (R348, R128, R133) -/

/-- STAG (R348): E ← a[7:0]; T and CHK are unchanged. -/
def execStag (f : FM) (s : State) : Host.Outcome State Fault Refusal :=
  let a := s.src f.d.toNat
  go (s.entry [f.d.toNat] [] .ok (fun t =>
    t.modE (fun e => e.modGrp f.mode.toNat (fun g => { g with e := a.extractLsb' 0 8 }))))

/-- BUFSW (R348, R128): CUR and E advance. -/
def execBufsw (f : FM) (s : State) : Host.Outcome State Fault Refusal :=
  let n := ((s.group f.mode.toNat).map (·.n)).getD 1
  go (s.entry [] [] .ok (fun t =>
    t.modE (fun e => e.modGrp f.mode.toNat (fun g => { g with cur := (g.cur + 1) % n, e := g.e + 1#8 }))))

end Sys2Proof.Machine
end

