-- ==== Sys2Proof/Machine/Compress.lean ====
section
/-! DEFINITION. Compressed blocks: header, modes, expansion (R151 to R153). -/

namespace Sys2Proof.Machine

open Sys2Proof

/-- The 32-bit words of a byte run. -/
def wordsOf (l : List Byte) : List Nat := (List.range (l.length / 4)).map (fun i => leAt l (4 * i) 4)

/-- Bits packed into bytes: the first bit of a field is its least significant, and it takes the lowest free bit of the lowest byte
(DESIGN CHOICE, log 76). -/
def packBits : List Bool → List Byte
  | b0 :: b1 :: b2 :: b3 :: b4 :: b5 :: b6 :: b7 :: t =>
    BitVec.ofNat 8 ((if b0 then 1 else 0) + (if b1 then 2 else 0) + (if b2 then 4 else 0) + (if b3 then 8 else 0) +
      (if b4 then 16 else 0) + (if b5 then 32 else 0) + (if b6 then 64 else 0) + (if b7 then 128 else 0)) :: packBits t
  | _ => []

/-- `w` bits of a number, least significant first. -/
def bitsList (w v : Nat) : List Bool := (List.range w).map (fun i => v.testBit i)

/-- A block header: MODE with HOT and FMT, NSEC, NESC, EMAX, and the bases (R151). -/
def blockHeader (mode nsec nesc emax : Nat) (hot fp16 : Bool) (bases : List Nat) : List Byte :=
  leBytes 1 (mode + (if hot then 16 else 0) + (if fp16 then 32 else 0)) ++ leBytes 1 nsec ++ leBytes 2 nesc ++
  leBytes 2 emax ++ leBytes 10 0 ++ (List.range 4).flatMap (fun g => leBytes 4 ((bases[g]?).getD 0))

/-- The deltas of a base-delta block, when every word has one in range (R152). -/
def deltasOf (ws : List Nat) : Option (List Int) :=
  let ds := (List.range 256).map (fun i =>
    sextN 32 (((ws[i]?).getD 0 + 2 ^ 32 - (ws[i / 64 * 64]?).getD 0) % 2 ^ 32))
  if ds.all (fun d => decide (-128 ≤ d) && decide (d ≤ 127)) then some ds else none

/-- Exponent and sign-with-mantissa of a half-width element under BF16 or FP16 (R152): the sign stands above the mantissa (DESIGN
CHOICE, log 76). -/
def splitHalf (fp16 : Bool) (v : Nat) : Nat × Nat :=
  if fp16 then (v / 2 ^ 10 % 32, v / 2 ^ 15 * 2 ^ 10 + v % 2 ^ 10) else (v / 2 ^ 7 % 256, v / 2 ^ 15 * 2 ^ 7 + v % 2 ^ 7)

/-- The element of an exponent and its sign-with-mantissa. -/
def joinHalf (fp16 : Bool) (e sm : Nat) : Nat :=
  if fp16 then sm / 2 ^ 10 * 2 ^ 15 + e * 2 ^ 10 + sm % 2 ^ 10 else sm / 2 ^ 7 * 2 ^ 15 + e * 2 ^ 7 + sm % 2 ^ 7

/-- Bits of a sign-with-mantissa. -/
def smBits (fp16 : Bool) : Nat := if fp16 then 11 else 8

/-- The exponent-plane payload of a block and its escapes. -/
def expPlane (fp16 : Bool) (data : List Byte) : Nat × Nat × List Byte :=
  let es := (List.range 512).map (fun i => splitHalf fp16 (leAt data (2 * i) 2))
  let emax := maxNat (es.map Prod.fst)
  let codes := es.map (fun p => if emax - p.1 ≤ 14 then emax - p.1 else 15)
  let esc := (es.filter (fun p => emax - p.1 > 14)).map (fun p => BitVec.ofNat 8 p.1)
  (emax, esc.length, packBits (codes.flatMap (bitsList 4)) ++
    packBits (es.flatMap (fun p => bitsList (smBits fp16) p.2)) ++ esc)

/-- Sectors of an exponent-plane block (R152). -/
def planeSectors (fp16 : Bool) (nesc : Nat) : Nat := ceilDiv (32 + 256 + 512 * smBits fp16 / 8 + nesc) 64

/-- A block in raw mode, hot or not. -/
def rawBlock (hot : Bool) (data : List Byte) : List Byte := blockHeader 0 17 0 0 hot false [] ++ data

/-- A whole-block write: the eligible mode with the fewest sectors, ties to all-zero, base-delta, exponent-plane, raw
(R153). Only the used sectors are written. -/
def compressBlock (cmp : Nat) (data : List Byte) : List Byte :=
  let ws := wordsOf data
  let zero := data.all (· == 0#8)
  let bd := deltasOf ws
  let fp16 := cmp == 3
  let (emax, nesc, plane) := if cmp ≥ 2 then expPlane fp16 data else (0, 0, [])
  let pn := if cmp ≥ 2 then planeSectors fp16 nesc else 18
  if zero then sliceBytes (blockHeader 1 1 0 0 false false []) 0 64
  else match bd with
    | some ds =>
      if 5 ≤ pn then sliceBytes (blockHeader 2 5 0 0 false false ((List.range 4).map (fun g => (ws[64 * g]?).getD 0)) ++
          ds.map (fun d => BitVec.ofInt 8 d)) 0 320
      else sliceBytes (blockHeader 3 pn nesc emax false fp16 [] ++ plane) 0 (64 * pn)
    | none =>
      if pn ≤ 17 then sliceBytes (blockHeader 3 pn nesc emax false fp16 [] ++ plane) 0 (64 * pn)
      else rawBlock false data

/-- Whether a header is one the device takes for an uncorrectable error (R151). -/
def badHeader (slot : List Byte) : Bool :=
  let b0 := leAt slot 0 1
  let mode := b0 % 16
  let nsec := leAt slot 1 1
  mode > 3 || b0 / 64 != 0 || leAt slot 6 10 != 0 ||
  nsec != (match mode with
    | 0 => 17
    | 1 => 1
    | 2 => 5
    | _ => planeSectors (b0 / 32 % 2 == 1) (leAt slot 2 2))

/-- Whether a slot's block is raw, and whether it is hot. -/
def blockRaw (slot : List Byte) : Bool := leAt slot 0 1 % 16 == 0
def blockHot (slot : List Byte) : Bool := leAt slot 0 1 / 16 % 2 == 1

/-- Bit field `w` wide at bit `o` of a byte run. -/
def bitField (l : List Byte) (o w : Nat) : Nat := leAt l (o / 8) 4 / 2 ^ (o % 8) % 2 ^ w

/-- The exponents of a plane with its escapes in element order. -/
def planeExps (emax : Nat) : List Nat → List Byte → List Nat
  | [], _ => []
  | c :: t, esc => if c = 15 then ((esc.head?).getD 0#8).toNat :: planeExps emax t (esc.drop 1)
      else (emax - c) :: planeExps emax t esc

/-- The 1,024 data bytes of a stored block (R152). -/
def expandBlock (slot : List Byte) : List Byte :=
  match leAt slot 0 1 % 16 with
  | 0 => sliceBytes slot 32 1024
  | 1 => List.replicate 1024 0#8
  | 2 => (List.range 256).flatMap (fun i =>
      leBytes 4 ((leAt slot (16 + 4 * (i / 64)) 4 + (sextN 8 (leAt slot (32 + i) 1) + 2 ^ 32).toNat) % 2 ^ 32))
  | _ =>
    let fp16 := leAt slot 0 1 / 32 % 2 == 1
    let codes := (List.range 512).map (fun i => bitField slot (32 * 8 + 4 * i) 4)
    let sm := (List.range 512).map (fun i => bitField slot ((32 + 256) * 8 + smBits fp16 * i) (smBits fp16))
    let es := planeExps (leAt slot 4 2) codes (slot.drop (32 + 256 + 512 * smBits fp16 / 8))
    (es.zip sm).flatMap (fun p => leBytes 2 (joinHalf fp16 p.1 p.2))

end Sys2Proof.Machine
end

