-- ==== Sys2Proof/Machine/Ports.lean ====
section
/-! DEFINITION. What a viaduct port sends (R11, R12, R15, R24). -/

namespace Sys2Proof.Machine

open Sys2Proof

/-- A port of the part, by number. -/
def State.port (s : State) (p : Nat) : Port := s.ports.get Port.reset p

/-- The state with port p changed, where there is one. -/
def State.modPort (s : State) (p : Nat) (f : Port → Port) : State := { s with ports := s.ports.modify p f }

/-- Waiting payloads sent while the replay buffer of 512 flits has room (R12). -/
def Port.pumpN (p : Port) : Nat → Port
  | 0 => p
  | n + 1 =>
    match p.waiting with
    | [] => p
    | (cls, payload) :: t =>
      if p.replay.length < 512 then
        let f : Flit := { crcOk := true, seq := BitVec.ofNat 12 p.txSeq, ack := BitVec.ofNat 12 p.rxSeq, cls := BitVec.ofNat 2 cls, av := true
                          rsv := 0#5, payload := payload }
        Port.pumpN { p with waiting := t, txSeq := (p.txSeq + 1) % 4096, replay := p.replay ++ [f], out := p.out ++ [f] } n
      else p

/-- The idle flit of a port: unsequenced, never replayed, with the port's acknowledgement (R12). -/
def Port.idleFlit (p : Port) : Flit :=
  { crcOk := true, seq := 0#12, ack := BitVec.ofNat 12 p.rxSeq, cls := 3#2, av := true, rsv := 0#5, payload := [] }

/-- One idle flit sent, where nothing else can go: to acknowledge what came, and while all 512 entries of the replay buffer are
unacknowledged (R12). Idle flits that carry no news are not listed (DEDUCED, log 49). -/
def State.idle (s : State) (p : Nat) : State :=
  if s.viral then s else s.modPort p (fun q => if q.st = .active then { q with out := q.out ++ [q.idleFlit] } else q)

/-- Waiting payloads sent, by a port that sends (R15, R24); behind a full replay buffer an idle flit goes. -/
def State.pump (s : State) (p : Nat) : State :=
  if s.viral then s else s.modPort p (fun q =>
    if q.st ≠ .active then q
    else if 512 ≤ q.replay.length && q.waiting != [] then { q with out := q.out ++ [q.idleFlit] }
    else q.pumpN q.waiting.length)

/-- A payload for the far end of a port, in a class (R11). -/
def State.portSend (s : State) (p cls : Nat) (payload : List Byte) : State :=
  (s.modPort p (fun q => { q with waiting := q.waiting ++ [(cls, sliceBytes payload 0 120)] })).pump p

/-- The dies of a port (R7): the two that an edge joins, or the die of an off-package port (DEDUCED, log 34). -/
def portDies (p : Nat) : List Nat :=
  match p with
  | 0 => [0, 1] | 1 => [1, 2] | 2 => [2, 3] | 3 => [4, 5] | 4 => [5, 6] | 5 => [6, 7]
  | 6 => [0, 4] | 7 => [1, 5] | 8 => [2, 6] | 9 => [3, 7]
  | 10 => [0] | 11 => [0] | 12 => [3] | 13 => [3] | 14 => [4] | 15 => [4] | 16 => [7] | 17 => [7]
  | _ => []

end Sys2Proof.Machine
end

