-- ==== Sys2Proof/Machine/Mem.lean ====
section
/-! DEFINITION. Translation, the L2, DRAM, held rows, the watch table, and performing reads and stores
(R136 to R163, R165 to R167, R217, R253). -/

namespace Sys2Proof.Machine

open Sys2Proof

/-! ## Table walks (R138, R139) -/

/-- The result of one stage, or of a whole walk. -/
inductive WalkRes where
  | ok (frame size : Nat) (w : Bool) (cmp : Nat)
  | notPresent
  | malformed
  deriving DecidableEq, Repr

/-- Bits of an address below level l's index: 39, 30, 21, 12. -/
def levelShift (l : Nat) : Nat := 48 - 9 * l

/-- The address of the entry of level l for address a in a table of 512 entries of 8 B. -/
def entryAddr (base l a : Nat) : Nat := base + 8 * (a / 2 ^ levelShift l % 512)

/-- The table entry at a device address. -/
def tableEntry (m : Memory) (pa : Nat) : BitVec 64 := BitVec.ofNat 64 (leNat (m.readN pa 8))

/-- A table entry that R138 calls malformed: nonzero reserved bits, LEAF outside the second and third level, C outside
the last, CMP outside a guest leaf (DEDUCED, log 59). -/
def entryBad (guest : Bool) (l : Nat) (e : BitVec 64) : Bool :=
  let leaf := e.getLsbD 2 && (l == 2 || l == 3)
  bitsOf e 63 52 != 0 || bitsOf e 11 8 != 0 || bitsOf e 5 4 != 0 || (e.getLsbD 2 && !leaf) || (e.getLsbD 3 && l != 4) ||
  (bitsOf e 7 6 != 0 && !(guest && (leaf || l == 4)))

/-- The page of an entry that ends a stage at level l: 1 GiB or 2 MiB for a leaf, 4 KiB or, with C, 64 KiB at the last level (R138). -/
def pageOf (l : Nat) (e : BitVec 64) : Nat × Nat :=
  let size := if l = 4 then (if e.getLsbD 3 then 0x10000 else 0x1000) else 2 ^ levelShift l
  (alignDown (bitsOf e 51 12 * 0x1000) size, size)

/-- One stage for address a, from the table at `base` on, with k levels to go (R138): its result, and the addresses of the entries it
reads, which `tr` translates. -/
def walkStage (guest : Bool) (m : Memory) (tr : Nat → WalkRes) (a : Nat) : Nat → Nat → WalkRes × List Nat
  | 0, _ => (.notPresent, [])
  | k + 1, base =>
    let l := 4 - k
    let at_ := entryAddr base l a
    match tr at_ with
    | .ok f size _ _ =>
      let e := tableEntry m (f + at_ % size)
      if entryBad guest l e then (.malformed, [at_])
      else if !e.getLsbD 0 then (.notPresent, [at_])
      else if l = 4 ∨ e.getLsbD 2 then (.ok (pageOf l e).1 (pageOf l e).2 (e.getLsbD 1) (bitsOf e 7 6), [at_])
      else
        let r := walkStage guest m tr a k (bitsOf e 51 12 * 0x1000)
        (r.1, at_ :: r.2)
    | r => (r, [at_])

/-- A stage without tables translates nothing. -/
def walkFrom (guest : Bool) (m : Memory) (tr : Nat → WalkRes) (root a : Nat) : WalkRes × List Nat :=
  if root = 0 then (.notPresent, []) else walkStage guest m tr a 4 root

/-- Every address as it is: how the entries of the host stage are read, and the host stage of function 0 (R139). -/
def sameAddr : Nat → WalkRes := fun _ => .ok 0 (2 ^ 52) true 0

/-- The host stage of a tenant: guest-physical to system-physical (R138, R139). -/
def hostStage (m : Memory) (func : Nat) (t : Tenant) (gpa : Nat) : WalkRes × List Nat :=
  if func = 0 then (sameAddr gpa, []) else walkFrom false m sameAddr t.hpt gpa

/-- The guest stage of a tenant, whose table pointers the host stage translates (R139). -/
def guestStage (m : Memory) (func : Nat) (t : Tenant) (va : Nat) : WalkRes × List Nat :=
  walkFrom true m (fun g => (hostStage m func t g).1) t.gpt va

/-- The nested walk of a tenant's address: the smaller of the two page sizes, W of both leaves, CMP of the guest's; the
host stage of function 0 is the identity (R139). -/
def nestedWalk (m : Memory) (func : Nat) (t : Tenant) (va : Nat) : WalkRes :=
  match (guestStage m func t va).1 with
  | .ok f size w cmp =>
    let gpa := f + va % size
    match (hostStage m func t gpa).1 with
    | .ok f2 size2 w2 _ =>
      let sz := Nat.min size size2
      .ok (alignDown (f2 + gpa % size2) sz) sz (w && w2) cmp
    | r => r
  | r => r

/-- The system-physical address of a tenant's virtual address, by its tables: what every range entry gives too
(R142). -/
def State.paOf (s : State) (func va : Nat) : Option Nat :=
  match s.tenants.find func with
  | none => none
  | some t => match nestedWalk s.coh func t va with
    | .ok f size _ _ => some (f + va % size)
    | _ => none

/-- A range of addresses in pieces that each stay in one unit of `u` bytes. -/
def piecesOf (u a n : Nat) : List (Nat × Nat) :=
  (List.range ((a + n - 1) / u + 1 - a / u)).map (fun i =>
    let lo := if i = 0 then a else (a / u + i) * u
    (lo, Nat.min (a + n) ((a / u + i + 1) * u) - lo))

/-- A virtual range by pages of 4 KiB, the smallest that tables map. -/
def vaPieces (va n : Nat) : List (Nat × Nat) := piecesOf 4096 va n

/-- The buffer that holds a virtual address of a function. -/
def State.bufAt (s : State) (func va : Nat) : Option Buffer :=
  (s.bufs.vals).find? (fun b => b.func == func && b.va ≤ va && va < b.va + b.size)

/-! ## Range entries (R136, R137) -/

/-- A valid range entry of an abutment for a tenant's address. -/
def State.rangeHit (s : State) (abut func va : Nat) : Option RangeEntry :=
  ((List.range 32).filterMap (fun i => s.ranges.find (abut * 32 + i))).find? (fun e =>
    e.owner == func && e.vbase ≤ va / 4096 && va / 4096 < e.vbase + e.pages)

/-- A walk's range installed in the dynamic entry installed longest ago (R137). -/
def State.installRange (s : State) (abut : Nat) (e : RangeEntry) : State :=
  let free := (List.range 8).map (· + 24)
  let age : Nat → Nat := fun i => match s.ranges.find (abut * 32 + i) with | some x => x.age + 1 | none => 0
  let i := free.foldl (fun b i => if age i < age b then i else b) 24
  { s with ranges := s.ranges.set (abut * 32 + i) e }

/-! ## Where a byte lies (R143, R144) -/

/-- The stack of a device address, the die of its home slice, and the key of its L2 set. -/
def stackOf (pa : Nat) : Nat := pa / 2 ^ 36
def homeDie (pa : Nat) : Nat := dieOfStack (stackOf pa)
def sliceKey (pa : Nat) : Nat := homeDie pa * 512 + pa / 256 % 512
def setKey (pa : Nat) : Nat := sliceKey pa * 32 + pa / 256 / 512 % 32

/-- The row of a device address, its bank, and its subarray group (R143, R156). -/
def rowOf (pa : Nat) : Nat := pa / 1024
def bankOf (pa : Nat) : Nat := pa / 2 ^ 36 * 2 ^ 10 + pa / 2 ^ 10 % 2 ^ 10
def subarrayOf (pa : Nat) : Nat := bankOf pa * 8 + pa / 2 ^ 20 % 8

/-- The hold of the row of an address, when the hold has taken effect at the address's line (R159). -/
def State.heldAt (s : State) (pa : Nat) : Option RowHold :=
  s.rows.find? (fun h => h.pa == rowOf pa * 1024 && h.st != .saved && h.lines.contains (pa / 256))

/-- The sectors of a line that a range touches, and those it covers, as masks. -/
def sectorMask (pa n : Nat) : Nat :=
  (List.range 4).foldl (fun m i =>
    let lo := pa / 256 * 256 + 64 * i
    if pa < lo + 64 ∧ lo < pa + n then m + 2 ^ i else m) 0

/-- The sectors of a line that a range covers wholly. -/
def wholeMask (pa n : Nat) : Nat :=
  (List.range 4).foldl (fun m i =>
    let lo := pa / 256 * 256 + 64 * i
    if pa ≤ lo ∧ lo + 64 ≤ pa + n then m + 2 ^ i else m) 0

/-- A mask's bits that lie in another. -/
def maskAnd (a b : Nat) : Nat := a &&& b
def maskOr (a b : Nat) : Nat := a ||| b
def maskMinus (a b : Nat) : Nat := a - (a &&& b)

/-- Bits set in a mask of n bits. -/
def popMask (n m : Nat) : Nat := ((List.range n).filter (fun i => m.testBit i)).length

/-! ## Suspensions (R161) -/

/-- How long a suspension lasts at most: 438 cycles, and one while a region hurries its save (R88, R161; DEDUCED, log 68). -/
def State.suspendMost (s : State) : Nat := if s.regions.any (fun p => p.2.hurried s.cycle) then 1 else 438

/-- A held row suspended: it is held again within 438 cycles. -/
def State.suspendRow (s : State) (row : Nat) : State :=
  let (n, t) := s.latMost s.suspendMost
  { t with
    rows := t.rows.map (fun h => if h.pa = row * 1024 ∧ h.st = .held then { h with st := .suspended } else h)
    timers := t.timers ++ [(s.cycle + n, 0, .ev (.holdResume row) Focus.none)] }

/-- An access to a DRAM row suspends the other held rows of its subarray group, whose row buffer it takes. -/
def State.suspendFor (s : State) (pa : Nat) : State :=
  (s.rows.filter (fun h => h.st == RowSt.held && h.pa != rowOf pa * 1024 && subarrayOf h.pa == subarrayOf pa)).foldl
    (fun t h => t.suspendRow (rowOf h.pa)) s

/-- The hold-table entry of a row. -/
def State.rowHold (s : State) (pa : Nat) : Option RowHold := s.rows.find? (fun h => h.pa == rowOf pa * 1024)

/-- Whether an address lies in a suspended row: accesses wait. -/
def State.rowBusy (s : State) (pa : Nat) : Bool :=
  match s.rowHold pa with
  | some h => h.st == .suspended && h.lines.contains (pa / 256)
  | none => false

/-- Whether a virtual range meets a suspended row. -/
def State.vaBusy (s : State) (func va n : Nat) : Bool :=
  s.rows.any (fun h => h.st == .suspended) && (piecesOf 256 va n).any (fun p => (s.paOf func p.1).any s.rowBusy)

/-! ## The L2 -/

/-- The sectors of a mask of a line written to DRAM in stored form. -/
def State.cleanSectors (s : State) (ln mask : Nat) : State :=
  if mask = 0 then s
  else
    let t := s.suspendFor (ln * 256)
    (List.range 4).foldl (fun t i =>
      if mask.testBit i then { t with dram := t.dram.writeN (ln * 256 + 64 * i) (t.coh.readN (ln * 256 + 64 * i) 64) } else t) t

/-- A line event counted for the owner of a line: key 1000000 + event × 64 + owner, folded with the region in focus
(R260, R261). -/
def State.countLine (s : State) (ev owner : Nat) : State :=
  s.modR (fun r => { r with counts := r.counts.set (1000000 + ev * 64 + owner) (r.counts.get 0 (1000000 + ev * 64 + owner) + 1) })

/-- The counts of a slice for a tenant (R150): key slice × 64 + tenant. -/
def State.countSlice (s : State) (pa func : Nat) (f : SliceCount → SliceCount) : State :=
  let k := sliceKey pa * 64 + func
  { s with slices := s.slices.set k (f (s.slices.get { ovf := 0, hit := 0, miss := 0 } k)) }

/-- The lines of a slice that a tenant owns, and the pinned ones among them (R150): the slice by its key. -/
def State.occOf (s : State) (slice func : Nat) : Nat :=
  ((List.range 32).flatMap (fun i => (s.l2.get [] (slice * 32 + i)).filter (fun l => l.owner == func))).length
def State.pinsOf (s : State) (slice func : Nat) : Nat :=
  ((List.range 32).flatMap (fun i => (s.l2.get [] (slice * 32 + i)).filter (fun l => l.owner == func && l.pin))).length

/-- An access counted as a hit or a miss, in the slice and for the page it was issued from (R150, R260). -/
def State.countAccess (s : State) (pa func page : Nat) (hit : Bool) : State :=
  (s.countSlice pa func (fun c => if hit then { c with hit := (c.hit + 1) % 2 ^ 48 } else { c with miss := (c.miss + 1) % 2 ^ 48 })).modR
    (fun r => r.count (if hit then 0x10 else 0x11) page 1)

/-- Whether a tenant's retention registers hold an address (R146). -/
def Tenant.retains (t : Tenant) (va : Nat) : Bool :=
  t.retain.any (fun p => decide (p.2.vbase ≤ va) && decide (va < p.2.vbase + 256 * p.2.lines))

/-- A refused pin counted (R147, R437): for the line's owner, or for the tenant whose access allocated nothing. -/
def State.refusePin (s : State) (pa owner : Nat) : State :=
  (s.countSlice pa owner (fun c => { c with ovf := Nat.min (2 ^ 32 - 1) (c.ovf + 1) })).countLine 0x14 owner

/-- A pin of the tenant's line `ln` of a set, unless R147 refuses it. -/
def State.pinLine (s : State) (pa func ways : Nat) : State :=
  let set := s.l2.get [] (setKey pa)
  let ln := pa / 256
  match set.find? (fun l => l.ln == ln) with
  | none => s
  | some l =>
    if l.pin then s
    else
      let pinned := (set.filter (fun l => l.pin)).length
      let mine := (set.filter (fun l => l.pin && l.owner == func)).length
      if 16 < pinned + 1 + 2 ∨ mine ≥ popMask 16 ways then s.refusePin pa l.owner
      else { s with l2 := s.l2.set (setKey pa) (set.map (fun x => if x.ln == ln then { x with pin := true } else x)) }

/-- The way a fill takes: the lowest invalid way of the mask, else the least recent line, evict-first lines before any
other; ways that are gated or hold a pinned line are never taken (R31, R83, R149). -/
def fillWay (set : List Line) (ways : Nat) (gated : Nat → Bool) : Option (Nat × Option Line) :=
  let ok := fun w => ways.testBit w && !gated w && !(set.any (fun l => l.way == w && l.pin))
  match (List.range 16).find? (fun w => ok w && !(set.any (fun l => l.way == w))) with
  | some w => some (w, none)
  | none =>
    let cand := (set.filter (fun l => ok l.way)).reverse
    match cand.find? (fun l => l.ef) with
    | some l => some (l.way, some l)
    | none => cand.head?.map (fun l => (l.way, some l))

/-- Whether every way of a mask holds a pinned line. -/
def allPinned (set : List Line) (ways : Nat) : Bool :=
  (List.range 16).all (fun w => !(ways.testBit w) || set.any (fun l => l.way == w && l.pin))

/-- An access of a tenant to sectors of one line at its home slice (R83, R145 to R149). `whole` are the sectors that a
write covers, which need no fetch; `acc` is the access's own virtual address, which retention compares (R146). Hint 1 is evict-first, 2
is no-allocate. A write that allocates nothing is performed at DRAM (DEDUCED, log 30). -/
def State.l2Access (s : State) (func page acc pa mask whole : Nat) (write : Bool) (hint : Nat) : State :=
  match s.tenants.find func with
  | none => s
  | some t =>
    let key := setKey pa
    let set := s.l2.get [] key
    let ln := pa / 256
    let retain := t.retains acc
    let fetched := fun (valid : Nat) (u : State) => if maskMinus (maskMinus mask whole) valid = 0 then u else u.suspendFor pa
    match set.find? (fun l => l.ln == ln) with
    | some l =>
      let l' := { l with valid := maskOr l.valid mask, dirty := if write then maskOr l.dirty mask else l.dirty,
                         ef := l.ef || hint == 1 }
      let set' := if hint = 1 then set.map (fun x => if x.ln == ln then l' else x)
        else l' :: set.filter (fun x => x.ln != ln)
      let u := (fetched l.valid { s with l2 := s.l2.set key set' }).countAccess pa func page (maskMinus (maskMinus mask whole) l.valid == 0)
      if retain then u.pinLine pa func t.ways else u
    | none =>
      let u := (fetched 0 s).countAccess pa func page false
      if hint = 2 then (if write then u.cleanSectors ln mask else u)
      else match fillWay set t.ways (fun w => s.gatedWays.contains (homeDie pa, w)) with
        | none =>
          let u := if write then u.cleanSectors ln mask else u
          if retain && allPinned set t.ways then u.refusePin pa func else u
        | some (w, out) =>
          let u := match out with
            | some o => (u.cleanSectors o.ln o.dirty).countLine 0x13 o.owner
            | none => u
          let l : Line := { ln := ln, way := w, valid := mask, dirty := if write then mask else 0, owner := func,
                            pin := false, ef := hint == 1 }
          let rest := (u.l2.get [] key).filter (fun x => x.way != w)
          let u := ({ u with l2 := u.l2.set key (if hint = 1 ∨ t.cls = 1 then rest ++ [l] else l :: rest) }).countLine 0x12 func
          if retain then u.pinLine pa func t.ways else u

/-- A range of device bytes as lines: (pa, n) pieces that each stay in one line. -/
def linePieces (pa n : Nat) : List (Nat × Nat) := piecesOf 256 pa n

/-- An access served by a held row's buffer, which event 0x20 counts (R159, R439). -/
def State.rowAccess (s : State) (pa page : Nat) : State := (s.suspendFor pa).modR (fun r => r.count 0x20 page 1)

/-- Sectors of one line read at their serving point: the L2 state moves, or the row buffer serves a held line. -/
def State.touchLine (s : State) (func page acc pa mask hint : Nat) : State :=
  if (s.heldAt pa).isSome then s.rowAccess pa page else s.l2Access func page acc pa mask 0 false hint

/-- A read of device bytes, each line an access of its own. -/
def State.touchRead (s : State) (func page acc pa n hint : Nat) : State :=
  (linePieces pa n).foldl (fun t p => t.touchLine func page (acc + (p.1 - pa)) p.1 (sectorMask p.1 p.2) hint) s

/-- A store of bytes performed at its serving points: the coherent value changes; a held line's store lands in the row
(R159, R165). A sector that it covers wholly loses its poison (R253). The lines of a plain range are accessed at addresses of their own,
those of a compressed block (`block`) all at the access's address (R146). -/
def State.storePa (s : State) (func page acc pa : Nat) (bytes : List Byte) (hint : Nat) (block : Bool) : State :=
  (linePieces pa bytes.length).foldl (fun t p =>
    let b := sliceBytes bytes (p.1 - pa) p.2
    let t := { t with coh := t.coh.writeN p.1 b, poison := t.poison.filter (fun q =>
      !(decide (p.1 ≤ q * 64) && decide (q * 64 + 64 ≤ p.1 + p.2))) }
    if (t.heldAt p.1).isSome then ({ t with dram := t.dram.writeN p.1 b }).rowAccess p.1 page
    else t.l2Access func page (if block then acc else acc + (p.1 - pa)) p.1 (sectorMask p.1 p.2) (wholeMask p.1 p.2) true hint) s

/-! ## The watch table (R217) -/

/-- A version advanced: past 0xFFFFFFFF it becomes 1 and every folio of the layer loses VALID. -/
def State.advanceVersion (s : State) (func layer : Nat) : State :=
  let wrap := fun v : Word => v == 0xFFFFFFFF#32
  let wrapped := ((s.tenants.find func).map (fun t => t.folios.any (fun q => q.layer == layer && wrap q.version))).getD false
  let t := s.modTenant func (fun t => { t with folios := t.folios.map (fun q =>
    if q.layer = layer then
      if wrap q.version then { q with version := 1#32, ctl := { q.ctl with valid := false } }
      else { q with version := q.version + 1#32 }
    else q) })
  if !wrapped then t
  else
    let kill : Region → Region := fun g =>
      let k := fun f : Fabric => { f with folios := f.folios.map (fun x =>
        if (((g.sig (x.1 / 4)).decl.folios[x.1 % 4]?).map (·.layer)) = some layer then (x.1, { x.2 with valid := false }) else x) }
      if g.func = func then { g with now := k g.now, old := k g.old, ckpt := k g.ckpt } else g
    { t with regions := t.regions.map (fun p => (p.1, kill p.2)), items := t.items.map (fun i => { i with saved := i.saved.map kill }) }

/-- A store by a tenant over a virtual range: each watched range it touches advances by one (R217). -/
def State.watch (s : State) (func va n : Nat) : State :=
  match s.tenants.find func with
  | none => s
  | some t => (t.folios.filter (fun q => decide (va < q.va + q.ext) && decide (q.va < va + n))).foldl
      (fun u q => u.advanceVersion func q.layer) s

/-! ## The nested TLB (R140) -/

/-- Host pages of a set: 512 sets of 8 in each die, by the guest address in units of 2 MiB (DEDUCED, log 37). -/
def ntlbKey (die gpa : Nat) : Nat := die * 512 + gpa / 2 ^ 21 % 512

/-- A table entry read through the L2, which no retention register holds (R139). -/
def State.walkRead (s : State) (func pa : Nat) : State := s.touchLine func s.page (2 ^ 48) pa (sectorMask pa 8) 0

/-- The host-stage translation of a guest-physical address, through the nested TLB of a die: a miss is counted, the host tables are
read, and the result fills the TLB, the least recent entry leaving. Function 0 has no host stage. A translation that is not present is
not cached. -/
def State.hostFill (s : State) (die func gpa : Nat) : State :=
  match s.tenants.find func with
  | none => s
  | some t =>
    let key := ntlbKey die gpa
    let set := s.ntlb.get [] key
    let hit : NTlb → Bool := fun e => e.func == func && decide (e.gpa ≤ gpa) && decide (gpa < e.gpa + 2 ^ e.bits)
    if func = 0 then s
    else match set.find? hit with
      | some e => { s with ntlb := s.ntlb.set key (e :: set.filter (fun x => !(hit x))) }
      | none =>
        let r := hostStage s.coh func t gpa
        let u := (r.2.foldl (fun u pa => u.walkRead func pa) s).count 0x16
        match r.1 with
        | .ok f size w _ =>
          let e : NTlb := { func := func, gpa := alignDown gpa size, spa := f, bits := Nat.log2 size, w := w }
          { u with ntlb := u.ntlb.set key ((e :: set).take 8) }
        | _ => u

/-- What a nested walk leaves in the nested TLB of its die and in the L2: each guest entry it reads is preceded by a host walk, and so
is the final address (R139, R140). -/
def State.nestedFill (s : State) (die func va : Nat) : State :=
  match s.tenants.find func with
  | none => s
  | some t =>
    let r := guestStage s.coh func t va
    let u := r.2.foldl (fun (u : State) g =>
      let u := u.hostFill die func g
      match (hostStage s.coh func t g).1 with
      | .ok f size _ _ => u.walkRead func (f + g % size)
      | _ => u) s
    match r.1 with
    | .ok f size _ _ => u.hostFill die func (f + va % size)
    | _ => u

/-! ## Reading and storing virtual ranges -/

/-- The bytes at a virtual range as stored, with no effect on the L2. -/
def State.peekVa (s : State) (func va n : Nat) : List Byte :=
  (vaPieces va n).flatMap (fun p => match s.paOf func p.1 with
    | some pa => s.coh.readN pa p.2
    | none => List.replicate p.2 0#8)

/-- Block number and slot address of a data address in a compressible buffer (R151). -/
def blockOf (b : Buffer) (va : Nat) : Nat := (va - b.va) / 1024
def slotVa (b : Buffer) (k : Nat) : Nat := b.va + 1088 * k

/-- The blocks that a range of data addresses meets: number, offset in the block, and length. -/
def blockPieces (b : Buffer) (va n : Nat) : List (Nat × Nat × Nat) :=
  (piecesOf 1024 (va - b.va) n).map (fun p => (p.1 / 1024, p.1 % 1024, p.2))

/-- The 64 B sectors that some stored ranges meet. -/
def sectorsOf (l : List (Nat × Nat)) : List Nat :=
  (l.flatMap (fun p => if p.2 = 0 then [] else (List.range ((p.1 + p.2 - 1) / 64 + 1 - p.1 / 64)).map (· + p.1 / 64))).dedup

/-- The sectors that the first access to a block fetches for n data bytes from offset o: sector 0, and those that would hold the data in
raw mode (R154). -/
def firstSectors (o n : Nat) : List Nat := sectorsOf [(0, 32), (32 + o, n)]

/-- The further sectors that the mode of a block requires for n data bytes from offset o (R152, R154): the deltas; or the codes and the
sign-and-mantissa bits, and, where the data holds an escape, the codes before it and its byte (DEDUCED, log 69). -/
def modeSectors (slot : List Byte) (o n : Nat) : List Nat :=
  match leAt slot 0 1 % 16 with
  | 2 => sectorsOf [(32 + o / 4, (o + n - 1) / 4 + 1 - o / 4)]
  | 3 =>
    let w := smBits (leAt slot 0 1 / 32 % 2 == 1)
    let lo := o / 2
    let hi := (o + n - 1) / 2
    let codes := fun (a c : Nat) => (32 + a / 2, c / 2 + 1 - a / 2)
    let escs := fun (a c : Nat) => ((List.range (c - a)).filter (fun i => bitField slot (32 * 8 + 4 * (a + i)) 4 == 15)).length
    let here := escs lo (hi + 1)
    sectorsOf ([codes lo hi, (288 + w * lo / 8, (w * (hi + 1) - 1) / 8 + 1 - w * lo / 8)] ++
      (if here = 0 then [] else [codes 0 hi, (288 + 512 * w / 8 + escs 0 lo, here)]))
  | _ => []

/-- Sectors of a stored range read: one access for each line they lie in. -/
def State.touchSectors (s : State) (func page acc base : Nat) (secs : List Nat) (hint : Nat) : State :=
  let pas := secs.filterMap (fun i => s.paOf func (base + 64 * i))
  ((pas.map (· / 256)).dedup).foldl (fun t ln =>
    t.touchLine func page acc (ln * 256)
      ((pas.filter (fun pa => pa / 256 == ln)).foldl (fun m pa => maskOr m (sectorMask pa 64)) 0) hint) s

/-- The ends of a range as the tables see them: of each block of a compressible range, those of its slot (R151). -/
def State.storedEnds (s : State) (func va n : Nat) : List Nat :=
  match s.bufAt func va with
  | some b => if b.cmp = 0 then [va, va + n - 1] else (blockPieces b va n).flatMap (fun p => [slotVa b p.1, slotVa b p.1 + 1087])
  | none => [va]

/-- Whether a range has a byte whose home slice is on a die. -/
def State.homedOn (s : State) (func die va n : Nat) : Bool :=
  (s.storedEnds func va n).any (fun v => (s.paOf func v).any (fun pa => homeDie pa == die))

/-- What a read of a range leaves in the L2 (R151, R154): a plain range is read where it lies; of a block its first sectors, and then those
that its mode requires. -/
def State.touchVa (s : State) (func page va n hint : Nat) : State :=
  match s.bufAt func va with
  | none => s
  | some b =>
    if b.cmp = 0 then (vaPieces va n).foldl (fun t p => match t.paOf func p.1 with
      | some pa => t.touchRead func page p.1 pa p.2 hint
      | none => t) s
    else (blockPieces b va n).foldl (fun t p =>
      let acc := b.va + 1024 * p.1 + p.2.1
      let first := firstSectors p.2.1 p.2.2
      let more := (modeSectors (t.peekVa func (slotVa b p.1) 1088) p.2.1 p.2.2).filter (fun i => !(first.contains i))
      (t.touchSectors func page acc (slotVa b p.1) first hint).touchSectors func page acc (slotVa b p.1) more hint) s

/-- The bytes of a range, expanded where the range is compressible, and the state after the access (R151, R154). -/
def State.readVa (s : State) (func page va n hint : Nat) : List Byte × State :=
  match s.bufAt func va with
  | none => (List.replicate n 0#8, s)
  | some b =>
    let t := s.touchVa func page va n hint
    if b.cmp = 0 then (s.peekVa func va n, t)
    else
      let ps := blockPieces b va n
      (ps.flatMap (fun p => sliceBytes (expandBlock (s.peekVa func (slotVa b p.1) 1088)) p.2.1 p.2.2),
        ps.foldl (fun u _ => u.countLine 0x17 func) t)

/-- Bytes stored at a virtual range as it is stored, by pages of 4 KiB. -/
def State.storeVaPlain (s : State) (func page acc va : Nat) (bytes : List Byte) (hint : Nat) (block : Bool) : State :=
  (vaPieces va bytes.length).foldl (fun t p => match t.paOf func p.1 with
    | some pa => t.storePa func page (if block then acc else p.1) pa (sliceBytes bytes (p.1 - va) p.2) hint block
    | none => t) s

/-- Sectors of a stored range poisoned. -/
def State.poisonStored (s : State) (func base : Nat) (secs : List Nat) : State :=
  { s with poison := secs.foldl (fun l i => match s.paOf func (base + 64 * i) with
      | some pa => insertUniq (pa / 64) l
      | none => l) s.poison }

/-- The first poisoned sector among some of a stored range, by its virtual address. -/
def State.poisonedSector (s : State) (func base : Nat) (secs : List Nat) : Option Nat :=
  if s.poison = [] then none
  else (secs.find? (fun i => (s.paOf func (base + 64 * i)).any (fun pa => s.poison.contains (pa / 64)))).map (fun i => base + 64 * i)

/-- What a read of n data bytes from offset o of a block consumes: a header that is bad, or a poisoned sector (R151, R253). -/
def State.blockPoison (s : State) (func : Nat) (b : Buffer) (k o n : Nat) : Option Nat :=
  let slot := s.peekVa func (slotVa b k) 1088
  if badHeader slot then some (slotVa b k)
  else s.poisonedSector func (slotVa b k) (sectorsOf [(0, 32)] ++
    (if blockRaw slot then firstSectors o n else modeSectors slot o n))

/-- The address of the first poisoned sector, or of the bad block header, that the delivery of a virtual range consumes (R151, R253). -/
def State.poisonedAt (s : State) (func va n : Nat) : Option Nat :=
  match s.bufAt func va with
  | none => none
  | some b =>
    if b.cmp = 0 then s.poisonedSector func (alignDown va 64) (List.range ((va + n - 1) / 64 + 1 - va / 64))
    else (blockPieces b va n).findSome? (fun p => s.blockPoison func b p.1 p.2.1 p.2.2)

/-- Whether a virtual range holds poisoned data. -/
def State.poisonedVa (s : State) (func va n : Nat) : Bool := (s.poisonedAt func va n).isSome

/-- A consumed uncorrectable error of an access that an entry issued (R248, R253). -/
def State.consumed (s : State) (stamp : Nat) (sched : Bool) (va : Nat) : State :=
  s.raise { s.fltHere 0x70 0 va with stamp := stamp, sch := schOf sched stamp }

/-- Whose a store is: the page it comes from, the stamp and schedule of its entry, and the hint it carries (R149, R248). -/
structure StoreBy where
  page : Nat
  stamp : Nat
  sched : Bool
  hint : Nat
  deriving DecidableEq, Repr

/-- The sectors of a block's slot that n data bytes from offset o fill in raw mode. -/
def rawSectors (o n : Nat) : List Nat := sectorsOf [(32 + o, n)]

/-- A store into a compressible block (R153, R155): a whole block compresses unless it is hot; a partial write to a block that is not
raw expands it and sets HOT, for 4,096 cycles. `bad` are the offsets, in the bytes, of the poisoned sectors that they carry: compression
consumes them, and an expansion consumes the header and the sectors in use; what is then written in their place is poisoned (R253). -/
def State.storeBlock (s : State) (func : Nat) (q : StoreBy) (b : Buffer) (k off : Nat) (bytes : List Byte) (bad : List Nat) : State :=
  let va := slotVa b k
  let acc := b.va + 1024 * k + off
  let slot := s.peekVa func va 1088
  let hot := blockHot slot
  if bytes.length = 1024 then
    let new := if hot then rawBlock true bytes else compressBlock b.cmp bytes
    let t := s.storeVaPlain func q.page acc va new q.hint true
    if bad = [] then t
    else if hot then t.poisonStored func va (bad.flatMap (fun o => rawSectors o 64)).dedup
    else (t.consumed q.stamp q.sched (acc + bad.headD 0)).poisonStored func va (List.range (new.length / 64))
  else
    let data := expandBlock slot
    let new := data.take off ++ bytes ++ data.drop (off + bytes.length)
    let lost := if badHeader slot then some va
      else s.poisonedSector func va (if blockRaw slot then [0] else List.range (leAt slot 1 1))
    let t := if blockRaw slot then s.storeVaPlain func q.page acc (va + 32 + off) bytes q.hint true
      else (s.storeVaPlain func q.page acc va (rawBlock true new) q.hint true).countLine 0x18 func
    let t := match lost with
      | some a => (t.consumed q.stamp q.sched a).poisonStored func va (List.range 17)
      | none => t
    let t := t.poisonStored func va (bad.flatMap (fun o => rawSectors (off + o) 64)).dedup
    if blockRaw slot && !hot then t else { t with hot := t.hot.set ((s.paOf func va).getD 0) (t.cycle + 4096) }

/-- A store of bytes at a virtual range, with the poison it carries (R121, R151 to R155, R217, R253). -/
def State.storeVa (s : State) (func : Nat) (q : StoreBy) (va : Nat) (bytes : List Byte) (bad : List Nat) : State :=
  let s := s.watch func va bytes.length
  match s.bufAt func va with
  | none => s
  | some b =>
    if b.cmp = 0 then (s.storeVaPlain func q.page va va bytes q.hint false).poisonStored func va (bad.map (· / 64))
    else (blockPieces b va bytes.length).foldl (fun t p =>
      let at_ := b.va + 1024 * p.1 + p.2.1 - va
      t.storeBlock func q b p.1 p.2.1 (sliceBytes bytes at_ p.2.2)
        ((bad.filter (fun o => decide (at_ ≤ o) && decide (o < at_ + p.2.2))).map (· - at_))) s

/-! ## Cleaning and invalidating -/

/-- Lines of the L2 that a predicate picks: cleaned to DRAM, and removed when `inv` says so. -/
def State.flushLines (s : State) (pick : Line → Bool) (clean inv : Bool) : State :=
  s.l2.foldl (fun (t : State) (p : Nat × List Line) =>
    let hit := p.2.filter pick
    let t := hit.foldl (fun u l => if clean || inv then u.cleanSectors l.ln l.dirty else u) t
    { t with l2 := t.l2.set p.1 ((p.2.filter (fun l => !(pick l && inv))).map (fun l =>
        if pick l && clean then { l with dirty := 0 } else l)) }) s

/-- The lines that back a virtual range of a tenant, as line numbers of the stored form. -/
def State.linesOf (s : State) (func va len : Nat) : List Nat :=
  let (lo, n) := match s.bufAt func va with
    | some b => if b.cmp = 0 then (va, len) else (slotVa b (blockOf b va), (blockOf b (va + len - 1) + 1 - blockOf b va) * 1088)
    | none => (va, len)
  if len = 0 then [] else (linePieces lo n).filterMap (fun p => (s.paOf func p.1).map (· / 256))

/-- Cleaned and, with `inv`, invalidated lines of a tenant's range (R175); lines under a hold are not in the L2. -/
def State.cmoRange (s : State) (func va len : Nat) (clean inv : Bool) : State :=
  let lns := s.linesOf func va len
  s.flushLines (fun l => lns.contains l.ln) clean inv

/-- A region whose pending COLLAPSEs keep the lines that the cache of their die drops (R246). -/
def Region.keepLines (g : Region) (gone : List VLine) : Region :=
  let op : Nat → SoftOp → SoftOp := fun k o => match o.instr with
    | .collapse _ => { o with kept := o.kept ++ gone.filter (fun v => v.func == g.func && v.die == dieOfPage (g.sig (k / 1024)).page) }
    | _ => o
  let f : Fabric → Fabric := fun x => { x with elems := x.elems.map (fun (p : Nat × Elem) =>
    (p.1, { p.2 with softOps := p.2.softOps.map (op p.1) })) }
  { g with old := f g.old, now := f g.now, ckpt := f g.ckpt }

/-- A vocabulary-cache range dropped on every die (R175, R243); a COLLAPSE that is fetching completes from the old contents (R246). -/
def State.dropVocab (s : State) (func va len : Nat) : State :=
  let gone := s.vcache.filter (fun v => v.func == func && decide (va < v.va + 64) && decide (v.va < va + len))
  if gone = [] then s
  else { s with vcache := s.vcache.filter (fun v => !(gone.contains v)), regions := s.regions.map (fun p => (p.1, p.2.keepLines gone)) }

/-- The lines that back a retention register's range, buffer by buffer: each in its own form (R146, R148, R151). -/
def State.retainLines (s : State) (func va len : Nat) : List Nat :=
  (s.bufs.vals.filter (fun b => b.func == func)).flatMap (fun b =>
    let lo := Nat.max va b.va
    s.linesOf func lo (Nat.min (va + len) (b.va + b.size) - lo))

/-- Pin bits of a tenant's range cleared, and the register invalidated (R148). -/
def State.unpinReg (s : State) (func n : Nat) : State :=
  match (s.tenants.find func).bind (fun t => t.retain.find n) with
  | none => s
  | some r =>
    let lns := s.retainLines func r.vbase (256 * r.lines)
    let t := { s with l2 := s.l2.map (fun (p : Nat × List Line) => (p.1, p.2.map (fun l : Line =>
      if l.owner = func && lns.contains l.ln then { l with pin := false } else l))) }
    t.modTenant func (fun tn => { tn with retain := tn.retain.del n })

end Sys2Proof.Machine
end

