-- ==== Sys2Proof/Machine/Streams.lean ====
section
/-! DEFINITION. Stream loads and stores, endpoints, stream positions, gather and scatter, reserved-slot RMW, cache
maintenance, retention, hints, and the arrival of replies (R338 to R347, R355 to R361, R168 to R177). -/

namespace Sys2Proof.Machine

open Sys2Proof

/-! ## Issue (R137, R338 to R340) -/

/-- The declaration of stream `sn` of the element in focus. -/
def State.streamDecl (s : State) (sn : Nat) : Option StreamDecl :=
  s.sig.decl.streams.find? (fun d => d.x == s.focus.x && d.y == s.focus.y && d.sn == sn)

/-- Whether the stream targets an endpoint. -/
def State.isEndpoint (s : State) (sn : Nat) : Bool := ((s.streamDecl sn).map (·.endpoint)).getD false

/-- The host address of the endpoint that the stream targets, by the launch's copied bindings (R50, R51). -/
def State.endpointAddr (s : State) (sn : Nat) : Nat :=
  match s.streamDecl sn, s.launchOf s.rg.func s.rg.ltag with
  | some d, some l => ((l.binds.find? (fun b => b.1 == d.idx)).map (fun b => b.2.1)).getD 0
  | _, _ => 0

/-- The check of a stream access of `size` bytes, and its address (R340). -/
def State.streamAt (s : State) (sn size : Nat) : Chk × Nat :=
  let st := s.stream sn
  if st.pos < 0 ∨ st.pos + size > st.ext then
    (.fault (if s.isEndpoint sn then 0x44 else 0x40) (nN 64 (st.base + st.pos)).toNat, 0)
  else (.ok, alignDown (st.base + st.pos.toNat) size)

/-- POS after an access that does not keep it (R340). -/
def Stream.advance (st : Stream) (size : Nat) : Stream :=
  { st with pos := st.pos + (if st.stride ≠ 0 then st.stride else (size : Int)) }

/-- An access's advance of its stream, unless NA is set. -/
def State.advance (s : State) (sn size : Nat) (na : Bool) : State :=
  if na then s else s.modE (fun e => e.modStream sn (fun st => st.advance size))

/-- The addresses of a range that translation sees. -/
def State.transVas (s : State) (va n : Nat) : List Nat := s.storedEnds s.rg.func va n

/-- The abutment at which the routes of the page in focus end. -/
def State.abut (s : State) : Nat := Config.abutmentOf s.page

/-- The first address of a range that no range entry holds (R137). -/
def State.transMiss (s : State) (va n : Nat) : Option Nat :=
  (s.transVas va n).find? (fun v => (s.rangeHit s.abut s.rg.func v).isNone)

/-- The access's own address for an address v that its translation sees: in the block whose slot holds v (R151). -/
def State.accOf (s : State) (va v : Nat) : Nat :=
  match s.bufAt s.rg.func va with
  | some b => if b.cmp = 0 then v else Nat.max va (b.va + 1024 * ((v - b.va) / 1088))
  | none => va

/-- The check of a write of n bytes that hits a range entry (R136, R141). -/
def State.rangeChk (s : State) (va n : Nat) (write : Bool) : Chk :=
  if write && (s.transVas va n).any (fun v => (s.rangeHit s.abut s.rg.func v).any (fun e => !e.w)) then .fault 0x41 va else .ok

/-- What the tables say of an address v that no range entry holds, for an access at va: not present, which is resumable in a sparse buffer,
malformed, or not writable (R141). -/
def State.walkChk (s : State) (va v : Nat) (write : Bool) : Chk :=
  match (s.tenants.find s.rg.func).map (fun t => nestedWalk s.coh s.rg.func t v) with
  | some (.ok _ _ w _) => if write && !w then .fault 0x41 va else .ok
  | some .malformed => .fault 0x42 va
  | _ => if ((s.bufAt s.rg.func va).map (·.sparse)).getD false then .unbacked (s.accOf va v) else .fault 0x40 (s.accOf va v)

/-- The check of a stream access of n bytes at issue: of the range entries it hits, and of what its walks will find (R141, R340, R438). -/
def State.issueChk (s : State) (va n : Nat) (write : Bool) : Chk :=
  ((s.transVas va n).filter (fun v => (s.rangeHit s.abut s.rg.func v).isNone)).foldl (fun (a : Chk) v => a.and (s.walkChk va v write))
    (s.rangeChk va n write)

/-- The walks of an access that faults at issue: each is complete in its step (R137, R141, R438; DEDUCED, log 21). -/
def State.faultWalks (s : State) (va n : Nat) : State :=
  ((s.transVas va n).filter (fun v => (s.rangeHit s.abut s.rg.func v).isNone)).dedup.foldl (fun t v =>
    (t.count 0x15).nestedFill (dieOfPage t.page) t.rg.func v) s

/-- The walks behind a fault raised at issue by an entry of signature sg: of an address in a buffer whose translation it could not use. -/
def State.walksOf (s : State) (sg : Nat) (f : Flt) : State :=
  let t := { s with focus := { s.focus with sg := sg } }
  let missed := (t.transVas f.addr 1).any (fun v => (t.rangeHit t.abut t.rg.func v).isNone && t.walkChk f.addr v (f.code == 0x41) != .ok)
  if [0x40, 0x41, 0x42].contains f.code && (t.bufAt t.rg.func f.addr).isSome && missed then { t.faultWalks f.addr 1 with focus := s.focus } else s

/-- A walk asked for, of an address as the tables see it, for an access at `acc`; each abutment runs two at once (R137). -/
def State.beginWalk (s : State) (id va acc : Nat) (write eng : Bool) : State :=
  let running := decide ((s.walks.filter (fun w => w.abut == s.abut && w.running)).length < 2)
  let (n, t) := s.lat
  let w : Walk := { id := id, r := s.focus.r, abut := s.abut, func := s.rg.func, va := va, acc := acc, write := write, eng := eng,
                    running := running, due := s.cycle + n, sg := s.focus.sg, x := s.focus.x, y := s.focus.y, stamp := s.focus.stamp,
                    sched := s.focus.sched }
  let t := { t with walks := t.walks ++ [w] }
  if running then t.count 0x15 else t

/-! ## Order (R168, R171 to R174) -/

/-- The streams of an ME that an acquire read holds: s0 to s7, the log stream and the row stream. -/
def accessStreams : Nat := 0x3FF

/-- What an item of a round's commit is: a store, row store, host write, RMW or CMO is performed in its epoch, and so is a change of a
retention register, which has its place among them (R360); the rest takes effect when those are done (R171). -/
def Act.memory : Act → Bool
  | .store _ _ _ _ => true
  | .row _ _ => true
  | .host _ _ => true
  | .port _ _ => true
  | .rmw _ _ _ _ _ _ _ _ => true
  | .cmo _ _ _ _ => true
  | .through _ => true
  | .retn _ _ _ => true
  | .unpin _ => true
  | _ => false

/-- The device bytes that an item of the commit touches, as a virtual range. -/
def Act.range : Act → Option (Nat × Nat)
  | .store va b _ _ => some (va, b.length)
  | .row va b => some (va, b.length)
  | .rmw va _ _ _ _ _ _ _ => some (va, 4)
  | _ => none

/-- The bytes that an item touches, with those of a CMO: what it must find clear of an RMW's cycle (R177). -/
def Act.reach : Act → Option (Nat × Nat)
  | .cmo va len _ _ => some (va, len)
  | a => a.range

/-- Whether a store has a byte whose home slice is on a die, or a CMO a line (R172). -/
def State.actOnDie (s : State) (func die : Nat) (a : Act) : Bool :=
  match a with
  | .through _ => true
  | .cmo va len _ _ => (s.linesOf func va len).any (fun ln => homeDie (ln * 256) == die)
  | a => a.range.any (fun q => s.homedOn func die q.1 q.2)

/-- The number of an RMW that an item performs. -/
def Act.rmwId : Act → Option Nat
  | .rmw _ _ _ _ _ _ rid _ => some rid
  | _ => none

/-- Whether a region's read of an id is still outstanding: an RMW's from its issue on (R174; DEDUCED, log 99). -/
def Region.pendingRead (g : Region) (id : Nat) : Bool :=
  g.now.elems.any (fun p => p.2.reads.any (fun r => r.id == id)) || (g.now.staged ++ g.commit).any (fun i => i.act.rmwId == some id)

/-- Whether committing stores that a wait names are still to be performed (R171, R172). -/
def State.waitsFor (s : State) (g : Region) (w : Wait) : Bool :=
  g.commit.any (fun i => i.act.memory && elemKey i.sg i.x i.y == w.key && w.mask.testBit i.sn && decide (i.seq < w.upto) &&
    (!w.die || s.actOnDie g.func (dieOfPage (g.sig i.sg).page) i.act))

/-- What an access of stream sn issued now waits for: reads, and committing stores of the streams that orders name. -/
def Elem.waitsOf (e : Elem) (sn rnd : Nat) : List Nat × List Wait :=
  let os := e.order.filter (fun o => o.held.testBit sn)
  (os.flatMap (·.ids), (os.filter (fun o => rnd ≤ o.rnd + 1)).flatMap (·.named))

/-- Whether the accesses of stream sn of an element are withheld now. -/
def State.withheld (s : State) (g : Region) (e : Elem) (sn : Nat) : Bool :=
  let w := e.waitsOf sn g.rnd
  w.1.any g.pendingRead || w.2.any (s.waitsFor g)

/-- The queue of an endpoint read stream discarded, and fetching from POS; words given to a write stream keep their places (DEDUCED,
log 80). -/
def Stream.refetch (st : Stream) (cycle : Nat) : Stream :=
  { st with beats := [], fetch := st.pos - st.pos % 64, due := cycle + 1 }

/-- An order in force from now on: held endpoint read streams fetch their beats again under it; orders that hold nothing back any more
go. -/
def Elem.addOrder (e : Elem) (o : Order) (cycle : Nat) : Elem :=
  { e with
    order := e.order.filter (fun q => q.ids.any (fun i => e.reads.any (fun r => r.id == i)) || decide (o.rnd ≤ q.rnd + 1)) ++ [o]
    streams := e.streams.map (fun (p : Nat × Stream) => (p.1, if o.held.testBit p.1 && p.2.beats != [] then p.2.refetch cycle else p.2)) }

/-- The reads that one entry issues on stream sn; with an ACQ pending there they are its acquire read: every later access waits for them,
and at system scope each brings the ranges that are invalidated when the last is performed (R174). -/
def State.asAcquire (s : State) (sn : Nat) (issue : State → State) : State :=
  match s.nowE.acqNext.find sn with
  | none => issue s
  | some rs =>
    let t := issue s
    let ids := (t.nowE.reads.drop s.nowE.reads.length).map (·.id)
    t.modE (fun e => { e.addOrder { held := accessStreams, named := [], ids := ids, at_ := 0, rnd := s.rg.rnd } s.cycle with
      reads := e.reads.map (fun r => if ids.contains r.id then { r with acq := some rs } else r)
      acqNext := e.acqNext.del sn })

/-- A read issued on stream sn (R340, R343): it waits for its translation where no range entry holds it. -/
def State.issueRead (s : State) (sn va size dst : Nat) (fifo : Option Nat) (bt : Bool) (gath : Bool) (seq : Nat) : State :=
  let (id, t) := s.fresh
  let (n, t) := t.lat
  let miss := s.transMiss va size
  let w := s.nowE.waitsOf sn s.rg.rnd
  let r : Read := { id := id, sn := sn, seq := seq, va := va, size := size, hint := (s.stream sn).hint, dst := dst,
                    fifo := fifo, bt := bt, gath := gath, rmw := false, soft := none, acq := none, after := w.1, waits := w.2,
                    stage := if miss.isNone then 1 else 0, due := s.cycle + n, stamp := s.focus.stamp, sched := s.focus.sched,
                    bytes := [], bad := none }
  let t := t.modE (fun e => { e with reads := e.reads ++ [r] })
  (match miss with
  | none => t
  | some v => t.beginWalk id v (s.accOf va v) false false).count 0x07

/-! ## Commit epochs (R171 to R173) -/

/-- One more than the highest epoch of the stores of the streams of a mask, or of those homed on the element's die. -/
def Elem.epochAfter (e : Elem) (mask : Nat) (die : Bool) : Nat :=
  maxNat (((if die then e.usedDie else e.used).filter (fun p => mask.testBit p.1)).map Prod.snd)

/-- The streams of a mask take no epoch below m. -/
def Elem.holdEpoch (e : Elem) (mask m : Nat) : Elem :=
  { e with epoch := (List.range 12).foldl (fun (t : Tbl Nat) sn => if mask.testBit sn then t.set sn (Nat.max m (t.get 0 sn)) else t) e.epoch }

/-- A store of stream sn takes epoch ep. -/
def Elem.useEpoch (e : Elem) (sn ep : Nat) (home : Bool) : Elem :=
  { e with epoch := e.epoch.set sn ep, used := e.used.set sn (ep + 1), usedDie := if home then e.usedDie.set sn (ep + 1) else e.usedDie }

/-- An item placed in the commit buffer of the running round (R121), under an epoch. -/
def State.stageAt (s : State) (sn ep : Nat) (act : Act) : State :=
  s.modNow (fun f => { f with
    staged := f.staged ++ [{ sg := s.focus.sg, x := s.focus.x, y := s.focus.y, sn := sn, epoch := ep, seq := f.nextSeq,
                             stamp := s.focus.stamp, sched := s.focus.sched, act := act }]
    nextSeq := f.nextSeq + 1 })

/-- An item placed in the commit buffer: what is performed takes an epoch of its stream, and no ordering asks that this be the lowest it
may take (DESIGN CHOICE, log 22). -/
def State.stage (s : State) (sn : Nat) (act : Act) : State :=
  if act.memory then
    let (n, t) := s.lat
    let ep := s.nowE.epoch.get 0 sn + (n - 1)
    (t.stageAt sn ep act).modE (fun e => e.useEpoch sn ep (s.actOnDie s.rg.func (dieOfPage s.page) act))
  else s.stageAt sn 0 act

/-- An EVENT staged, with the period of its span (R413). -/
def State.stageEvent (s : State) (src : Nat) (v : Word) (stamp : Nat) : State := s.stageAt 10 s.oldSpan.periods (.event src v stamp)

/-- An item that has its place in the order of all the element's stores: in the epoch of the latest of them, and later ones take none below
(R360). -/
def State.stagePlaced (s : State) (act : Act) : State :=
  let ep := Nat.max (s.nowE.epochAfter 0x7FF false - 1) (s.nowE.epoch.get 0 10)
  (s.stageAt 10 ep act).modE (fun e => (e.holdEpoch 0x7FF ep).useEpoch 10 ep false)

/-- The stores that one entry issues on stream sn; with a REL pending there they are its release store, in commit epochs of their own: after
all earlier ones of the element, its engine writes among them, and before all later ones (R173). -/
def State.asRelease (s : State) (sn : Nat) (issue : State → State) : State :=
  if s.nowE.relNext.contains sn then
    let t := issue (s.modE (fun e => e.holdEpoch (2 ^ sn) (e.epochAfter 0xFFF false)))
    t.modE (fun e => { e.holdEpoch 0xFFF (e.epochAfter (2 ^ sn) false) with relNext := e.relNext.filter (· != sn) })
  else issue s

/-- Bytes of a compressible range, charged to the compression engine that they pass (R71). -/
def State.cmpBytes (s : State) (va n : Nat) : State :=
  if ((s.bufAt s.rg.func va).map (·.cmp)).getD 0 = 0 then s else s.modR (fun g => { g with roundBytes := g.roundBytes + n })

/-! ## Streams that feed link-port adders (R19, R20, R285; DEDUCED, log 40) -/

/-- The key of an adder in a fabric. -/
def adderKey (sg : Nat) (a : AdderDecl) : Nat := sg * 128 + a.port * 4 + a.adder

/-- The adders of a signature whose local stream is stream sn of the element in focus. -/
def State.localAdders (s : State) (sn : Nat) : List AdderDecl :=
  s.sig.decl.adders.filter (fun a => a.lx == s.focus.x && a.ly == s.focus.y && a.lsn == sn)

/-- The `send`s of stream sn of the element in focus. -/
def State.sendsOf (s : State) (sn : Nat) : List SendDecl :=
  s.sig.decl.sends.filter (fun q => q.x == s.focus.x && q.y == s.focus.y && q.sn == sn)

/-- The adder that takes chain id c at an edge: of a signature of the region on the far die of the edge (R19, R285). -/
def State.farAdder (s : State) (port chain : Nat) : Option (Nat × AdderDecl) :=
  ((List.range s.rg.sigs.length).findSome? (fun sg =>
    let die := dieOfPage (s.rg.sig sg).page
    if die = dieOfPage s.page ∨ !((portDies port).contains die && (portDies port).contains (dieOfPage s.page)) then none
    else ((s.rg.sig sg).decl.adders.find? (fun a => a.port == port && a.chain == chain)).map (fun a => (sg, a))))

/-- Elements given to an adder, up to its length, as local ones or as arriving ones; while its edge retrains they wait before the
edge (R15). -/
def Adder.push (a : Adder) (len : Nat) (loc up : Bool) (ws : List Word) : Adder :=
  let l := ws.take (len - a.i - a.arriving.length - a.crossing.length)
  if loc then { a with loc := a.loc ++ ws.take (len - a.i - a.loc.length) }
  else if up then { a with arriving := a.arriving ++ l }
  else { a with crossing := a.crossing ++ l }

/-- Elements given to adder a of signature sg. -/
def State.feed (s : State) (sg : Nat) (a : AdderDecl) (loc : Bool) (ws : List Word) : State :=
  let up := decide ((s.port a.port).st = .active)
  s.modNow (fun f => { f with adders := f.adders.set (adderKey sg a) ((f.adders.get Adder.zero (adderKey sg a)).push a.len loc up ws) })

/-- Elements that an adder across an edge has not added yet. -/
def Adder.before (a : Adder) : Nat := a.arriving.length + a.crossing.length

/-- The payload of an element that leaves the package: its chain id and the element. -/
def chainPayload (chain : Nat) (w : Word) : List Byte := leBytes 4 chain ++ leBytes 4 w.toNat

/-- Elements sent out through a port under a chain id: to the adder of the far die, or, out of the package, at the commit. -/
def State.sendChain (s : State) (sn port chain : Nat) (ws : List Word) : State :=
  if port < 10 then
    match s.farAdder port chain with
    | some (sg, a) => s.feed sg a false ws
    | none => s
  else ws.foldl (fun t w => t.stage sn (.port port (chainPayload chain w))) s

/-- A store to a stream that feeds adders freezes while one of them still holds elements of that side (R20). The two back-pressure sentences
of R20 are read crosswise: while an arriving element is absent the adder holds the local ones, and the local stream's producer freezes; while
a local one is absent it holds the arriving ones, and the link is held back. Freezing the producer of what is absent would end in a standstill
(DEDUCED, log 92). -/
def State.feedChk (s : State) (sn : Nat) : Chk :=
  let at_ := fun (sg : Nat) (a : AdderDecl) => s.rg.old.adders.get Adder.zero (adderKey sg a)
  let near := (s.localAdders sn).any (fun a => (at_ s.focus.sg a).loc != [])
  let far := (s.sendsOf sn).any (fun q => match s.farAdder q.port q.chain with
    | some (sg, a) => q.port < 10 && (at_ sg a).before != 0
    | none => false)
  if near || far then .stall else .ok

/-- The elements of a store given to the adders that its stream feeds. -/
def State.feedAll (s : State) (sn : Nat) (bytes : List Byte) : State :=
  let ws := (List.range (bytes.length / 4)).map (fun i => BitVec.ofNat 32 (leAt bytes (4 * i) 4))
  let t := (s.localAdders sn).foldl (fun t a => t.feed s.focus.sg a true ws) s
  (s.sendsOf sn).foldl (fun t q => t.sendChain sn q.port q.chain ws) t

/-- A store of a stream, staged, and given to the adders that it feeds. -/
def State.putStore (s : State) (sn va : Nat) (bytes : List Byte) : State :=
  (s.stage sn (.store va bytes (s.stream sn).hint [])).feedAll sn bytes

/-- A store that needs translation and hits no range entry starts a walk at issue; the commit waits for it
(DEDUCED, log 21). -/
def State.walkStore (s : State) (va n : Nat) : State :=
  ((s.transVas va n).filter (fun v => (s.rangeHit s.abut s.rg.func v).isNone)).dedup.foldl (fun t v =>
    let (id, t) := t.fresh
    t.beginWalk id v (s.accOf va v) true false) s

/-! ## LDS and STS (R342 to R344) -/

/-- The size of a block access by MODE[1:0] (R342). -/
def blockSize (mode : BitVec 4) : Nat := match bitsOf mode 1 0 with | 0 => 4 | 1 => 64 | 2 => 256 | _ => 1024

/-- Where LDS lands: its check, the absolute offset, and the FIFO group (R343). A line-buffer target faults. -/
def State.ldsTarget (s : State) (off j size : Nat) : Chk × Nat × Option Nat :=
  match s.decl.groups.find? (fun g => g.mode == .fifo && g.base ≤ off && off < g.base + g.bytes) with
  | some g => (if j ≠ 0 then .fault 0x43 off else s.fifoRoom g.i (size / 4), 0, some g.i)
  | none => let w := s.localWrite off j size; (w.1, w.2.1, none)

/-- The local offset of LDS and STS, aligned down to the size. -/
def State.blockOff (s : State) (f : FM) : Nat :=
  alignDown (bitsOf f.off 17 0 + (s.src f.d.toNat).toNat) (blockSize f.mode)

/-- LDS (R343): issues one read. -/
def execLds (f : FM) (s : State) : Host.Outcome State Fault Refusal :=
  let size := blockSize f.mode
  let sn := f.strm.toNat
  let p := s.streamAt sn size
  let d := s.ldsTarget (s.blockOff f) (bitsOf f.mode 3 2) size
  go (s.entry [f.d.toNat] [] (d.1.and (p.1.and (s.issueChk p.2 size false))) (fun t =>
    let t := match d.2.2 with
      | some g => t.modE (fun e => e.modGrp g (fun k => { k with promised := k.promised + size / 4 }))
      | none => t
    ((t.asAcquire sn (fun t => t.issueRead sn p.2 size d.2.1 d.2.2 (bitAt f.off 18) false 0)).cmpBytes p.2 size).advance sn size (bitAt f.off 19)))

/-- STS (R344): reads its bytes as LDL does, and stores them at commit. -/
def execSts (f : FM) (s : State) : Host.Outcome State Fault Refusal :=
  let size := blockSize f.mode
  let sn := f.strm.toNat
  let p := s.streamAt sn size
  let r := s.localRead (s.blockOff f) (bitsOf f.mode 3 2) size
  go (s.entry [f.d.toNat] [] (r.1.and ((s.poisonChk r.2 size).and ((p.1.and (s.issueChk p.2 size true)).and (s.feedChk sn)))) (fun t =>
    ((((t.walkStore p.2 size).asRelease sn (fun t => t.putStore sn p.2 (s.sramOld r.2 size))).cmpBytes p.2 size).advance sn size
      (bitAt f.off 19)).modE
      (fun e => e.markRead r.2 size)))

/-! ## Endpoints (R345, R346) -/

/-- HEPR (R345): the word at POS. -/
def execHepr (f : FM) (s : State) : Host.Outcome State Fault Refusal :=
  let sn := f.strm.toNat
  let p := s.streamAt sn 4
  let st := s.stream sn
  let beat := alignDown p.2 64
  let b := st.beats.find? (fun q => q.1 == beat)
  let full : Chk := if b.isSome then .ok else .stall
  go (s.entry [] [f.d.toNat] (match p.1 with | .ok => full | c => c) (fun t =>
    let t := t.put f.d.toNat (BitVec.ofNat 32 (leAt ((b.map Prod.snd).getD []) (p.2 % 64) 4))
    if bitAt f.mode 0 then t
    else t.modE (fun e => e.modStream sn (fun k => { k with
      pos := k.pos + 4
      beats := if (p.2 + 4) % 64 = 0 then k.beats.filter (fun q => q.1 != beat) else k.beats }))))

/-- Adjacent pieces of a beat joined. -/
def joinPieces : List (Nat × List Byte) → List (Nat × List Byte)
  | [] => []
  | (a, l) :: t => match joinPieces t with
    | (b, m) :: u => if a + l.length = b then (a, l ++ m) :: u else (a, l) :: (b, m) :: u
    | [] => [(a, l)]

/-- The bytes already placed in the running half of the page's abutment (R121). -/
def State.halfBytes (s : State) : Nat :=
  (s.rg.now.staged.filter (fun i => i.sg == s.focus.sg)).foldl (fun n i => n + (match i.act with
    | .store _ b _ _ => b.length
    | .row _ b => b.length
    | .host _ b => b.length
    | .rmw _ _ _ _ _ _ _ _ => 4
    | _ => 0)) 0

/-- The words of an endpoint write stream that are not yet in a commit buffer are placed there (R346). They take their place and their epoch
then: words given before an SBAR or FENCE whose beat fills after it, or at the boundary, come with what follows it (DESIGN CHOICE, log 93). -/
def State.flushBeat (s : State) (sn : Nat) : State :=
  let ha := s.endpointAddr sn
  let st := s.nowE.streams.get Stream.none sn
  ((joinPieces st.part).foldl (fun t q => t.stage sn (.host (ha + q.1) q.2)) s).modE
    (fun e => e.modStream sn (fun k => { k with part := [] }))

/-- A word appended at an offset of an endpoint write stream's queue; full beats enter the commit buffer where its half has room (R346). -/
def State.appendHost (s : State) (sn off : Nat) (w : Word) : State :=
  let t := s.modE (fun e => e.modStream sn (fun k => { k with pos := k.pos + 4, part := k.part ++ [(off, leBytes 4 w.toNat)] }))
  if (off + 4) % 64 = 0 ∧ t.halfBytes + 4 * (t.nowE.streams.get Stream.none sn).part.length ≤ 128 * 1024 then t.flushBeat sn else t

/-- HEPW (R346): appends a word to the stream's queue of 64 beats (R110); a full queue freezes the step. -/
def execHepw (f : FM) (s : State) : Host.Outcome State Fault Refusal :=
  let sn := f.strm.toNat
  let p := s.streamAt sn 4
  let full : Chk := if (s.stream sn).part.length < 1024 then .ok else .stall
  go (s.entry [f.d.toNat] [] (match p.1 with | .ok => full | c => c) (fun t => t.appendHost sn p.2 (s.src f.d.toNat)))

/-- Whether a host range meets host memory that fails (R162). Which of it fails is an input of the environment (DESIGN CHOICE, log 78). -/
def State.hostFails (s : State) (ha n : Nat) : Bool := s.hostDead.any (fun d => decide (ha < d.1 + d.2) && decide (d.1 < ha + n))

/-- HEPR_BEAT_FETCH (R345): the next beat of the endpoint read stream in focus joins its queue, once what orders it is done (R171, R174); a
host read that fails ends the launch (R162). -/
def execHeprBeatFetch (s : State) : Host.Outcome State Fault Refusal :=
  let sn := s.focus.n
  let st := s.nowE.streams.get Stream.none sn
  if st.beats.length < 64 ∧ 0 ≤ st.fetch ∧ st.fetch + 64 ≤ st.ext ∧ !(s.withheld s.rg s.nowE sn) then
    if s.hostFails (s.endpointAddr sn + st.fetch.toNat) 64 then go (s.endLaunch s.rg.func s.rg.ltag 0x12) else
    let (n, t) := s.lat
    go (t.modE (fun e => e.modStream sn (fun k => { k with
      beats := k.beats ++ [(k.fetch.toNat, s.host.readN (s.endpointAddr sn + k.fetch.toNat) 64)]
      fetch := k.fetch + 64
      due := s.cycle + n })))
  else go s

/-! ## Positions (R347) -/

/-- SOPEN (R347). -/
def execSopen (f : FK) (s : State) : Host.Outcome State Fault Refusal :=
  let pos : Int := (s.src f.a.toNat).toNat * (if bitAt f.param 3 then 1024 else 1)
  let str : Int := sextN 16 (bitsOf f.param 20 5) * 4
  go (s.entry [f.a.toNat] [] .ok (fun t => t.modE (fun e => e.modStream (bitsOf f.param 2 0) (fun k =>
    { k with pos := pos, stride := if bitAt f.param 4 then k.stride else str }.refetch s.cycle))))

/-- SMARK (R347). -/
def execSmark (f : FM) (s : State) : Host.Outcome State Fault Refusal :=
  go (s.entry [] [] .ok (fun t => t.modE (fun e => e.modStream f.strm.toNat (fun k => { k with mark := k.pos }))))

/-- SREW (R347). -/
def execSrew (f : FM) (s : State) : Host.Outcome State Fault Refusal :=
  go (s.entry [] [] .ok (fun t => t.modE (fun e => e.modStream f.strm.toNat (fun k =>
    { k with pos := k.mark + f.off.toInt }.refetch s.cycle))))

/-- SCLOSE (R347). -/
def execSclose (f : FM) (s : State) : Host.Outcome State Fault Refusal :=
  let sn := f.strm.toNat
  let hint := ((s.streamDecl sn).map (·.hint)).getD 0
  go (s.entry [] [] .ok (fun t =>
    let t := t.flushBeat sn
    t.modE (fun e => e.modStream sn (fun k =>
      let k := { k with hint := hint, readAhead := [] }
      if s.isEndpoint sn && ((s.streamDecl sn).map (·.kind)) == some 1 && k.pos % 64 != 0 then
        { k with
          pos := k.pos - k.pos % 64 + 64
          fetch := max k.fetch (k.pos - k.pos % 64 + 64)
          beats := k.beats.filter (fun q => (q.1 : Int) != k.pos - k.pos % 64) }
      else k))))

/-! ## Gather and scatter (R355) -/

/-- The count of rows. -/
def gathCount (f : FM) : Nat := bitsOf f.off 20 12 + 1

/-- Engine commands in flight on the page in focus, with those that its step has issued: copies, gathers, and scatters, whose rows are all
placed in their step (R352; DEDUCED, log 54). -/
def State.pageCmds (s : State) : Nat :=
  (s.rg.now.elems.filter (fun p => p.1 / 1024 == s.focus.sg)).foldl (fun n p =>
    n + (p.2.copies.filter (fun c => !c.done)).length + ((p.2.reads.filter (·.gath)).map (·.seq)).dedup.length +
      (if p.2.scatAt = s.cycle + 1 then 1 else 0)) 0

/-- A command that would be the page's 1,025th freezes its step (R352). -/
def State.pageRoom (s : State) : Chk := if s.pageCmds < 1024 then .ok else .stall

/-- The indices of a gather or scatter as they stood: their check, offset, and values. -/
def State.indices (s : State) (f : FM) : Chk × Nat × List Nat :=
  let n := gathCount f
  let off := alignDown (s.src f.d.toNat).toNat 4
  let r := s.localRead off 0 (4 * n)
  (r.1.and (s.poisonChk r.2 (4 * n)), r.2, (List.range n).map (fun k => leNat (s.sramOld (r.2 + 4 * k) 4)))

/-- The memory rows of the indices: their check, and addresses (R355). -/
def State.rowAddrs (s : State) (sn size : Nat) (write : Bool) (ix : List Nat) : Chk × List Nat :=
  let st := s.stream sn
  ix.foldl (fun acc (i : Nat) =>
    let p : Int := st.pos + i * size
    if st.pos < 0 ∨ p + size > st.ext then (acc.1.and (.fault 0x40 (nN 64 (st.base + p)).toNat), acc.2 ++ [0])
    else
      let va := alignDown (st.base + p.toNat) size
      (acc.1.and (s.issueChk va size write), acc.2 ++ [va])) (.ok, [])

/-- The local offset of row k. -/
def rowOff (f : FM) (k : Nat) : Nat := bitsOf f.off 11 0 * 64 + k * blockSize f.mode

/-- Event 9: the KiB that a gather or scatter moves, counted at its issue (R259; DEDUCED, log 54). -/
def State.engineKib (s : State) (n : Nat) : State := s.modR (fun g => g.count 0x09 s.page ((n + 1023) / 1024))

/-- GATH (R355): one read per row. -/
def execGath (f : FM) (s : State) : Host.Outcome State Fault Refusal :=
  let size := blockSize f.mode
  let sn := f.strm.toNat
  let ix := s.indices f
  let mem := s.rowAddrs sn size false ix.2.2
  let dst := (List.range (gathCount f)).map (fun k => s.localWrite (alignDown (rowOff f k) size) (bitsOf f.mode 3 2) size)
  let chk := dst.foldl (fun (c : Chk) w => c.and w.1) (ix.1.and (mem.1.and s.pageRoom))
  go (s.entry [f.d.toNat] [] chk (fun t =>
    let (seq, t) := t.fresh
    ((t.asAcquire sn (fun t => (mem.2.zip dst).foldl (fun (t : State) p => t.issueRead sn p.1 size p.2.2.1 none false true seq) t)).engineKib
      (gathCount f * size)).modE (fun e => e.markRead ix.2.1 (4 * gathCount f))))

/-- SCAT (R355): one store per row, in ascending k. -/
def execScat (f : FM) (s : State) : Host.Outcome State Fault Refusal :=
  let size := blockSize f.mode
  let sn := f.strm.toNat
  let ix := s.indices f
  let mem := s.rowAddrs sn size true ix.2.2
  let src := (List.range (gathCount f)).map (fun k => s.localRead (alignDown (rowOff f k) size) (bitsOf f.mode 3 2) size)
  let chk := src.foldl (fun (c : Chk) w => c.and (w.1.and (s.poisonChk w.2 size))) (ix.1.and (mem.1.and (s.pageRoom.and (s.feedChk sn))))
  go (s.entry [f.d.toNat] [] chk (fun t =>
    (((t.asRelease sn (fun t => (mem.2.zip src).foldl (fun (t : State) p =>
      ((t.walkStore p.1 size).putStore sn p.1 (s.sramOld p.2.2 size)).modE (fun e => e.markRead p.2.2 size)) t)).engineKib
      (gathCount f * size)).modR (fun g => { g with roundBytes := g.roundBytes + gathCount f * size })).modE
        (fun e => { e.markRead ix.2.1 (4 * gathCount f) with scatAt := s.cycle + 1 })))

/-! ## Reserved-slot RMW (R356, R357) -/

/-- RMW (R357): captured in its step, performed at commit. -/
def execRmw (f : FM) (s : State) : Host.Outcome State Fault Refusal :=
  let sn := f.strm.toNat
  let p := s.streamAt sn 4
  let cas := f.mode = 7#4
  let ret := bitAt f.off 20
  let off := alignDown (bitsOf f.off 17 0) 4
  let r := s.localRead off 0 4
  let w := s.localWrite off 0 4
  let chk : Chk := (if cas then r.1.and (s.poisonChk r.2 4) else .ok).and (if ret then w.1 else .ok)
  go (s.entry [f.d.toNat] [] (chk.and (p.1.and (s.issueChk p.2 4 true))) (fun t =>
    let (rid, t) := t.fresh
    let acq := s.nowE.acqNext.find sn
    let act : Act := .rmw p.2 f.mode.toNat (s.src f.d.toNat) (if cas then BitVec.ofNat 32 (leNat (s.sramOld r.2 4)) else 0#32)
      (if ret then some w.2.1 else none) (s.stream sn).hint rid acq
    ((((t.walkStore p.2 4).asRelease sn (fun t => t.stage sn act)).cmpBytes p.2 4).advance sn 4 (bitAt f.off 19)).modE (fun e =>
      let e := if cas then e.markRead r.2 4 else e
      -- later stores are performed after an acquire read, which is performed in its epoch (R174)
      if acq.isSome then { (e.addOrder { held := accessStreams, named := [], ids := [rid], at_ := 0, rnd := s.rg.rnd } s.cycle).holdEpoch
          accessStreams (e.epochAfter (2 ^ sn) false) with acqNext := e.acqNext.del sn } else e)))

/-- The new value of an RMW (R356). -/
def rmwVal (op : Nat) (old a cmp : Word) : Word :=
  match op with
  | 0 => old + a
  | 1 => if old.toInt ≤ a.toInt then old else a
  | 2 => if old.toInt ≤ a.toInt then a else old
  | 3 => old &&& a
  | 4 => old ||| a
  | 5 => old ^^^ a
  | 6 => a
  | 7 => if old = cmp then a else old
  | 8 => if old.toNat ≤ a.toNat then old else a
  | _ => if old.toNat ≤ a.toNat then a else old

/-- An element changed in the running fabric, in what entries read, and in the checkpoint. -/
def Region.modAll (r : Region) (sg x y : Nat) (g : Elem → Elem) : Region :=
  { r with now := r.now.modElem sg x y g, old := r.old.modElem sg x y g, ckpt := r.ckpt.modElem sg x y g }

/-- The counts of the ended round and those of the running one exchanged: what a commit does is counted for the round
that it commits (R261, R443). -/
def Region.swapCounts (g : Region) : Region := { g with counts := g.staging, staging := g.counts }

/-- The ranges of an acquire at system scope invalidated, with their dirty data written back first (R174). -/
def State.acquireRanges (s : State) (l : List (Nat × Nat)) : State :=
  l.foldl (fun t q => t.cmoRange t.rg.func q.1 q.2 true true) s

/-- RMW_PERFORM (R177): the RMW at the head of the commit of the region in focus. -/
def execRmwPerform (s : State) : Host.Outcome State Fault Refusal :=
  match s.rg.commit with
  | [] => go s
  | i :: rest =>
    match i.act with
    | .rmw va op a cmp ret hint rid acq =>
      let s := { s with focus := { s.focus with sg := i.sg, x := i.x, y := i.y } }
      let func := s.rg.func
      let old := BitVec.ofNat 32 (leNat (s.readVa func s.page va 4 hint).1)
      let t := s.modR Region.swapCounts
      let t := match s.poisonedAt func va 4 with
        | some p => t.consumed i.stamp i.sched p
        | none => t
      let t := (t.storeVa func { page := s.page, stamp := i.stamp, sched := i.sched, hint := hint } va
        (leBytes 4 (rmwVal op old a cmp).toNat) []).modR Region.swapCounts
      let (n, t) := t.lat
      let done : Read → Read := fun r =>
        if r.id = rid then { r with stage := 2, due := s.cycle + n, bytes := if ret.isSome then leBytes 4 old.toNat else [] } else r
      let t := t.modR (fun g => { g.modAll i.sg i.x i.y (fun e => { e with reads := e.reads.map done }) with commit := rest })
      go (match acq with
        | some l => t.acquireRanges l
        | none => t)
    | _ => go s

/-! ## Cache maintenance, retention and hints (R359 to R361) -/

/-- The range of a CMO on stream sn of length a: widened to whole lines, and then clipped to EXT (R359). -/
def State.cmoSpan (s : State) (sn a : Nat) : Nat × Nat :=
  let st := s.stream sn
  let lo : Int := ((st.base : Int) + st.pos) / 256 * 256
  let hi : Int := ((st.base : Int) + st.pos + a + 255) / 256 * 256
  let b := Nat.max st.base lo.toNat
  (b, if a = 0 then 0 else Nat.min hi.toNat (st.base + st.ext) - b)

/-- CMO (R359): takes its place in the stream as a store. -/
def execCmo (f : FK) (s : State) : Host.Outcome State Fault Refusal :=
  let sn := bitsOf f.param 2 0
  let r := s.cmoSpan sn (s.src f.a.toNat).toNat
  go (s.entry [f.a.toNat] [] .ok (fun t => t.stage sn (.cmo r.1 r.2 (bitsOf f.param 4 3) (bitsOf f.param 5 5))))

/-- RETN (R360): takes effect at commit, in the stream order of its element. -/
def execRetn (f : FK) (s : State) : Host.Outcome State Fault Refusal :=
  let st := s.stream (bitsOf f.param 5 3)
  go (s.entry [f.a.toNat] [] .ok (fun t => t.stagePlaced
    (.retn (bitsOf f.param 2 0) (alignDown ((st.base : Int) + st.pos).toNat 256) (Nat.min (s.src f.a.toNat).toNat (2 ^ 24)))))

/-- UNPIN (R360): takes effect at commit, in the stream order of its element. -/
def execUnpin (f : FK) (s : State) : Host.Outcome State Fault Refusal :=
  go (s.entry [] [] .ok (fun t => t.stagePlaced (.unpin (bitsOf f.param 2 0))))

/-- HINT (R361). -/
def execHint (f : FM) (s : State) : Host.Outcome State Fault Refusal :=
  go (s.entry [] [] .ok (fun t => t.modE (fun e => e.modStream f.strm.toNat (fun k => { k with hint := bitsOf f.mode 1 0 }))))

/-- The translation that a walk has found of an address, installed in the abutment of the page in focus (R137). -/
def State.installWalk (s : State) (abut func va f size : Nat) (wr : Bool) (cmp : Nat) : State :=
  let base := alignDown va size
  s.installRange abut { owner := func, vbase := base / 4096, pages := size / 4096, sbase := f / 4096, w := wr, cmp := cmp, dyn := true
                        age := s.cycle }

/-- A walk that nothing waits for, of an address that no range entry holds: it is complete in its step (R137; DEDUCED, log 21). -/
def State.walkAt (s : State) (v : Nat) : State :=
  if (s.rangeHit s.abut s.rg.func v).isSome then s
  else
    let u := (s.count 0x15).nestedFill (dieOfPage s.page) s.rg.func v
    match (s.tenants.find s.rg.func).map (fun x => nestedWalk s.coh s.rg.func x v) with
    | some (.ok f size wr cmp) => u.installWalk u.abut u.rg.func v f size wr cmp
    | _ => u

/-- The walks of a prefetch; one that fails skips its line (R137, R361). -/
def State.prefWalk (s : State) (va n : Nat) : State := (s.transVas va n).foldl State.walkAt s

/-- PREF (R361): fills lines; delivers nothing and never faults. Of a compressible range it is the slots that are translated (R151). -/
def execPref (f : FM) (s : State) : Host.Outcome State Fault Refusal :=
  let sn := f.strm.toNat
  let st := s.stream sn
  let start : Int := ((st.base : Int) + st.pos) / 256 * 256
  let vas := ((List.range (bitsOf f.off 7 0 + 1)).map (fun (i : Nat) => start + 256 * i)).filter (fun v =>
    decide ((st.base : Int) < v + 256) && decide (v < st.base + st.ext))
  go (s.entry [] [] .ok (fun t =>
    if st.hint = 2 then t
    else (vas.foldl (fun (t : State) v =>
        let t := t.prefWalk v.toNat 256
        if (t.transVas v.toNat 256).all (fun a => (t.paOf t.rg.func a).isSome) then t.touchVa t.rg.func t.page v.toNat 256 st.hint
        else t) t).modE (fun e => e.modStream sn (fun k => { k with readAhead := k.readAhead ++ vas.map Int.toNat }))))

/-! ## Replies (R343, R357) -/

/-- The read in focus. -/
def State.readInFocus (s : State) : Option Read := s.nowE.reads.find? (fun r => r.id == s.focus.n)

/-- Whether the header of a burst is malformed: BLEN or NFMT reserved (R200). -/
def headerBad (h : Word) : Bool := decide (3 < bitsOf h 15 12) || bitsOf h 10 8 == 7

/-- Whether other rows of a read's gather are still to be performed. -/
def Elem.rowsLeft (e : Elem) (r : Read) : Bool := r.gath && e.reads.any (fun q => q.id != r.id && q.seq == r.seq && q.gath && decide (q.stage < 2))

/-- The reads of an element changed: of a read that an ended round has issued, in what a void restores too (R168). -/
def State.modReads (s : State) (ended : Bool) (f : Read → Read) : State :=
  let g : Elem → Elem := fun e => { e with reads := e.reads.map f }
  if ended then s.modR (fun r => r.modAll s.focus.sg s.focus.x s.focus.y g) else s.modE g

/-- A read served: its bytes are fixed at the serving point (R165), with the poison they carry (R253); a system acquire
then invalidates its ranges (R174). What a read of the ended round does counts for that round (R261, R444). -/
def State.serveRead (s : State) (r : Read) : State :=
  let func := s.rg.func
  let ended := s.rg.isEnded r.id
  let swap : State → State := fun t => if ended then t.modR Region.swapCounts else t
  let (bytes, t) := (swap s).readVa func s.page r.va r.size r.hint
  let bad := s.poisonedAt func r.va r.size
  let (n, t) := (swap t).lat
  let t := t.modReads ended (fun q => if q.id = r.id then { q with stage := 2, due := s.cycle + n, bytes := bytes, bad := bad } else q)
  match r.acq with
  | some l => if s.nowE.rowsLeft r then t else t.acquireRanges l
  | none => t

/-- The bytes of a reply written where they land: FIFO words at the tail, an operand store with its tags (R132, R343). -/
def Elem.landRead (e : Elem) (d : ElemDecl) (r : Read) : Elem :=
  let e := { e with
    reads := e.reads.filter (fun q => q.id != r.id)
    softOps := e.softOps.map (fun o => if some o.id = r.soft then { o with rows := o.rows ++ [(r.id, r.bytes)] } else o) }
  if r.soft.isSome then e else
  match r.fifo.bind (fun i => d.groups.find? (fun g => g.i == i)) with
  | some g => ((List.range (r.size / 4)).foldl (fun e i => e.fifoPush g (BitVec.ofNat 32 (leAt r.bytes (4 * i) 4))) e).modGrp g.i
      (fun k => { k with promised := k.promised - r.size / 4 })
  | none =>
    if r.bytes = [] then e
    else e.writeSram r.dst r.bytes (if r.bt then .tagged (r.bytes.headD 0#8) else .untagged)

/-- A burst's reply: the ME latches its header (R200), which a reserved BLEN or NFMT makes a fault. -/
def State.latchBurst (s : State) (r : Read) : State :=
  if !r.bt then s
  else
    let h := BitVec.ofNat 32 (leAt r.bytes 0 4)
    let t := s.modE (fun e => { e with hdr := h })
    if headerBad h then t.raise { t.fltHere 0x31 0 0 with stamp := r.stamp, sch := if r.sched then 1 else 0 } else t

/-- The bytes that a gather moves, charged as they land (R71). -/
def State.gathBytes (s : State) (r : Read) : State :=
  if r.gath then s.modR (fun g => { g with roundBytes := g.roundBytes + r.size }) else s

/-- A reply lands: poison that it delivers is consumed (R253). -/
def State.landReply (s : State) (r : Read) : State :=
  let t := ((s.modE (fun e => e.landRead s.decl r)).latchBurst r).gathBytes r
  match r.bad with
  | some va => t.consumed r.stamp r.sched va
  | none => t

/-- STREAM_READ_REPLY (R343): the read in focus is served, or its reply lands. -/
def execStreamReadReply (s : State) : Host.Outcome State Fault Refusal :=
  match s.readInFocus with
  | none => go s
  | some r =>
    if r.stage = 2 then go (s.landReply r)
    else go (s.serveRead r)

/-- RMW_RETURN (R357): the old value lands at its local offset, untagged; a later void writes it again. -/
def execRmwReturn (s : State) : Host.Outcome State Fault Refusal :=
  match s.readInFocus with
  | none => go s
  | some r => go ((s.modE (fun e => e.landRead s.decl r)).modR (fun g => { g with
      returns := g.returns ++ [(elemKey s.focus.sg s.focus.x s.focus.y, r.dst, r.bytes)] }))

end Sys2Proof.Machine
end

