-- ==== Sys2Proof/Machine/Engines.lean ====
section
/-! DEFINITION. Copy engines (R349 to R354). -/

namespace Sys2Proof.Machine

open Sys2Proof

/-! ## Descriptors (R349, R350) -/

/-- One side of a copy: a virtual address, or an element's key and an absolute ME offset. -/
inductive CopySide where
  | mem (va : Nat)
  | loc (key off : Nat)
  deriving DecidableEq, Repr

/-- The ME side that a descriptor field names, with distance j: it must be an ME of the signature in a span, and the
range must stay in one operand-store group (R350). -/
def State.copyLocal (s : State) (v j len : Nat) : Option CopySide :=
  let x := v / 2 ^ 20 % 32
  let y := v / 2 ^ 25 % 32
  let off := v % 2 ^ 18
  if v ≥ 2 ^ 30 ∨ v / 2 ^ 18 % 4 ≠ 0 ∨ off % 64 ≠ 0 ∨ kindAt x y = .ce then none
  else
    match resolveLocal (s.sig.decl.elem x y) (s.rg.old.elem s.focus.sg x y) off j 64 with
    | some (g, a) => if a + len ≤ g.base + g.bytes then some (.loc (elemKey s.focus.sg x y) a) else none
    | none => none

/-- The memory side that a descriptor field names. -/
def copyMem (v : Nat) : Option CopySide := if v ≥ 2 ^ 48 ∨ v % 64 ≠ 0 then none else some (.mem v)

/-- Whether a range lies in one buffer that the launch's image declares. -/
def State.inLaunchBuf (s : State) (va len : Nat) : Bool :=
  match s.launchOf s.rg.func s.rg.ltag with
  | none => false
  | some l => l.bufs.any (fun i => match s.bufs.find i with
    | some b => decide (b.va ≤ va) && decide (va + len ≤ b.va + b.size)
    | none => false)

/-- A side outside every declared buffer faults at issue (R350). -/
def State.copySideChk (s : State) (c : CopySide) (len : Nat) : Chk :=
  match c with
  | .mem va => if s.inLaunchBuf va len then .ok else .fault 0x40 va
  | .loc _ _ => .ok

/-- The two sides and the length of a descriptor, where it is well formed (R349, R350). -/
def State.copyDesc (s : State) (d : List Byte) (tagged : Bool) : Option (CopySide × CopySide × Nat) :=
  let len := leAt d 16 4
  let fl := leAt d 20 1
  let sl := fl % 2 = 1
  let dl := fl / 2 % 2 = 1
  if (sl ∧ dl) ∨ fl ≥ 16 ∨ leAt d 22 1 > 2 ∨ leAt d 23 8 ≠ 0 ∨ leAt d 31 1 ≠ 0 ∨ (!tagged ∧ leAt d 21 1 ≠ 0) ∨
      len % 64 ≠ 0 ∨ len < 64 ∨ len > 2 ^ 24 then none
  else
    match (if sl then s.copyLocal (leAt d 0 8) 0 len else copyMem (leAt d 0 8)),
          (if dl then s.copyLocal (leAt d 8 8) (fl / 4 % 4) len else copyMem (leAt d 8 8)) with
    | some a, some b => some (a, b, len)
    | _, _ => none

/-- A side's address, and its place where it is local. -/
def CopySide.va : CopySide → Nat
  | .mem v => v
  | .loc _ _ => 0
def CopySide.here : CopySide → Option (Nat × Nat)
  | .mem _ => none
  | .loc k o => some (k, o)

/-- The slot's copy that is not complete. -/
def Elem.copyBusy (e : Elem) (cid : Nat) : Bool := e.copies.any (fun c => c.id == cid && !c.done)

/-- The tag that unchecked blocks of a local source must carry: E of its group, as the entry issues (R133). -/
def State.copyWant (s : State) (c : CopySide) : Byte :=
  match c with
  | .mem _ => 0#8
  | .loc k o =>
    match (s.sig.decl.elem (k % 32) (k / 32 % 32)).groups.find? (fun g => g.base ≤ o && o < g.base + g.bytes) with
    | some g => ((s.rg.old.elems.get (Elem.fresh .me) k).grps.get Grp.zero g.i).e
    | none => 0#8

/-- CPY and CPYT: the descriptor read, checked, and given to an engine (R349 to R352). -/
def State.startCopy (s : State) (f : FK) (tagged : Bool) : State :=
  let cid := bitsOf f.param 3 0
  let off := alignDown (s.src f.a.toNat).toNat 32
  let r := s.localRead off 0 32
  let d := s.sramOld r.2 32
  let desc := s.copyDesc d tagged
  let chk : Chk := match r.1 with
    | .ok => (match desc with
      | none => .fault 0x43 off
      | some (a, b, len) => (s.copySideChk a len).and (s.copySideChk b len))
    | c => c
  let slot : Chk := if s.oldE.copyBusy cid then .stall else .ok
  s.entry [f.a.toNat] [] ((chk.and (s.poisonChk r.2 32)).and (slot.and s.pageRoom)) (fun t =>
    match desc with
    | none => t
    | some (a, b, len) =>
      let (n, t) := t.lat
      let c : Copy := { id := cid, src := a.va, dst := b.va, srcLocal := a.here, dstLocal := b.here, len := len, prog := 0,
                        tag := if tagged then some (BitVec.ofNat 8 (leAt d 21 1)) else none, hint := leAt d 22 1, want := s.copyWant a,
                        piece := [], bad := [], done := false, due := s.cycle + n, stamp := s.focus.stamp, sched := s.focus.sched }
      t.modE (fun e => { e.markRead r.2 32 with copies := e.copies.filter (fun q => q.id != cid) ++ [c] }))

/-- CPY (R349). -/
def execCpy (f : FK) (s : State) : Host.Outcome State Fault Refusal := go (s.startCopy f false)

/-- CPYT (R349). -/
def execCpyt (f : FK) (s : State) : Host.Outcome State Fault Refusal := go (s.startCopy f true)

/-- A completed wait on a copy slot: the outside ranges of its copies, which a REL at system scope orders from now on (R173, R176). -/
def Elem.awaited (e : Elem) (cid : Nat) : Elem :=
  { e with waited := (e.waited ++ (e.copies.filter (fun c => c.id == cid && c.dstLocal.isNone)).map (fun c => (c.dst, c.len))).dedup }

/-- CPYW (R353): met at fire when the slot's latest copy is complete or the slot was never used. -/
def execCpyw (f : FW) (s : State) : Host.Outcome State Fault Refusal :=
  let cid := bitsOf f.b 3 0
  go (s.entry [] [f.d.toNat] .ok (fun t =>
    if s.oldE.copyBusy cid then t.openWin (.copy cid) f.d.toNat f.win.toNat f.wm.toNat none
    else (t.modE (fun e => e.awaited cid)).openWin (.copy cid) f.d.toNat f.win.toNat f.wm.toNat (some 1#32)))

/-! ## Progress (R351, R137, R141) -/

/-- A fault that an engine meets, at the entry that issued its command. -/
def State.engineFault (s : State) (stamp : Nat) (sched : Bool) (code va : Nat) : State :=
  s.raise { s.fltHere code 0 va with stamp := stamp, sch := schOf sched stamp }

/-- What keeps an engine from the n bytes at an address: a page that it may not write, a row that is suspended, or a page whose walk has
still to end, which the engine asks for and waits for (R137, R141, R161). None where it goes on. -/
def State.engineWait (s : State) (stamp : Nat) (sched : Bool) (va n : Nat) (write : Bool) : Option State :=
  match s.rangeChk va n write, s.transMiss va n with
  | .fault code a, _ => some (s.engineFault stamp sched code a)
  | _, some v =>
    let mine := fun (w : Walk) => w.eng && w.r == s.focus.r && w.sg == s.focus.sg && w.x == s.focus.x && w.y == s.focus.y && w.va == v
    if s.walks.any mine then some s
    else
      let (id, t) := s.fresh
      let u := { t with focus := { t.focus with stamp := stamp, sched := sched } }.beginWalk id v (s.accOf va v) write true
      some { u with focus := s.focus }
  | _, none => if s.vaBusy s.rg.func va n then some s else none

/-- The element of a local side, and whether n bytes there lie in a bank that is waking (R30). -/
def State.copyElem (s : State) (k : Nat) : Elem := s.rg.now.elems.get (Elem.fresh .me) k

/-- What a read of n bytes of a local source meets: a bank that is waking; or an unchecked block with another tag than expected, which is a
precise fault of the entry that issued the command (R30, R133). -/
def State.copySrcWait (s : State) (c : Copy) (k o n : Nat) : Option State :=
  let e := s.copyElem k
  if e.asleep (o + c.prog) n || e.rangePending (o + c.prog) n then some s
  else if (tagBlocks (o + c.prog) n).any (fun b => !(e.tags.get Tag.zero b).chk && (e.tags.get Tag.zero b).t != c.want) then
    some (s.engineFault c.stamp c.sched 0x30 0)
  else none

/-- The command of a copy slot changed. -/
def Elem.modCopy (e : Elem) (id : Nat) (g : Copy → Copy) : Elem :=
  { e with copies := e.copies.map (fun c => if c.id = id then g c else c) }

/-- The n bytes of a piece, the offsets of its poisoned sectors, and the state after the read: poison follows its data, but an expansion
consumes it (R253). A local read sets the check bits of its blocks (R133). -/
def State.copyRead (s : State) (c : Copy) (n : Nat) : List Byte × List Nat × State :=
  let sectors := (List.range (n / 64)).map (64 * ·)
  match c.srcLocal with
  | some (k, o) =>
    let e := s.copyElem k
    (e.sram.readN (o + c.prog) n, sectors.filter (fun i => e.rangePoison (o + c.prog + i) 64),
      s.modNow (fun f => { f with elems := f.elems.set k (e.markRead (o + c.prog) n) }))
  | none =>
    let va := c.src + c.prog
    let r := s.readVa s.rg.func s.page va n c.hint
    if ((s.bufAt s.rg.func va).map (·.cmp)).getD 0 = 0 then (r.1, sectors.filter (fun i => s.poisonedVa s.rg.func (va + i) 64), r.2)
    else (r.1, [], match s.poisonedAt s.rg.func va n with | some p => r.2.consumed c.stamp c.sched p | none => r.2)

/-- The bytes of one piece placed at its destination: local writes land at once (R132); outside writes enter the
commit buffer (R121). -/
def State.copyWrite (s : State) (c : Copy) (b : List Byte) (bad : List Nat) : State :=
  match c.dstLocal with
  | some (k, o) => s.modNow (fun f =>
      let e := (f.elems.get (Elem.fresh .me) k).writeSram (o + c.prog) b (match c.tag with | some t => .tagged t | none => .untagged)
      { f with elems := f.elems.set k { e with
          poison := e.poison ++ bad.flatMap (fun i => (List.range 16).map (fun w => o + c.prog + i + 4 * w)) } })
  | none => s.stage 11 (.store (c.dst + c.prog) b c.hint bad)

/-- The bytes of a command's next piece. -/
def Copy.next (c : Copy) : Nat := Nat.min 1024 (c.len - c.prog)

/-- One half of a piece of at most 1 KiB (R351): it is read at its source, where its translation and its row are ready and, for memory, the
commit buffer has room for it; or it has been read, and is placed at its destination. Bytes are charged, and event 9 counts KiB as they
complete (R71, R259) (DEDUCED, log 54). -/
def State.copyPiece (s : State) (c : Copy) : State :=
  let n := c.next
  let at_ := fun (u : State) (g : Copy → Copy) => u.modE (fun e => e.modCopy c.id g)
  if c.piece = [] then
    let wait := if c.dstLocal.isNone && decide (s.halfBytes + n > 128 * 1024) then some s
      else match c.srcLocal with
        | some (k, o) => s.copySrcWait c k o n
        | none => s.engineWait c.stamp c.sched (c.src + c.prog) n false
    match wait with
    | some t => t
    | none =>
      let r := s.copyRead c n
      at_ r.2.2 (fun c => { c with piece := r.1, bad := r.2.1 })
  else
    let wait := match c.dstLocal with
      | some (k, o) => if (s.copyElem k).asleep (o + c.prog) n then some s else none
      | none => s.engineWait c.stamp c.sched (c.dst + c.prog) n true
    match wait with
    | some t => t
    | none =>
      let (lat, t) := (s.copyWrite c c.piece c.bad).lat
      let t := at_ t (fun c => { c with piece := [], bad := [], prog := c.prog + n, due := s.cycle + lat })
      t.modR (fun g => { g.count 0x09 s.page ((c.prog + n + 1023) / 1024 - (c.prog + 1023) / 1024) with roundBytes := g.roundBytes + n })

/-- COPY_COMPLETE (R351): a piece of the copy in slot n of the focus is read or placed; with its last piece the copy is complete. -/
def execCopyComplete (s : State) : Host.Outcome State Fault Refusal :=
  match s.nowE.copies.find? (fun c => c.id == s.focus.n && !c.done) with
  | none => go s
  | some c =>
    let t := s.copyPiece c
    go (t.modE (fun e => e.modCopy c.id (fun c => { c with done := decide (c.len ≤ c.prog) })))

end Sys2Proof.Machine
end

