-- ==== Sys2Proof/Machine/Shake.lean ====
section
/-! DEFINITION. SHAKE256 (R49, R227, R237): the sponge of FIPS 202, which the spec names. -/

namespace Sys2Proof.Machine

open Sys2Proof

/-- A lane of the Keccak state. -/
abbrev Lane64 := BitVec 64

/-- Lane i of a state. -/
def kLane (s : List Lane64) (i : Nat) : Lane64 := (s[i]?).getD 0

/-- Rotation offsets of rho, at index x + 5y. -/
def kRho : List Nat :=
  [0, 1, 62, 28, 27, 36, 44, 6, 55, 20, 3, 10, 43, 25, 39, 41, 45, 15, 21, 8, 18, 2, 61, 56, 14]

/-- Round constants of iota. -/
def kRC : List Nat :=
  [0x0000000000000001, 0x0000000000008082, 0x800000000000808A, 0x8000000080008000,
   0x000000000000808B, 0x0000000080000001, 0x8000000080008081, 0x8000000000008009] ++
  [0x000000000000008A, 0x0000000000000088, 0x0000000080008009, 0x000000008000000A,
   0x000000008000808B, 0x800000000000008B, 0x8000000000008089, 0x8000000000008003] ++
  [0x8000000000008002, 0x8000000000000080, 0x000000000000800A, 0x800000008000000A,
   0x8000000080008081, 0x8000000000008080, 0x0000000080000001, 0x8000000080008008]

/-- One round of Keccak-f[1600]. -/
def kRound (s : List Lane64) (rc : Nat) : List Lane64 :=
  let c := (List.range 5).map fun x =>
    kLane s x ^^^ kLane s (x + 5) ^^^ kLane s (x + 10) ^^^ kLane s (x + 15) ^^^ kLane s (x + 20)
  let d := (List.range 5).map fun x => kLane c ((x + 4) % 5) ^^^ (kLane c ((x + 1) % 5)).rotateLeft 1
  let t := (List.range 25).map fun i => kLane s i ^^^ kLane d (i % 5)
  -- pi and rho: B[y + 5((2x + 3y) mod 5)] is lane (x, y) rotated
  let b := (List.range 25).map fun j =>
    let y := j % 5
    let z := j / 5
    -- the x with (2x + 3y) mod 5 = z
    let x := (3 * (z + 10 - 3 * y % 5)) % 5
    (kLane t (x + 5 * y)).rotateLeft ((kRho[x + 5 * y]?).getD 0)
  let chi := (List.range 25).map fun i =>
    let x := i % 5
    let y := i / 5
    kLane b i ^^^ (~~~(kLane b ((x + 1) % 5 + 5 * y)) &&& kLane b ((x + 2) % 5 + 5 * y))
  match chi with
  | [] => []
  | h :: r => (h ^^^ BitVec.ofNat 64 rc) :: r

/-- Keccak-f[1600]. -/
def keccakF (s : List Lane64) : List Lane64 := kRC.foldl kRound s

/-- XOR of a rate block of 136 bytes into the state. -/
def kAbsorb (s : List Lane64) (blk : List Byte) : List Lane64 :=
  (List.range 25).map fun i =>
    if i < 17 then kLane s i ^^^ BitVec.ofNat 64 (leAt blk (8 * i) 8) else kLane s i

/-- Absorption of whole blocks, by the number of blocks. -/
def kAbsorbAll : Nat → List Lane64 → List Byte → List Lane64
  | 0, s, _ => s
  | n + 1, s, m => kAbsorbAll n (keccakF (kAbsorb s (m.take 136))) (m.drop 136)

/-- Padding of SHAKE256: suffix 1111, then pad10*1 to the rate of 136 bytes. -/
def shakePad (m : List Byte) : List Byte :=
  let r := 136 - m.length % 136
  if r = 1 then m ++ [0x9F#8]
  else m ++ [0x1F#8] ++ List.replicate (r - 2) 0#8 ++ [0x80#8]

/-- The first n bytes of the SHAKE256 output, n at most 136. -/
def shake256 (m : List Byte) (n : Nat) : List Byte :=
  let p := shakePad m
  let s := kAbsorbAll (p.length / 136) (List.replicate 25 0#64) p
  ((List.range 17).flatMap fun i => leBytes 8 (kLane s i).toNat).take n

/-- `shake256_64(b)` (R306). -/
def shake256_64 (m : List Byte) : BitVec 64 := BitVec.ofNat 64 (leNat (shake256 m 8))

end Sys2Proof.Machine
end

