-- ==== Sys2Proof/Machine/SoftTok.lean ====
section
/-! DEFINITION. Soft-token entries, 0xE0 to 0xED, and their completion (R226 to R244, R408 to R411). -/

namespace Sys2Proof.Machine

open Sys2Proof

/-! ## The generator (R307) -/

/-- `rng_next32`: the draw, and the element with its generator advanced. -/
def Elem.rngNext (e : Elem) : Word × Elem :=
  let r := rotl32 (e.gs1 * 5#32) 7 * 9#32
  let s2 := e.gs2 ^^^ e.gs0
  let s3 := e.gs3 ^^^ e.gs1
  let s1 := e.gs1 ^^^ s2
  let s0 := e.gs0 ^^^ s3
  (r, { e with gs0 := s0, gs1 := s1, gs2 := s2 ^^^ (e.gs1 <<< 9), gs3 := rotl32 s3 11 })

/-! ## Registers (R226, R227) -/

/-- Element size and format of HFMT and EFMT: FP32, BF16, FP16. -/
def hfSize (h : Nat) : Nat := if h = 0 then 4 else 2
def hfFmt (h : Nat) : Fmt := match h with | 0 => fp32 | 1 => bf16 | _ => fp16

/-- A soft-token register of an element. -/
def Elem.soft (e : Elem) (n : Nat) : Soft := e.st.get Soft.empty n

/-- The bytes of candidates: id and weight, in register order. -/
def pairBytes (ids wts : List Word) : List Byte :=
  (ids.zip wts).flatMap (fun (p : Word × Word) => leBytes 4 p.1.toNat ++ leBytes 4 p.2.toNat)

/-- The vector of a hidden register. -/
def Elem.softVec (e : Elem) (r : Soft) : List Byte := e.sram.readN r.haddr (r.hlen * hfSize r.hfmt)

/-- The canonical bytes of a register (R227). -/
def Elem.softBytes (e : Elem) (r : Soft) : List Byte :=
  match r.kind with
  | 1 => 1#8 :: leBytes 4 (r.ids.headD 0#32).toNat
  | 2 => 2#8 :: BitVec.ofNat 8 r.nc :: pairBytes r.ids r.wts
  | 3 => 3#8 :: BitVec.ofNat 8 r.hfmt :: (leBytes 4 r.hlen ++ e.softVec r)
  | _ => []

/-- HASH of a register's content (R227); of an empty one 0 (DESIGN CHOICE, log 70). -/
def Elem.softHash (e : Elem) (r : Soft) : BitVec 64 := if r.kind = 0 then 0#64 else shake256_64 (e.softBytes r)

/-- A register with its hash computed. -/
def Elem.hashed (e : Elem) (r : Soft) : Soft := { r with hash := e.softHash r }

/-- Discrete and mixture registers: ALLOW all ones. -/
def Soft.discrete (id : Word) : Soft := { Soft.empty with kind := 1, nc := 1, ids := [id], wts := [0x3F800000#32] }
def Soft.mixture (ids wts : List Word) : Soft := { Soft.empty with kind := 2, nc := ids.length, ids := ids, wts := wts }

/-- A register replaced. -/
def Elem.setSoft (e : Elem) (n : Nat) (r : Soft) : Elem := { e with st := e.st.set n r }

/-- Whether an id names no token of the context (R228). -/
def badToken (v : Nat) (id : Word) : Bool := decide (v ≤ id.toNat) || decide (0xFFFFFFF0 ≤ id.toNat)

/-- The token-range check of ids. -/
def tokChk (v : Nat) (ids : List Word) : Chk := if ids.any (badToken v) then .fault 0x33 0 else .ok

/-! ## Checks and pending items (R229, R408) -/

/-- The operand-store group that holds an absolute ME range. -/
def ElemDecl.groupAt (d : ElemDecl) (a n : Nat) : Option GroupDecl :=
  d.groups.find? (fun g => g.mode == .store && decide (g.base ≤ a) && decide (a + n ≤ g.base + g.bytes))

/-- The check of an ME range named by its offset: out of every group, or pending. -/
def State.rangeAt (s : State) (a n : Nat) : Chk :=
  match s.decl.groupAt a n with
  | none => .fault 0x43 a
  | some _ => if s.oldE.rangePending a n then .stall else .ok

/-- The check of a write of one; a bank that is waking freezes the step (R30). -/
def State.rangeWr (s : State) (a n : Nat) : Chk := (s.rangeAt a n).and (if s.oldE.asleep a n then .stall else .ok)

/-- The tag that a local access at an absolute offset of a group uses: E + j for the buffer's distance j from the current one (R132). -/
def GroupDecl.tagAt (g : GroupDecl) (e : Elem) (a : Nat) : Byte :=
  let k := e.grps.get Grp.zero g.i
  k.e + BitVec.ofNat 8 (((a - g.base) / g.bufBytes + g.n - k.cur % g.n) % g.n)

/-- The tag of a local write at an absolute offset. -/
def ElemDecl.locTag (d : ElemDecl) (e : Elem) (a : Nat) : TagOp :=
  match d.groupAt a 1 with
  | .none => .untagged
  | some g => .loc (g.tagAt e a)

/-- The tags of a range that is read: each block whose CHK is 0 must carry the tag of its buffer's distance (R133, R185). -/
def State.tagChk (s : State) (a n : Nat) : Chk :=
  match s.decl.groupAt a n with
  | none => .ok
  | some g =>
    if (tagBlocks a n).any (fun b => !(s.oldE.tags.get Tag.zero b).chk && (s.oldE.tags.get Tag.zero b).t != g.tagAt s.oldE (Nat.max a (512 * b)))
    then .fault 0x30 0 else .ok

/-- The check of a read of a range (DEDUCED, log 46). -/
def State.rangeRd (s : State) (a n : Nat) : Chk := (s.rangeWr a n).and ((s.tagChk a n).and (s.poisonChk a n))

/-- A pending register or context field freezes its reader and its writer: STATE, or the fields that COLLAPSE and STOP change. -/
def State.softFree (s : State) (n : Nat) : Chk := if s.oldE.marks.contains (.soft n) then .stall else .ok
def State.ctxFree (s : State) (state : Bool) : Chk := if s.oldE.marks.contains (.ctx state) then .stall else .ok

/-- A destination marked, and the mark removed: predicates in the CE that holds them. -/
def State.markReg (s : State) (c : Nat) : State :=
  if 96 < c ∧ c < 104 then s.modEAt s.focus.sg s.predX s.focus.y (fun e => { e with marks := e.marks ++ [.reg c] })
  else if c < 64 then s.modE (fun e => { e with marks := e.marks ++ [.reg (s.code c)] })
  else s
def State.unmarkReg (s : State) (c : Nat) : State :=
  if 96 < c ∧ c < 104 then s.modEAt s.focus.sg s.predX s.focus.y (fun e => { e with marks := e.marks.erase (.reg c) })
  else if c < 64 then s.modE (fun e => { e with marks := e.marks.erase (.reg c) })
  else s

/-- A soft-token entry in flight, to complete from cycle `due` on. -/
def State.startSoft (s : State) (due : Nat) (instr : Instr) (a b : Word) (data : List Byte) (marks : List Pend) : Nat × State :=
  let (id, t) := s.fresh
  let o : SoftOp := { id := id, due := due, instr := instr, a := a, b := b, data := data, rows := [], stamp := s.focus.stamp,
                      sched := s.focus.sched, marks := marks, kept := [] }
  (id, t.modE (fun e => { e with softOps := e.softOps ++ [o], marks := e.marks ++ marks }))

/-- ST of an entry. -/
def stOf (f : FK) : Nat := bitsOf f.param 2 0

/-! ## STKH, STKM, STKA, STKN (R231) -/

/-- STKH (R231): the register names the vector at once, and its hash is complete 8 + 4 × ⌈bytes / 136⌉ cycles later. -/
def execStkh (f : FK) (s : State) : Host.Outcome State Fault Refusal :=
  let a := (s.src f.a.toNat).toNat
  let len := (bitsOf f.param 14 5 + 1) * 16
  let n := len * hfSize (bitsOf f.param 4 3)
  let mis : Chk := if a % 64 ≠ 0 then .fault 0x34 0 else .ok
  let r : Soft := { Soft.empty with kind := 3, haddr := a, hlen := len, hfmt := bitsOf f.param 4 3 }
  go (s.entry [f.a.toNat] [] ((s.softFree (stOf f)).and (mis.and (s.rangeRd a n))) (fun t =>
    ((t.modE (fun e => (e.setSoft (stOf f) r).markRead a n)).startSoft (s.cycle + 8 + 4 * ceilDiv (n + 6) 136) (.stkh f) 0#32 0#32 []
      [.soft (stOf f)]).2))

/-- STKM (R231): nc pairs of id and weight. -/
def execStkm (f : FK) (s : State) : Host.Outcome State Fault Refusal :=
  let a := (s.src f.a.toNat).toNat
  let nc := bitsOf f.param 6 3 + 1
  let w := fun i => BitVec.ofNat 32 (leNat (s.sramOld (a + 4 * i) 4))
  let ids := (List.range nc).map (fun i => w (2 * i))
  let wts := (List.range nc).map (fun i => w (2 * i + 1))
  let chk := (s.softFree (stOf f)).and (s.rangeRd a (8 * nc))
  go (s.entry [f.a.toNat] [] (match chk with | .ok => tokChk s.oldE.dc.v ids | c => c) (fun t =>
    t.modE (fun e => (e.setSoft (stOf f) (e.hashed (Soft.mixture ids wts))).markRead a (8 * nc))))

/-- A weight as STKA and COLLAPSE compare it: NaN as −infinity. -/
def softKey (w : Word) : FV := if (f32 w).isNan then .inf true else f32 w

/-- The index of the least weight, ties to the highest index. -/
def leastWeight (wts : List Word) : Nat :=
  (wts.zipIdx.foldl (fun (b : Option (Word × Nat)) (p : Word × Nat) => match b with
    | none => some p
    | some q => if FV.lt (softKey q.1) (softKey p.1) then some q else some p) none).elim 0 Prod.snd

/-- The register after STKA, or none when it is unchanged (R231). -/
def stkaReg (r : Soft) (id wt : Word) : Option Soft :=
  match r.kind with
  | 0 => some (Soft.mixture [id] [wt])
  | 1 => some (Soft.mixture [r.ids.headD 0#32, id] [0x3F800000#32, wt])
  | 2 =>
    match r.ids.findIdx? (· == id) with
    | some i => some (Soft.mixture r.ids (r.wts.set i (roundRneF32 (FV.add 0 (f32 ((r.wts[i]?).getD 0#32)) (f32 wt)))))
    | none =>
      if r.nc < 16 then some (Soft.mixture (r.ids ++ [id]) (r.wts ++ [wt]))
      else
        let i := leastWeight r.wts
        if FV.lt (softKey ((r.wts[i]?).getD 0#32)) (softKey wt) then some (Soft.mixture (r.ids.set i id) (r.wts.set i wt)) else none
  | _ => none

/-- The weight operand of STKA and the offset operand of PRPL. -/
def codeB (f : FK) : Nat := bitsOf f.param 9 3

/-- STKA (R231, R408). -/
def execStka (f : FK) (s : State) : Host.Outcome State Fault Refusal :=
  let id := s.src f.a.toNat
  let r := stkaReg (s.oldE.soft (stOf f)) id (s.src (codeB f))
  go (s.entry [f.a.toNat, codeB f] [f.d.toNat] ((s.softFree (stOf f)).and (tokChk s.oldE.dc.v [id])) (fun t =>
    let t := t.put f.d.toNat (boolWord r.isSome)
    match r with
    | some r => t.modE (fun e => e.setSoft (stOf f) (e.hashed r))
    | none => t))

/-- The register after STKN, or none when it is unchanged (R231). -/
def stknReg (r : Soft) : Option Soft :=
  let sum := sumFV 0 (r.wts.map f32)
  if r.kind = 2 ∧ sum.isFinite ∧ FV.lt (.fin false 0 0) sum then
    some (Soft.mixture r.ids (r.wts.map (fun w => BitVec.ofNat 32 (divRound fp32 0 (f32 w) sum))))
  else none

/-- STKN (R231). -/
def execStkn (f : FK) (s : State) : Host.Outcome State Fault Refusal :=
  let r := stknReg (s.oldE.soft (stOf f))
  go (s.entry [] [f.d.toNat] (s.softFree (stOf f)) (fun t =>
    let t := t.put f.d.toNat (boolWord r.isSome)
    match r with
    | some r => t.modE (fun e => e.setSoft (stOf f) (e.hashed r))
    | none => t))

/-! ## STKE (R205, R233, R236) -/

/-- Elements of a row or vector as FP32 words. -/
def toF32s (hf : Nat) (l : List Byte) : List Word :=
  (List.range (l.length / hfSize hf)).map (fun i => roundRneF32 (valueOf (hfFmt hf) (leAt l (hfSize hf * i) (hfSize hf))))

/-- Candidates in ascending id, then index. -/
def candOrder (r : Soft) : List (Word × Word) :=
  sortBy (fun (p q : Word × Word) => decide (p.1.toNat < q.1.toNat)) (r.ids.zip r.wts)

/-- The rows of candidates summed: one rounding per product (R205). -/
def mixRows (edim : Nat) (l : List (Word × List Word)) : List Word :=
  l.foldl (fun (acc : List Word) (p : Word × List Word) =>
    (acc.zip p.2).map (fun (q : Word × Word) => roundRneF32 (FV.add 0 (f32 q.1) (FV.mul (f32 p.1) (f32 q.2)))))
    (List.replicate edim 0#32)

/-- The check of an embedding row on its stream (R236). -/
def State.embedChk (s : State) (sn va size : Nat) : Chk :=
  let st := s.stream sn
  if va < st.base ∨ st.base + st.ext < va + size then .fault 0x40 va else s.issueChk va size false

/-- STKE (R233): the vector of a hidden register, or the candidates, read at fire; rows are read on stream sn. -/
def execStke (f : FM) (s : State) : Host.Outcome State Fault Refusal :=
  let st := bitsOf f.mode 2 0
  let e := s.oldE
  let r := e.soft st
  let dc := e.dc
  let off := alignDown (bitsOf f.off 17 0 + (s.src f.d.toNat).toNat) 4
  let w := s.localWrite off 0 (4 * dc.edim)
  let cand := if r.kind = 3 then [] else candOrder r
  let size := dc.edim * hfSize dc.efmt
  let vas := cand.map (fun (p : Word × Word) => dc.ebase + p.1.toNat * size)
  let shape : Chk := if r.kind = 0 ∨ (r.kind = 3 ∧ r.hlen ≠ dc.edim) then .fault 0x34 0 else .ok
  let vec : Chk := if r.kind = 3 then s.rangeRd r.haddr (r.hlen * hfSize r.hfmt) else .ok
  let rows : Chk := match tokChk dc.v r.ids with
    | .ok => vas.foldl (fun (a : Chk) va => a.and (s.embedChk f.strm.toNat va size)) .ok
    | c => c
  let data := if r.kind = 3 then (toF32s r.hfmt (e.softVec r)).flatMap (fun w => leBytes 4 w.toNat)
    else pairBytes (cand.map Prod.fst) (cand.map Prod.snd)
  go (s.entry [f.d.toNat] [] ((s.softFree st).and (shape.and (vec.and (rows.and w.1)))) (fun t =>
    let (n, t) := t.lat
    let (id, t) := t.startSoft (s.cycle + n) (.stke f) (BitVec.ofNat 32 w.2.1) (BitVec.ofNat 32 r.kind) data
      [.range w.2.1 (4 * dc.edim)]
    let t := if r.kind = 3 then t.modE (fun e => e.markRead r.haddr (r.hlen * hfSize r.hfmt)) else t
    vas.foldl (fun (t : State) va =>
      let k := t.nextId
      ((t.issueRead f.strm.toNat va size 0 none false false 0).cmpBytes va size).modE (fun e =>
        { e with reads := e.reads.map (fun q => if q.id = k then { q with soft := some id } else q) })) t))

/-- The words that a completed STKE writes. -/
def stkeWords (dc : Dctx) (o : SoftOp) : List Byte :=
  if o.b = 3#32 then o.data
  else
    let rows := o.rows.map (fun (p : Nat × List Byte) => toF32s dc.efmt p.2)
    let wts := (List.range (o.data.length / 8)).map (fun i => BitVec.ofNat 32 (leAt o.data (8 * i + 4) 4))
    let ws := if o.b = 1#32 then rows.headD [] else mixRows dc.edim (wts.zip rows)
    ws.flatMap (fun w => leBytes 4 w.toNat)

/-! ## STKQ (R409) -/

/-- The field of index i. -/
def stkqField (r : Soft) (dc : Dctx) (i : Nat) : Word :=
  if i < 8 then
    match i with
    | 0 => BitVec.ofNat 32 r.kind
    | 1 => BitVec.ofNat 32 r.nc
    | 2 => r.allow.zeroExtend 32
    | 3 => r.hash.extractLsb' 0 32
    | 4 => r.hash.extractLsb' 32 32
    | 5 => BitVec.ofNat 32 r.haddr
    | 6 => BitVec.ofNat 32 r.hlen
    | _ => BitVec.ofNat 32 r.hfmt
  else if i < 24 then (r.ids[i - 8]?).getD 0#32
  else if i < 40 then (r.wts[i - 24]?).getD 0#32
  else match i with
    | 64 => BitVec.ofNat 32 dc.posn
    | 65 => BitVec.ofNat 32 (dc.posn / 2 ^ 32)
    | 66 => dc.state
    | 67 => boolWord dc.hit
    | 68 => BitVec.ofNat 32 dc.hitj
    | 69 => BitVec.ofNat 32 dc.emit
    | 70 => BitVec.ofNat 32 dc.back
    | _ => BitVec.ofNat 32 dc.tail.length

/-- STKQ (R409). -/
def execStkq (f : FK) (s : State) : Host.Outcome State Fault Refusal :=
  let i := bitsOf f.param 9 3
  go (s.entry [] [f.d.toNat] (if i ≥ 64 then s.ctxFree (i == 66) else s.softFree (stOf f)) (fun t =>
    t.put f.d.toNat (stkqField (s.oldE.soft (stOf f)) s.oldE.dc i)))

/-! ## The vocabulary cache (R242, R243) -/

/-- The line at an address as the cache of the die of the page in focus holds it, or as a reader keeps it (R246). -/
def State.cachedLine (s : State) (kept : List VLine) (va : Nat) : Option VLine :=
  (kept.find? (fun v => v.va == va)).or (s.vcache.find? (fun v => v.die == dieOfPage s.page && v.func == s.rg.func && v.va == va))

/-- One 64 B line read through the die's vocabulary cache, filled through the L2 on a miss. The cache holds 64 KiB per
die; the line that came in first leaves. Filling with poisoned data consumes it, and the cache does not keep it (R253). `kept` are lines
that the reader keeps (R246). -/
def State.vocabLine (s : State) (kept : List VLine) (va : Nat) : List Byte × State :=
  let die := dieOfPage s.page
  let func := s.rg.func
  match s.cachedLine kept va with
  | some v => (v.bytes, s)
  | none =>
    let r := s.readVa func s.page va 64 0
    let t := r.2.cmpBytes va 64
    match s.poisonedAt func va 64 with
    | some p => (r.1, t.consumed s.focus.stamp s.focus.sched p)
    | none =>
      let mine := t.vcache.filter (fun v => v.die == die)
      let drop := if mine.length ≥ 1024 then mine.head? else none
      let keep := match drop with | some v => t.vcache.erase v | none => t.vcache
      (r.1, { t with vcache := keep ++ [{ die := die, func := func, va := va, bytes := r.1 }] })

/-- The 64 B lines of a range. -/
def linesIn (va n : Nat) : List Nat :=
  (List.range (if n = 0 then 0 else (va + n - 1) / 64 + 1 - va / 64)).map (fun i => (va / 64 + i) * 64)

/-- A range read through the vocabulary cache. -/
def State.vocabRead (s : State) (kept : List VLine) (va n : Nat) : List Byte × State :=
  let r := (linesIn va n).foldl (fun (acc : List Byte × State) l => let q := acc.2.vocabLine kept l; (acc.1 ++ q.1, q.2)) ([], s)
  (sliceBytes r.1 (va % 64) n, r.2)

/-- The text of a token (R242). -/
def State.tokenText (s : State) (kept : List VLine) (id : Word) : List Byte × State :=
  let dc := s.nowE.dc
  let (e, t) := s.vocabRead kept (dc.vocb + 8 * id.toNat) 8
  t.vocabRead kept (dc.vocb + 8 * dc.v + leAt e 0 4) (leAt e 4 4 % 1024)

/-- The address of the byte of `mask(s, id)` for the state `st` (R240). -/
def Dctx.maskVa (dc : Dctx) (st id : Word) : Nat := dc.mbase + st.toNat * (256 * ceilDiv dc.v 2048) + id.toNat / 8

/-- `mask(s, id)` for the state `st` (R240). -/
def State.grammarMask (s : State) (kept : List VLine) (st id : Word) : Bool × State :=
  let dc := s.nowE.dc
  if st = 0xFFFFFFFF#32 then (false, s)
  else
    let (b, t) := s.vocabRead kept (dc.maskVa st id) 1
    ((b.headD 0#8).getLsbD (id.toNat % 8), t)

/-! ## Stop strings (R244) -/

/-- Whether seen text ends with a stop string; the lowest that does. -/
def stopAt (dc : Dctx) (seen : List Byte) : Option Nat :=
  (List.range 4).find? (fun j =>
    let n := (dc.slen[j]?).getD 0
    decide (0 < n) && decide (n ≤ seen.length) && seen.drop (seen.length - n) == ((dc.strs[j]?).getD []).take n)

/-- The matcher over the text from byte k on. -/
def stopScan (dc : Dctx) (x : List Byte) : Nat → Nat → Dctx
  | 0, _ => { dc with tail := ((dc.tail ++ x).drop ((dc.tail ++ x).length - 31)) }
  | fuel + 1, k =>
    match stopAt dc (dc.tail ++ x.take (k + 1)) with
    | some j =>
      let n : Int := (k : Int) + 1 - ((dc.slen[j]?).getD 0 : Nat)
      if dc.cuts then { dc with hit := true, hitj := j, emit := n.toNat, back := (-n).toNat }
      else { dc with hit := true, hitj := j, emit := k + 1 }
    | none => stopScan dc x fuel (k + 1)

/-- `stop_advance` (R244). -/
def stopAdvance (dc : Dctx) (x : List Byte) : Dctx :=
  let d := { dc with emit := x.length, back := 0 }
  if d.hit then { d with emit := 0 } else stopScan d x x.length 0

/-- STOP (R244, R410): the stop block takes effect in its step. -/
def execStopStr (f : FK) (s : State) : Host.Outcome State Fault Refusal :=
  let a := (s.src f.a.toNat).toNat
  let b := s.sramOld a 136
  let lens := (List.range 4).map (fun j => leAt b (128 + j) 1)
  let bad : Chk := if lens.any (fun n => decide (32 < n)) || leAt b 132 1 > 1 || leAt b 133 3 != 0 then .fault 0x34 0 else .ok
  let chk := (s.ctxFree false).and (s.rangeRd a 136)
  go (s.entry [f.a.toNat] [] (match chk with | .ok => bad | c => c) (fun t => t.modE (fun e => { e.markRead a 136 with dc :=
    { e.dc with strs := (List.range 4).map (fun j => sliceBytes b (32 * j) 32), slen := lens, cuts := leAt b 132 1 == 1,
                tail := [], hit := false } })))

/-! ## The log (R234 to R236) -/

/-- The payload of a register. -/
def Elem.softPay (e : Elem) (r : Soft) : List Byte :=
  match r.kind with
  | 2 => pairBytes r.ids r.wts
  | 3 => e.softVec r
  | _ => []

/-- The position record (R234), with the grammar state after the position. -/
def logRecord (dc : Dctx) (st : Word) (r : Soft) (flags paylen : Nat) : List Byte :=
  leBytes 8 dc.posn ++ leBytes 1 r.kind ++ leBytes 1 r.nc ++ leBytes 1 (if r.kind = 3 then r.hfmt else 0) ++ leBytes 1 flags ++
  leBytes 4 (if r.kind = 1 then (r.ids.headD 0#32).toNat else 0xFFFFFFFF) ++ leBytes 8 r.hash.toNat ++
  leBytes 8 (if paylen = 0 then 0 else dc.ppos) ++ leBytes 4 paylen ++ leBytes 4 st.toNat ++ List.replicate 24 0#8

/-- What stands in the way of logging a position: a record or payload that passes its buffer, or a page that may not be written
(R141, R236). -/
def State.logChk (s : State) (dc : Dctx) (paylen : Nat) : Chk :=
  if 64 * dc.posn + 64 > dc.lsize then .fault 0x40 (dc.lbase + 64 * dc.posn)
  else if paylen ≠ 0 ∧ dc.ppos + paylen > dc.psize then .fault 0x40 (dc.pbase + dc.ppos)
  else (s.issueChk (dc.lbase + 64 * dc.posn) 64 true).and (if paylen = 0 then .ok else s.issueChk (dc.pbase + dc.ppos) paylen true)

/-- A store on the log stream, translated as any stream store is (R236). -/
def State.logStore (s : State) (va : Nat) (bytes : List Byte) : State :=
  ((s.walkStore va bytes.length).stage 8 (.store va bytes 0 [])).cmpBytes va bytes.length

/-- A register logged: the record and its payload as stores on the log stream; POSN and the payload position advance. A COLLAPSE stores its
record when it completes, so that a FENCE that fires before that does not order it (R172; DESIGN CHOICE, log 96). -/
def State.logSoft (s : State) (st : Word) (r : Soft) (flags : Nat) : State :=
  let dc := s.nowE.dc
  let pay := s.nowE.softPay r
  let t := s.logStore (dc.lbase + 64 * dc.posn) (logRecord dc st r flags pay.length)
  let t := if pay = [] then t else t.logStore (dc.pbase + dc.ppos) pay
  t.modE (fun e => { e with dc := { e.dc with posn := (dc.posn + 1) % 2 ^ 64, ppos := dc.ppos + alignUp pay.length 64 } })

/-- PLOG (R235): an empty register logs nothing. -/
def execPlog (f : FK) (s : State) : Host.Outcome State Fault Refusal :=
  let r := s.oldE.soft (stOf f)
  let vec : Chk := if r.kind = 3 then s.rangeRd r.haddr (r.hlen * hfSize r.hfmt) else .ok
  let chk : Chk := if r.kind = 0 then .ok else vec.and (s.logChk s.oldE.dc (s.oldE.softPay r).length)
  go (s.entry [] [] ((s.softFree (stOf f)).and (((s.ctxFree false).and (s.ctxFree true)).and chk)) (fun t =>
    if r.kind = 0 then t
    else
      let t := t.logSoft s.oldE.dc.state r (if r.mark then 4 else 0)
      if r.kind = 3 then t.modE (fun e => e.markRead r.haddr (r.hlen * hfSize r.hfmt)) else t))

/-! ## COLLAPSE (R240) -/

/-- The policy and the predicate of COLLAPSE. -/
def collapsePol (f : FK) : Nat := bitsOf f.param 4 3
def collapseQ (f : FK) : Nat := bitsOf f.param 7 5

/-- The sources of COLLAPSE: θ under the threshold policy alone. -/
def collapseSrcs (f : FK) : List Nat := if collapsePol f = 1 then [f.a.toNat] else []

/-- COLLAPSE at fire: it marks its register, the context fields that it changes, its destination and its predicate as pending, and reads
STATE (R240, R246). The token range is checked of the candidates that ALLOW leaves (DESIGN CHOICE, log 71). -/
def execCollapse (f : FK) (s : State) : Host.Outcome State Fault Refusal :=
  let r := s.oldE.soft (stOf f)
  let ids := (r.ids.zipIdx.filter (fun (p : Word × Nat) => r.allow.getLsbD p.2)).map Prod.fst
  let tok : Chk := if r.kind = 1 ∨ r.kind = 2 then tokChk s.oldE.dc.v ids else .ok
  go (s.entry (collapseSrcs f) [f.d.toNat, 96 + collapseQ f]
      ((s.softFree (stOf f)).and (((s.ctxFree false).and (s.ctxFree true)).and tok)) (fun t =>
    let (n, t) := t.lat
    ((t.startSoft (s.cycle + n) (.collapse f) (s.src f.a.toNat) (BitVec.ofNat 32 (s.code f.d.toNat)) (leBytes 4 s.oldE.dc.state.toNat)
      [.soft (stOf f), .ctx false]).2.markReg f.d.toNat).markReg (96 + collapseQ f)))

/-- STATE as an entry in flight has read it. -/
def SoftOp.state (o : SoftOp) : Word := BitVec.ofNat 32 (leAt o.data 0 4)

/-- The candidates that ALLOW and the mask leave, with their indices. -/
def State.allowed (s : State) (o : SoftOp) (r : Soft) : List (Word × Word × Nat) × State :=
  ((r.ids.zip r.wts).zipIdx).foldl (fun (acc : List (Word × Word × Nat) × State) (p : (Word × Word) × Nat) =>
    if !r.allow.getLsbD p.2 then acc
    else if !s.nowE.dc.gon then (acc.1 ++ [(p.1.1, p.1.2, p.2)], acc.2)
    else
      let m := acc.2.grammarMask o.kept o.state p.1.1
      (if m.1 then acc.1 ++ [(p.1.1, p.1.2, p.2)] else acc.1, m.2)) ([], s)

/-- The candidate of greatest key, ties to lowest id, then lowest index. -/
def argmaxCand (l : List (Word × Word × Nat)) : Option (Word × Word × Nat) :=
  l.foldl (fun (b : Option (Word × Word × Nat)) p => match b with
    | none => some p
    | some q =>
      if FV.lt (softKey q.2.1) (softKey p.2.1) then some p
      else if FV.lt (softKey p.2.1) (softKey q.2.1) then some q
      else if p.1.toNat < q.1.toNat then some p else some q) none

/-- The weight that sampling uses: max(WT, 0), NaN as 0. -/
def sampleW (w : Word) : FV := if (f32 w).isNan || (f32 w).neg then .fin false 0 0 else f32 w

/-- The walk of sampling: the first candidate whose running sum exceeds T. -/
def sampleWalk (t : Dy) : Dy → List (Word × Word × Nat) → Option (Word × Word × Nat)
  | _, [] => none
  | acc, p :: l =>
    let acc := acc.add (sampleW p.2.1).toDy
    if t.lt acc then some p else sampleWalk t acc l

/-- The candidate that sampling chooses for a draw u. -/
def sampleCand (u : Word) (l : List (Word × Word × Nat)) : Option (Word × Word × Nat) :=
  let l := sortBy (fun (p q : Word × Word × Nat) => decide (p.1.toNat < q.1.toNat)) l
  match l.find? (fun p => (sampleW p.2.1).isInf) with
  | some p => some p
  | none =>
    let sum := l.foldl (fun (a : Dy) p => a.add (sampleW p.2.1).toDy) (Dy.ofInt 0)
    if sum.m = 0 then l.head? else sampleWalk (((Dy.ofInt u.toNat).mul sum).scale (-32)) (Dy.ofInt 0) l

/-- What COLLAPSE answers: its destination and its predicate, whose marks go. -/
def State.collapseOut (s : State) (f : FK) (o : SoftOp) (v : Word) (p : Bool) : State :=
  let d := o.b.toNat
  ((((s.unmarkReg d).unmarkReg (96 + collapseQ f)).putRaw d v)).putRaw (96 + collapseQ f) (boolWord p)

/-- The token c chosen: the register, the stop matcher, the log, the answer (R235, R240, R244); event 0x38. -/
def State.collapseTo (s : State) (f : FK) (o : SoftOp) (id : Word) : State :=
  let x := s.tokenText o.kept id
  let t := x.2.modE (fun e => { e with dc := stopAdvance e.dc x.1 })
  let r := t.nowE.hashed (Soft.discrete id)
  match t.logChk t.nowE.dc 0 with
  | .fault c a => s.raiseHere c a
  | .unbacked a => s.under (.unbacked a) (fun t => t)
  | _ =>
    let t := t.modE (fun e => e.setSoft (stOf f) r)
    ((t.logSoft o.state r (2 + if t.nowE.dc.hit then 1 else 0)).collapseOut f o id true).count 0x38

/-- The token that a policy chooses: 0 argmax, 1 threshold, 2 sample; none where the threshold is not met. -/
def State.collapsePick (s : State) (f : FK) (o : SoftOp) (l : List (Word × Word × Nat)) : Option Word :=
  match collapsePol f with
  | 2 => (sampleCand s.nowE.rngNext.1 l).map Prod.fst
  | pol =>
    let th := f32 o.a
    (argmaxCand l).bind (fun p => if pol = 1 ∧ (th.isNan || FV.lt (softKey p.2.1) th) then none else some p.1)

/-- The choice under a policy. A sample draws from the generator when its COLLAPSE completes, after what has set the generator since it
fired (DEDUCED, log 83). -/
def State.collapseChoice (s : State) (f : FK) (o : SoftOp) (l : List (Word × Word × Nat)) : State :=
  let t := if collapsePol f = 2 then s.modE (fun e => e.rngNext.2) else s
  match s.collapsePick f o l with
  | some id => t.collapseTo f o id
  | none => t.collapseOut f o 0xFFFFFFFD#32 false

/-- COLLAPSE completes. -/
def State.collapseDone (s : State) (f : FK) (o : SoftOp) : State :=
  let r := s.nowE.soft (stOf f)
  if r.kind ≠ 1 ∧ r.kind ≠ 2 then s.collapseOut f o 0xFFFFFFFD#32 false
  else
    let a := s.allowed o r
    if a.1 = [] then
      let t := a.2.collapseOut f o 0xFFFFFFFE#32 false
      if s.nowE.dc.evm then t.stageEvent 2 o.state o.stamp else t
    else a.2.collapseChoice f o a.1

/-! ## GMSK and GSTP (R241) -/

/-- GMSK: with no grammar it changes nothing. -/
def execGmsk (f : FK) (s : State) : Host.Outcome State Fault Refusal :=
  go (s.entry [] [] ((s.softFree (stOf f)).and (s.ctxFree true)) (fun t =>
    if !s.oldE.dc.gon then t
    else
      let (n, t) := t.lat
      (t.startSoft (s.cycle + n) (.gmsk f) 0#32 0#32 (leBytes 4 s.oldE.dc.state.toNat) [.soft (stOf f)]).2))

/-- GMSK completes: ALLOW of each masked candidate is cleared. -/
def State.gmskDone (s : State) (f : FK) (o : SoftOp) : State :=
  let r := s.nowE.soft (stOf f)
  let res := r.ids.zipIdx.foldl (fun (acc : BitVec 16 × State) (p : Word × Nat) =>
    let m := acc.2.grammarMask [] o.state p.1
    (if m.1 then acc.1 else acc.1 &&& ~~~(BitVec.ofNat 16 (2 ^ p.2)), m.2)) (r.allow, s)
  res.2.modE (fun e => e.setSoft (stOf f) { r with allow := res.1 })

/-- GSTP: the id is checked in any case; with no grammar nothing else happens. -/
def execGstp (f : FK) (s : State) : Host.Outcome State Fault Refusal :=
  let reset := bitAt f.param 0
  let id := s.src f.a.toNat
  let tok : Chk := if reset then .ok else tokChk s.oldE.dc.v [id]
  go (s.entry (if reset then [] else [f.a.toNat]) [] ((s.ctxFree true).and tok) (fun t =>
    if !s.oldE.dc.gon then t
    else
      let (n, t) := t.lat
      (t.startSoft (s.cycle + n) (.gstp f) id 0#32 [] [.ctx true]).2))

/-- The address of the transition of STATE under an id (R241). -/
def Dctx.transVa (dc : Dctx) (id : Word) : Nat := dc.tbase + 4 * (dc.state.toNat * dc.v + id.toNat)

/-- GSTP completes; a fetched state out of range faults and STATE keeps its value. -/
def State.gstpDone (s : State) (f : FK) (o : SoftOp) : State :=
  let dc := s.nowE.dc
  if bitAt f.param 0 then s.modE (fun e => { e with dc := { e.dc with state := BitVec.ofNat 32 dc.start } })
  else if dc.state = 0xFFFFFFFF#32 then s
  else
    let r := s.vocabRead [] (dc.transVa o.a) 4
    let w : Word := BitVec.ofNat 32 (leNat r.1)
    if w ≠ 0xFFFFFFFF#32 ∧ dc.nstate ≤ w.toNat then r.2.raiseHere 0x36 0
    else r.2.modE (fun e => { e with dc := { e.dc with state := w } })

/-! ## VTXT and PHSH at fire (R410, R411) -/

/-- VTXT (R410): the range is pending until the window closes; the length counts as at most 1,023 B. A bank that is waking delays the
result (R30). -/
def execVtxt (f : FW) (s : State) : Host.Outcome State Fault Refusal :=
  let id := s.src f.a.toNat
  let b := (s.src f.b.toNat).toNat
  go (s.entry [f.a.toNat, f.b.toNat] [f.d.toNat] ((tokChk s.oldE.dc.v [id]).and (s.rangeAt b 1023)) (fun t =>
    let (n, t) := t.lat
    (t.openWin (.text (s.cycle + n) id.toNat b none) f.d.toNat f.win.toNat f.wm.toNat none).modE (fun e =>
      { e with marks := e.marks ++ [.range b 1023] })))

/-- PHSH (R411): the chain block is read at fire, or, from a bank that is waking, as it stands when the bank has woken (R30). -/
def execPhsh (f : FW) (s : State) : Host.Outcome State Fault Refusal :=
  let blk := (s.src f.a.toNat).toNat
  let b := (s.src f.b.toNat).toNat
  let c := s.sramOld b 16
  go (s.entry [f.a.toNat, f.b.toNat] [f.d.toNat] ((s.rangeAt b 16).and ((s.tagChk b 16).and (s.poisonChk b 16))) (fun t =>
    let (n, t) := t.lat
    (t.modE (fun e => e.markRead b 16)).openWin (.prefixOp (s.cycle + n) f.sub.toNat blk b (BitVec.ofNat 64 (leAt c 0 8)) none)
      f.d.toNat f.win.toNat f.wm.toNat none))

/-! ## PRPL (R239) -/

/-- The ME range that a hidden payload at an offset may fill: up to the end of its group, at most 32 KiB. -/
def State.replayRoom (s : State) (a : Nat) : Nat :=
  match s.decl.groupAt a 1 with
  | some g => Nat.min 32768 (g.base + g.bytes - a)
  | none => 0

/-- PRPL (R239). Whether its record is hidden, and how long its payload is, shows only when it completes: until then the range that such a
payload may fill is pending too (R229; DEDUCED, log 72). -/
def execPrpl (f : FK) (s : State) : Host.Outcome State Fault Refusal :=
  let a := (s.src (codeB f)).toNat
  let room := s.replayRoom a
  let free : Chk := if room = 0 then .ok else s.rangeWr a room
  go (s.entry [f.a.toNat, codeB f] [] ((s.softFree (stOf f)).and free) (fun t =>
    let (n, t) := t.lat
    (t.startSoft (s.cycle + n) (.prpl f) (s.src f.a.toNat) (s.src (codeB f)) []
      (.soft (stOf f) :: if room = 0 then [] else [.range a room])).2))

/-- The register that a record and its payload describe (R239 step 1). -/
def replayReg (rec pay : List Byte) (addr : Nat) : Soft :=
  let n := Nat.min (leAt rec 9 1) (Nat.min 16 (pay.length / 8))
  match leAt rec 8 1 with
  | 1 => { Soft.discrete (BitVec.ofNat 32 (leAt rec 12 4)) with mark := true }
  | 2 => { Soft.mixture ((List.range n).map (fun i => BitVec.ofNat 32 (leAt pay (8 * i) 4)))
             ((List.range n).map (fun i => BitVec.ofNat 32 (leAt pay (8 * i + 4) 4))) with mark := true }
  | 3 => { Soft.empty with kind := 3, haddr := addr, hlen := pay.length / hfSize (leAt rec 10 1 % 4), hfmt := leAt rec 10 1 % 4,
                           mark := true }
  | _ => Soft.empty

/-- A record and its payload read through the L2; none where the record leaves the log. A stale record that places its payload outside the
payload buffer has none (R239, R246, R411). -/
def State.readRecord (s : State) (pos : Nat) : Option (List Byte × List Byte × State) :=
  let dc := s.nowE.dc
  if 64 * pos + 64 > dc.lsize then none
  else
    let (rec, t) := s.readVa s.rg.func s.page (dc.lbase + 64 * pos) 64 0
    let t := t.cmpBytes (dc.lbase + 64 * pos) 64
    let off := leAt rec 24 8
    let n := leAt rec 32 4
    if n = 0 then some (rec, [], t)
    else if off + n > dc.psize then some (rec, [], t)
    else
      let (pay, t) := t.readVa s.rg.func s.page (dc.pbase + off) n 0
      some (rec, pay, t.cmpBytes (dc.pbase + off) n)

/-- The first poisoned sector of a record or of its payload, which its delivery consumes (R253). -/
def State.recordPoison (s : State) (pos : Nat) (rec : List Byte) : Option Nat :=
  let dc := s.nowE.dc
  (s.poisonedAt s.rg.func (dc.lbase + 64 * pos) 64).or
    (if leAt rec 32 4 = 0 ∨ leAt rec 24 8 + leAt rec 32 4 > dc.psize then none else s.poisonedAt s.rg.func (dc.pbase + leAt rec 24 8) (leAt rec 32 4))

/-- PRPL completes (R239): a wrong hash leaves the register empty and faults. -/
def State.prplDone (s : State) (f : FK) (o : SoftOp) : State :=
  let pos := o.a.toNat
  let addr := o.b.toNat
  let dc := s.nowE.dc
  match s.readRecord pos with
  | none => s.raiseHere 0x40 (dc.lbase + 64 * pos)
  | some (rec, pay, t) =>
    let t := match s.recordPoison pos rec with
      | some p => t.consumed o.stamp o.sched p
      | none => t
    let r := replayReg rec pay addr
    let hidden := r.kind = 3
    if hidden ∧ addr % 64 ≠ 0 then t.raiseHere 0x34 0
    else if hidden ∧ (s.decl.groupAt addr pay.length).isNone then t.raiseHere 0x43 addr
    else
      let t := if hidden then t.modE (fun e => e.writeSram addr pay (s.decl.locTag e addr)) else t
      let r := t.nowE.hashed r
      if r.kind = 0 ∨ r.hash ≠ BitVec.ofNat 64 (leAt rec 16 8) then
        (t.modE (fun e => e.setSoft (stOf f) Soft.empty)).raiseHere 0x35 0
      else t.modE (fun e => e.setSoft (stOf f) r)

/-! ## Completion (R229) -/

/-- STKH completes: the hash of the vector, unless a write into its range has emptied the register (R232). -/
def State.stkhDone (s : State) (f : FK) : State :=
  s.modE (fun e => let r := e.soft (stOf f); if r.kind = 3 then e.setSoft (stOf f) (e.hashed r) else e)

/-- What a region has staged after its round joins the commit under way: memory items behind those that are still to be performed
(DEDUCED, log 72). -/
def Region.append (g : Region) (cycle : Nat) : Region :=
    let split := fun (l : List Staged) => (l.filter (fun i => i.act.memory), l.filter (fun i => !i.act.memory))
    let a := split g.commit
    let b := split g.now.staged
    { g with commit := a.1 ++ b.1 ++ a.2 ++ b.2, commitOn := true, commitDue := if g.commitOn then g.commitDue else cycle
             now := { g.now with staged := [] } }

/-- What the pending entries of a region that saves have staged joins the commit under way, once the last of them is complete (R88,
R245). -/
def Region.joinCommit (g : Region) (cycle : Nat) : Region :=
  if !g.saves || g.now.staged == [] || g.raised != [] || g.now.elems.any (fun p => p.2.softOps != []) then g else g.append cycle

/-! ## What a completion reads (R137, R141) -/

/-- The lines of a range that the vocabulary cache has to fetch. -/
def State.cacheNeeds (s : State) (kept : List VLine) (va n : Nat) : List (Nat × Nat) :=
  ((linesIn va n).filter (fun l => (s.cachedLine kept l).isNone)).map (fun l => (l, 64))

/-- What the text of a token fetches: its entry of the vocabulary, and its bytes. -/
def State.textNeeds (s : State) (kept : List VLine) (id : Word) : List (Nat × Nat) :=
  let dc := s.nowE.dc
  let e := (s.vocabRead kept (dc.vocb + 8 * id.toNat) 8).1
  s.cacheNeeds kept (dc.vocb + 8 * id.toNat) 8 ++ s.cacheNeeds kept (dc.vocb + 8 * dc.v + leAt e 0 4) (leAt e 4 4 % 1024)

/-- What the masks of some candidates fetch. -/
def State.maskNeeds (s : State) (kept : List VLine) (st : Word) (ids : List Word) : List (Nat × Nat) :=
  if !s.nowE.dc.gon || st == 0xFFFFFFFF#32 then [] else ids.flatMap (fun id => s.cacheNeeds kept (s.nowE.dc.maskVa st id) 1)

/-- What a record and its payload are read from. -/
def State.recordNeeds (s : State) (pos : Nat) : List (Nat × Nat) :=
  let dc := s.nowE.dc
  match s.readRecord pos with
  | none => if 64 * pos + 64 > dc.lsize then [] else [(dc.lbase + 64 * pos, 64)]
  | some (rec, pay, _) => (dc.lbase + 64 * pos, 64) :: (if pay = [] then [] else [(dc.pbase + leAt rec 24 8, pay.length)])

/-- What the completion of an entry in flight reads of memory, in order. -/
def State.softNeeds (s : State) (o : SoftOp) : List (Nat × Nat) :=
  match o.instr with
  | .gmsk f => s.maskNeeds [] o.state (s.nowE.soft (stOf f)).ids
  | .gstp f => if bitAt f.param 0 || s.nowE.dc.state == 0xFFFFFFFF#32 then [] else s.cacheNeeds [] (s.nowE.dc.transVa o.a) 4
  | .prpl _ => s.recordNeeds o.a.toNat
  | .collapse f =>
    let r := s.nowE.soft (stOf f)
    let ids := (r.ids.zipIdx.filter (fun (p : Word × Nat) => r.allow.getLsbD p.2)).map Prod.fst
    if r.kind ≠ 1 ∧ r.kind ≠ 2 then []
    else s.maskNeeds o.kept o.state ids ++ ((s.collapsePick f o (s.allowed o r).1).map (s.textNeeds o.kept)).getD []
  | _ => []

/-- What keeps some reads from being made: the first whose translation misses asks for its walk and waits, as an engine's access does, and
one in a suspended row waits (R137, R141, R161; DEDUCED, log 84). None where all can be made. -/
def State.needsWait (s : State) (stamp : Nat) (sched : Bool) (l : List (Nat × Nat)) : Option State :=
  l.findSome? (fun q => s.engineWait stamp sched q.1 q.2 false)

/-- SOFT_TOKEN_COMPLETE (R229): the operation numbered n of the element in focus completes, once all that it reads is translated, and its
marks go. -/
def execSoftTokenComplete (s : State) : Host.Outcome State Fault Refusal :=
  match s.nowE.softOps.find? (fun o => o.id == s.focus.n) with
  | none => go s
  | some o =>
    let s := { s with focus := { s.focus with stamp := o.stamp, sched := o.sched } }
    match s.needsWait o.stamp o.sched (s.softNeeds o) with
    | some t => go t
    | none =>
    let t := s.modE (fun e => { e with softOps := e.softOps.filter (fun q => q.id != o.id)
                                       marks := e.marks.filter (fun m => !(o.marks.contains m)) })
    let u := (match o.instr with
      | .stkh f => t.stkhDone f
      | .stke _ => t.modE (fun e => e.writeSram o.a.toNat (stkeWords e.dc o) (s.decl.locTag e o.a.toNat))
      | .collapse f => t.collapseDone f o
      | .gmsk f => t.gmskDone f o
      | .gstp f => t.gstpDone f o
      | .prpl f => t.prplDone f o
      | _ => t)
    go (u.modR (fun g => g.joinCommit s.cycle))

end Sys2Proof.Machine
end

