-- ==== Sys2Proof/Machine/Shadow.lean ====
section
/-! DEFINITION. The shadow firing of an entry, and the silent-error mismatch (R210, R211, R399). -/

namespace Sys2Proof

open Sys2Proof.Machine

/-- The operand codes that an entry writes in its step, the predicates of its other fields included. -/
def Instr.dsts (i : Instr) : List Nat :=
  match i with
  | .add f | .sub f | .adds f | .subs f | .min f | .max f | .mul f | .mulh f | .andW f | .orW f | .xorW f | .andn f
  | .shl f | .shr f | .shra f | .rot f | .cmp f | .lea f | .pack f | .fadd f | .fsub f | .fmul f | .fmin f | .fmax f
  | .fcmp f | .fsum f | .fmaxa f | .fscl f | .mov f | .neg f | .abs f | .clz f | .popc f | .brev f | .unpk f | .fabs f
  | .fneg f | .fcls f | .fex2 f | .flg2 f | .frnd f | .cvt f | .cvti f | .cvtf f | .hdrw f | .hdrr f => [f.d.toNat]
  | .addc f => [f.d.toNat, 96 + f.sub.toNat % 8]
  | .bsc f => if f.sub = 0#4 then [] else [f.d.toNat]
  | .mad f | .sel f | .dot4 f | .dot2 f | .fma f | .qnt f | .dqnt f | .fdot f => [f.d.toNat]
  | .movi f | .movhi f | .addi f | .andi f | .ori f | .xori f | .shi f | .bfx f | .bfi f | .shuf f => [f.d.toNat]
  | .ldl f | .fpop f | .lbrd f | .red f | .hepr f => [f.d.toNat]
  | .mclm f | .mkey f | .macc f => [f.d.toNat]
  | .pset f => ((List.range 8).filter (fun j => j ≠ 0 && bitAt f.param j)).map (96 + ·)
  | .cntt f | .tokt f | .bart f | .folv f | .folc f | .folq f | .rowhold f | .rowq f | .stka f | .stkn f | .stkq f | .idnt f
  | .time f | .pmrd f | .cfgr f => [f.d.toNat]
  | .rngs f => if bitAt f.param 2 then [f.d.toNat] else []
  | .collapse f => f.d.toNat :: (if collapseQ f = 0 then [] else [96 + collapseQ f])
  | .sigq f => f.d.toNat :: (if bitsOf f.param 3 1 = 0 then [] else [96 + bitsOf f.param 3 1])
  | _ => []

end Sys2Proof

namespace Sys2Proof.Machine

open Sys2Proof

/-- The classes of operation of R210 -/
inductive ShadowClass where
  | linear                -- integer add, subtract, compare, min, max, logic, select, pack, shuffle
  | product               -- integer multiply
  | sum                   -- MAD, dot products: a sum with products, each of which is realigned before it is added
  | quotient              -- integer divide
  | remainder
  | field                 -- shifts, rotates, bit fields, CLZ, POPC, BREV
  | float                 -- every floating-point operation and conversion
  | tile                  -- matrix tile operations
  | data                  -- moves, memory, stream and token entries, and whatever else fires
  deriving DecidableEq, Repr

/-- Whether operand k, in the order of the entry's operands, is shifted one bit toward the most significant end (R210). Of a tile operation
they are A, B and the accumulator's prior value. A floating-point operand keeps its value: its exponent falls as its significand
moves. -/
def ShadowClass.shifts (c : ShadowClass) (k : Nat) : Bool :=
  match c with
  | .linear | .data | .quotient | .remainder => true
  | .product | .sum | .field => k == 0
  | .tile => k != 1
  | .float => false

/-- An operand as the shadow datapath takes it. -/
def ShadowClass.operand (c : ShadowClass) (k : Nat) (v : Int) : Int := if c.shifts k then 2 * v else v

/-- Whether the result stands one bit higher in the shadow than in the primary (R210): a quotient does not, nor a sum whose products have
been realigned, and a floating-point result needs no realignment. -/
def ShadowClass.raised (c : ShadowClass) : Bool :=
  match c with
  | .quotient | .sum | .float => false
  | _ => true

/-- The 32 bits of a shadow result of 33 that are compared: bits [32:1] where it is realigned (R210). -/
def ShadowClass.realign (c : ShadowClass) (r : BitVec 33) : Word := if c.raised then r.extractLsb' 1 32 else r.extractLsb' 0 32

/-- What an operation computes of operands: f, its products, plus g, what is added to them. -/
def fireVal (f g : List Int → Int) (xs : List Int) : Int := f xs + g xs

/-- What the shadow computes of the shifted operands: in a sum the products alone are shifted right again (R210). -/
def ShadowClass.shadowVal (c : ShadowClass) (f g : List Int → Int) (xs : List Int) : Int :=
  let ys := xs.mapIdx c.operand
  if c = .sum then f ys / 2 + g ys else fireVal f g ys

/-- The result of the primary datapath, with the lanes `up` flipped. -/
def primaryFire (f g : List Int → Int) (xs : List Int) (up : Word) : Word := BitVec.ofInt 32 (fireVal f g xs) ^^^ up

/-- The realigned result of the shadow datapath, one bit wider, with the lanes `up` flipped (R210). -/
def ShadowClass.shadowFire (c : ShadowClass) (f g : List Int → Int) (xs : List Int) (up : BitVec 33) : Word :=
  c.realign (BitVec.ofInt 33 (c.shadowVal f g xs) ^^^ up)

/-- Whether the two results of a firing differ in a bit (R211). An operation in which the shift of the operands doubles the result, or
leaves it, gives equal results but for the flipped lanes (`Laws/Shadow.lean`): so the comparison is of those alone, whatever the
values (DEDUCED, log 77). Flips that meet in the comparison are found by nothing: the primary's result is written with them
(`State.flipped`). -/
def ShadowClass.differs (c : ShadowClass) (prim : Word) (shadow : BitVec 33) : Bool := c.realign shadow != prim

/-- The class of an instruction (R210): float for what computes with floating-point values or converts them, in folios, headers, the slot port
and soft-token registers too. What the table does not name is compared as data that moves (DEDUCED, log 77). -/
def shadowClass : Instr → ShadowClass
  | .add _ | .addi _ | .sub _ | .adds _ | .subs _ | .neg _ | .abs _ | .min _ | .max _ | .andW _ | .orW _ | .xorW _ | .andn _ | .andi _
  | .ori _ | .xori _ | .cmp _ | .sel _ | .pset _ | .lea _ | .addc _ | .pack _ | .unpk _ | .shuf _ => .linear
  | .mul _ | .mulh _ => .product
  | .mad _ | .dot4 _ | .dot2 _ => .sum
  | .div _ => .quotient
  | .rem _ => .remainder
  | .shl _ | .shr _ | .shra _ | .rot _ | .shi _ | .clz _ | .popc _ | .brev _ | .bfx _ | .bfi _ => .field
  | .fadd _ | .fsub _ | .fmul _ | .fma _ | .fmin _ | .fmax _ | .fabs _ | .fneg _ | .fcmp _ | .fcls _ | .fdiv _ | .fsqrt _ | .fex2 _ | .flg2 _
  | .frnd _ | .cvt _ | .cvti _ | .cvtf _ | .qnt _ | .dqnt _ | .bsc _ | .bfly _ | .fsum _ | .fdot _ | .fmaxa _ | .fscl _ => .float
  | .fold _ | .stka _ | .stkn _ | .stke _ | .collapse _ => .float
  | .hdrr f => if f.sub.toNat < 2 then .float else .data
  | .mst f => if bitsOf f.opt 1 0 = 0 then .float else .data
  | .red f => if f.mode = 1#4 ∨ f.mode = 6#4 ∨ f.mode = 7#4 then .float else .linear
  | .mma _ | .mmas _ | .mctr _ | .msrt _ | .folm _ => .tile
  | _ => .data

/-- What the environment flips in a firing of the element in focus in this cycle, or in the landing of a tile operation there. -/
def State.upsetHere (s : State) (tile : Bool) : Option Upset :=
  s.upsets.find? (fun u => u.cycle == s.cycle && u.page == s.page && u.x == s.focus.x && u.y == s.focus.y && u.tile == tile)

/-- Whether the comparison of a firing, or of the landing of a tile operation, finds a difference (R210, R211, R399). -/
def State.mismatch (s : State) (i : Instr) (tile : Bool) : Bool :=
  (shadowClass i == .tile) == tile && (match s.upsetHere tile with
    | some u => (shadowClass i).differs u.prim u.shadow
    | none => false)

/-! ## The primary result, with the lanes that an upset has flipped (R211; DEDUCED, log 87) -/

/-- The word that a destination has received, with some lanes flipped. -/
def State.flipDst (s : State) (d : Nat) (m : Word) : State :=
  let c := s.code d
  if c < 32 then s.modE (fun e => { e with g := e.g.set c (e.g.get 0#32 c ^^^ m) })
  else if c < 64 then s.modE (fun e => { e with k := e.k.set (c - 32) (e.k.get 0#32 (c - 32) ^^^ m) })
  else if 68 ≤ c ∧ c < 72 then
    match s.rg.link s.focus.sg s.focus.x s.focus.y (c - 68) with
    | .live sg x y sd _ => s.modEAt sg x y (fun e =>
        let q := e.inq.get [] sd
        { e with inq := e.inq.set sd (q.dropLast ++ q.getLast?.toList.map (· ^^^ m)) })
    | _ => s
  else if 97 ≤ c ∧ c < 104 ∧ m.getLsbD 0 then
    s.modEAt s.focus.sg s.predX s.focus.y (fun e => { e with p := e.p.set (c - 96) (!(e.p.get false (c - 96))) })
  else s

/-- The first bytes of some, at most a word, with lanes flipped. -/
def flipBytes (b : List Byte) (m : Word) : List Byte := (b.zip (leBytes 4 m.toNat)).map (fun p => p.1 ^^^ p.2) ++ b.drop 4

/-- Bytes that stand in an ME, at most a word, with lanes flipped. -/
def Elem.flipSram (e : Elem) (a n : Nat) (m : Word) : Elem := { e with sram := e.sram.writeN a (flipBytes (e.sram.readN a n) m) }

/-- A staged item with lanes of its first data word flipped. -/
def Staged.flip (i : Staged) (m : Word) : Staged :=
  { i with act := match i.act with
      | .store va b h bad => .store va (flipBytes b m) h bad
      | .row va b => .row va (flipBytes b m)
      | .host ha b => .host ha (flipBytes b m)
      | a => a }

/-- What the firing of an instruction at `at_` has written, with lanes flipped: the words of its destinations, the quotient that it has given to
its window, the first word of what it stores. -/
def State.flipFired (t at_ : State) (i : Instr) (m : Word) : State :=
  let t := i.dsts.foldl (fun u c => u.flipDst c m) t
  let old := at_.rg.now.staged.length
  let t := t.modNow (fun f => { f with staged := f.staged.take old ++ (f.staged.drop old).map (·.flip m) })
  match i with
  | .div _ | .rem _ | .fdiv _ | .fsqrt _ => t.modE (fun e => { e with wins := e.wins.modify at_.nowE.freeLatch (fun w =>
      { w with kind := match w.kind with | .result due v => .result due (v ^^^ m) | k => k }) })
  | .stl f => t.modE (fun e => e.flipSram (at_.localWrite (at_.localOff f) 0 (localSize f.mode)).2.1 (localSize f.mode) m)
  | .fpush f => (match at_.group f.mode.toNat with
    | some g =>
      let k := at_.nowE.grps.get Grp.zero g.i
      t.modE (fun e => (e.flipSram (g.fifoAddr k.head k.q.length) 4 m).modGrp g.i (fun k =>
        { k with q := k.q.dropLast ++ k.q.getLast?.toList.map (· ^^^ m) }))
    | none => t)
  | .lbsh f => (match at_.group f.mode.toNat with
    | some g => t.modE (fun e => e.flipSram (g.lineAddr (at_.grp g.i).hl (at_.grp g.i).col) 4 m)
    | none => t)
  | _ => t

/-- What the landing of a tile operation has written, with lanes of its first word flipped. -/
def State.flipTile (t : State) (i : Instr) (m : Word) : State :=
  let acc := fun (n : Nat) => t.modE (fun e => { e with acc := e.acc.set (n * 256) (e.acc.get 0#32 (n * 256) ^^^ m) })
  match i with
  | .mma f => acc f.acc.toNat
  | .mmas f => acc f.acc.toNat
  | .mctr f => acc f.acc.toNat
  | .folm f => acc f.acc.toNat
  | .msrt _ => t.modE (fun e => { e with sortK := e.sortK.head?.toList.map (· ^^^ m) ++ e.sortK.tail })
  | _ => t

/-- The primary's result as it is written: with the lanes that the environment has flipped. -/
def State.flipped (t at_ : State) (i : Instr) (tile : Bool) : State :=
  match at_.upsetHere tile with
  | some u => if tile then t.flipTile i u.prim else t.flipFired at_ i u.prim
  | none => t

/-- The outcome of a firing after its comparison: the primary's result is written, and a mismatch is raised at the entry, whose round is
voided (R211, R251). The element and the stamp are those of `at_`. -/
def State.compared (t at_ : State) (i : Instr) (tile : Bool) : State :=
  let u := t.flipped at_ i tile
  if at_.mismatch i tile then u.raise (at_.fltHere 0x50 0 0) else u

end Sys2Proof.Machine
end

