-- ==== Sys2Proof/Machine/Folio.lean ====
section
/-! DEFINITION. Folio entries, 0xD0 to 0xD7, and the landing of node operations (R213 to R225, R399, R402 to R405). -/

namespace Sys2Proof.Machine

open Sys2Proof

/-! ## Folios (R213, R216, R403) -/

/-- The key of a folio (see `Fabric`). -/
def folioKey (sg fx : Nat) : Nat := sg * 4 + fx

/-- A folio that is not declared. -/
def FolioDecl.none : FolioDecl :=
  { layer := 0, hx := 0, hy := 0, mx := 0, my := 0, keep := false, n := 32, m := 16, buf := 0, off := 0, ext := 0,
    tau := 0#32, dmax := 0#32, nref := 0 }

/-- Folio fx of the signature in focus as declared. -/
def State.folioDecl (s : State) (fx : Nat) : FolioDecl := (s.sig.decl.folios[fx]?).getD FolioDecl.none

/-- The folio as it stood at the end of the previous cycle. -/
def State.folio (s : State) (fx : Nat) : Folio := s.rg.old.folios.get Folio.zero (folioKey s.focus.sg fx)

/-- The folio changed. -/
def Fabric.modFolio (f : Fabric) (sg fx : Nat) (g : Folio → Folio) : Fabric :=
  { f with folios := f.folios.set (folioKey sg fx) (g (f.folios.get Folio.zero (folioKey sg fx))) }

/-- The folio of the signature in focus changed. -/
def State.modFolio (s : State) (fx : Nat) (g : Folio → Folio) : State := s.modNow (fun f => f.modFolio s.focus.sg fx g)

/-- The committed version of a layer of the region's tenant, with the stores performed in this cycle (R192, R217). -/
def State.version (s : State) (layer : Nat) : Word :=
  (((s.tenant s.rg.func).bind (fun t => t.folios.find? (fun q => q.layer == layer))).map (·.version)).getD 1#32

/-- Whether the folio's FOLD is pending in its home ME (R401). -/
def State.folding (s : State) (fx : Nat) : Bool :=
  let d := s.folioDecl fx
  (s.rg.old.elem s.focus.sg d.hx d.hy).marks.contains (.folio fx)

/-- What stands in the way of reaching n bytes of a folio's state in its home ME from an absolute offset: a bank that is waking
(R30). -/
def State.homeAwake (s : State) (fx a n : Nat) : Chk :=
  let d := s.folioDecl fx
  if (s.rg.old.elem s.focus.sg d.hx d.hy).asleep a n then .stall else .ok

/-- What stands in the way of reading n bytes of a folio's state in its home ME: a waking bank, or poison (R30, R223, R253). -/
def State.homeChk (s : State) (fx a n : Nat) : Chk :=
  let d := s.folioDecl fx
  (s.homeAwake fx a n).and (if (s.rg.old.elem s.focus.sg d.hx d.hy).rangePoison a n then .fault 0x70 0 else .ok)

/-- What stands in the way of an entry that reads control fields, which take the 64 bytes before XP: poison in them, which it consumes
(R213, R216, R223). -/
def State.ctlChk (s : State) (fx : Nat) : Chk := s.homeChk fx ((s.folio fx).xOff - 64) 64

/-- What stands in the way of an entry that reads PH: a pending FOLD, or a phase other than the one R218 requires. -/
def State.phase? (s : State) (fx want : Nat) : Chk :=
  if s.folding fx then .stall else (s.ctlChk fx).and (if (s.folio fx).ph ≠ want then .fault 0x32 0 else .ok)

/-- The folio number of a K-format folio entry. -/
def fxOf (f : FK) : Nat := bitsOf f.param 1 0

/-- FOLB (R218). -/
def execFolb (f : FK) (s : State) : Host.Outcome State Fault Refusal :=
  go (s.entry [] [] (s.phase? (fxOf f) 0) (fun t => t.modFolio (fxOf f) (fun k =>
    { k with kill := false, nfin := false, ph := 1, tc := 0 })))

/-- FULL as FOLV decides it (R218). -/
def folioFull (d : FolioDecl) (k : Folio) (ver : Word) : Bool :=
  !k.valid || k.ver != ver || k.refresh || FV.lt (f32 d.dmax) (f32 k.drift) || (d.nref != 0 && decide (d.nref ≤ k.cnt))

/-- FOLV (R218): d ← FULL; events 0x30 and 0x31 count it. -/
def execFolv (f : FK) (s : State) : Host.Outcome State Fault Refusal :=
  let d := s.folioDecl (fxOf f)
  let v := s.version d.layer
  let full := folioFull d (s.folio (fxOf f)) v
  go (s.entry [] [f.d.toNat] (s.phase? (fxOf f) 1) (fun t =>
    let t := ((t.put f.d.toNat (boolWord full)).modFolio (fxOf f) (fun k =>
      { k with vlat := v, full := full, refresh := false, ph := 2 })).count 0x30
    if full then t.count 0x31 else t))

/-! ## FOLD (R218, R403) -/

/-- Bytes of a folio's state. -/
def FolioDecl.bytes (f : FolioDecl) : Nat := 64 + 4 * (f.n + f.m)

/-- The place of XP and of YP, and the end of the state. -/
def Folio.yOff (k : Folio) (d : FolioDecl) : Nat := k.xOff + 4 * d.n
def Folio.endOff (k : Folio) (d : FolioDecl) : Nat := k.xOff + 4 * d.n + 4 * d.m

/-- Whether a range of the element in focus meets the state of one of its folios. -/
def State.meetsFolio (s : State) (a size : Nat) : Bool :=
  (List.range s.sig.decl.folios.length).any (fun i =>
    let d := s.folioDecl i
    let k := s.folio i
    d.hx == s.focus.x && d.hy == s.focus.y && decide (a < k.endOff d) && decide (k.xOff - 64 < a + size))

/-- One element of FOLD: r and s for x, XP (R218). -/
def foldElem (full : Bool) (tau x xp : Word) : FV × Word :=
  if full then (f32 x, 0#32)
  else
    let r := FV.sub 0 (f32 x) (f32 xp)
    if FV.lt r.abs (f32 tau) then (.fin false 0 0, roundRneF32 r &&& 0x7FFFFFFF#32) else (r, 0#32)

/-- The result of FOLD over one block of 32: the burst bytes, the new XP, and s. -/
def foldBlock (full : Bool) (tau : Word) (b : Nat) (xs xps : List Word) : List Byte × List Word × List Word :=
  let rs := (xs.zip xps).map (fun (p : Word × Word) => foldElem full tau p.1 p.2)
  let sc := (blockScale 1 (rs.map Prod.fst)).1
  let hdr : Word := BitVec.ofNat 32 (sc * 2 ^ 24 + 1 * 2 ^ 12 + 1 * 2 ^ 8 + b % 256)
  let scale : FV := if sc = 0xFF then .nan else FV.scale (.fin false 1 0) ((sc : Int) - 127)
  let qs := rs.map (fun (p : FV × Word) => qntCode 1 0 0 p.1 scale)
  let xp := (qs.zip xps).map (fun (p : Nat × Word) =>
    let dq := scaledValue 1 hdr p.1
    if full then roundRneF32 dq else roundRneF32 (FV.add 0 (f32 p.2) dq))
  (leBytes 4 hdr.toNat ++ qs.map (BitVec.ofNat 8), xp, rs.map Prod.snd)

/-- FOLD over every block (DEDUCED, log 45). -/
def foldAll (full : Bool) (tau : Word) (nb : Nat) (xs xps : List Word) : List Byte × List Word × List Word :=
  (List.range nb).foldl (fun (acc : List Byte × List Word × List Word) b =>
    let r := foldBlock full tau b ((xs.drop (32 * b)).take 32) ((xps.drop (32 * b)).take 32)
    (acc.1 ++ r.1, acc.2.1 ++ r.2.1, acc.2.2 ++ r.2.2)) ([], [], [])

/-- Words of bytes. -/
def bytesWords (l : List Byte) : List Word := (List.range (l.length / 4)).map (wordAt l)

/-- What a FOLD marks as pending: the folio, XP, and its burst area. -/
def foldMarks (fx : Nat) (k : Folio) (n area : Nat) : List Pend :=
  [.folio fx, .range k.xOff (4 * n), .range area (36 * (n / 32))]

/-- FOLD (R403): x and XP are read at fire; the result is written 8 + n/8 cycles later. -/
def execFold (f : FM) (s : State) : Host.Outcome State Fault Refusal :=
  let fx := bitsOf f.mode 1 0
  let d := s.folioDecl fx
  let k := s.folio fx
  let a := alignDown (s.src f.d.toNat).toNat 4
  let off := bitsOf f.off 17 0
  let x := s.localRead a 0 (4 * d.n)
  let w := s.localWrite off 0 (36 * (d.n / 32))
  let overX : Chk := if s.meetsFolio x.2 (4 * d.n) then .fault 0x43 a else .ok
  let overB : Chk := if s.meetsFolio w.2.1 (36 * (d.n / 32)) then .fault 0x43 off else .ok
  let meets := overX.and overB
  let mem : Chk := (x.1.and (s.poisonChk x.2 (4 * d.n))).and ((s.homeChk fx k.xOff (4 * d.n)).and (w.1.and meets))
  go (s.entry [f.d.toNat] [] ((s.phase? fx 2).and mem) (fun t =>
    (t.inFlight (s.cycle + 8 + d.n / 8) (.fold f) false [] [] [] 0#32 w.2.1
      (bytesWords (s.sramOld x.2 (4 * d.n)) ++ bytesWords (s.sramOld k.xOff (4 * d.n))) k.full).modE
      (fun e => { e.markRead x.2 (4 * d.n) with marks := e.marks ++ foldMarks fx k d.n w.2.1 })))

/-- The number of the operand-store group that holds an absolute offset. -/
def ElemDecl.storeAt (d : ElemDecl) (a : Nat) : Nat :=
  ((d.groups.find? (fun g => g.mode == .store && g.base ≤ a && a < g.base + g.bytes)).map (·.i)).getD 0

/-- FOLD_COMPLETE (R218, R403): the FOLD numbered n of the home ME in focus writes its bursts, XP, PEND and PH. -/
def execFoldComplete (s : State) : Host.Outcome State Fault Refusal :=
  match s.nowE.node.find? (fun o => o.id == s.focus.n) with
  | none => go s
  | some o =>
    match o.instr with
    | .fold f =>
      let fx := bitsOf f.mode 1 0
      let d := s.folioDecl fx
      let k := s.rg.now.folios.get Folio.zero (folioKey s.focus.sg fx)
      let xs := o.z.take d.n
      let xps := o.z.drop d.n
      let r := foldAll o.full d.tau (d.n / 32) xs xps
      let nfin := (xs ++ xps).any (fun v => !(f32 v).isFinite)
      let g := s.decl.storeAt o.y
      let gx := s.decl.storeAt k.xOff
      let t := s.modE (fun e =>
        let e := { e with node := e.node.filter (fun q => q.id != o.id)
                          marks := e.marks.filter (fun m => !((foldMarks fx k d.n o.y).contains m)) }
        let e := e.writeSram o.y r.1 (.loc (e.grps.get Grp.zero g).e)
        e.writeSram k.xOff (wordBytes r.2.1) (.loc (e.grps.get Grp.zero gx).e))
      go (t.modFolio fx (fun k => { k with nfin := k.nfin || nfin, pend := fsumTreeF32 r.2.2, ph := 3 }))
    | _ => go s

/-! ## FOLM (R404) -/

/-- The folio whose matrix CE is in focus. -/
def State.folmFx (s : State) : Nat :=
  (s.sig.decl.folios.findIdx? (fun d => d.mx == s.focus.x && d.my == s.focus.y)).getD 0

/-- Tiles of an invocation: NT. -/
def FolioDecl.tiles (d : FolioDecl) : Nat := d.m / 16 * (d.n / 32)

/-- FOLM (R404): one tile of the folio; the burst block is read through its side. -/
def execFolm (f : FX) (s : State) : Host.Outcome State Fault Refusal :=
  let fx := s.folmFx
  let d := s.folioDecl fx
  let k := s.folio fx
  let side := bitsOf f.opt 1 0
  let home := s.sideElem side
  let r := s.sideRead side (alignDown (s.src f.d.toNat).toNat 4) 0 36
  let b := home.sram.readN r.2 36
  let h := wordAt b 0
  let i := k.tc % (d.n / 32)
  let o := k.tc / (d.n / 32)
  let order : Chk := (s.phase? fx 3).and (if k.tc = d.tiles then .fault 0x32 0 else .ok)
  let head : Chk := if bitsOf h 10 8 ≠ 1 ∨ bitsOf h 7 0 ≠ i % 256 then .fault 0x31 0 else .ok
  let yp := if i = 0 then bytesWords (home.sram.readN (k.yOff d + 64 * o) 64) else []
  let prior := if i = 0 && !k.full then s.homeChk fx (k.yOff d + 64 * o) 64 else .ok
  let ecc := ((s.slotChk f.asl.toNat 1).and (s.accChk f.acc.toNat (i != 0))).and prior
  let chk : Chk := match order with | .ok => (r.1.and head).and ecc | c => c
  go (s.entry [f.d.toNat] [] chk (fun t =>
    ((t.nodeOp 68 (.folm f) [f.acc.toNat] (s.oldE.slot f.asl.toNat) b 0#32 k.tc yp k.full).modFolio fx
      (fun k => { k with tc := k.tc + 1 })).modSide side (fun e => e.markRead r.2 36)))

/-- Column 0 of a FOLM tile over the accumulator as it stands (R404). -/
def folmColumn (mfa : Nat) (e : Elem) (f : FX) (first : Bool) (o : NodeOp) : List Word :=
  let w := mfWidth mfa
  (List.range 16).map (fun r =>
    let prior : FV := if first then (if o.full then .fin false 0 0 else f32 ((o.z[r]?).getD 0#32)) else f32 (e.accAt f.acc.toNat (16 * r))
    tileSum prior ((List.range 32).map (fun j =>
      (mfValue mfa (elemCode o.a w (r * 32 + j)), scaledValue 1 (wordAt o.b 0) (leAt o.b (4 + j) 1)))))

/-- A FOLM lands: the accumulator, YP after the last input block, and PH after the last tile. -/
def State.landFolm (s : State) (f : FX) (o : NodeOp) : State :=
  let fx := s.folmFx
  let d := s.folioDecl fx
  let k := s.rg.now.folios.get Folio.zero (folioKey s.focus.sg fx)
  let i := o.y % (d.n / 32)
  let col := folmColumn (cfMfa s.decl.cfmt) s.nowE f (i == 0) o
  let t := s.modE (fun e => e.setAcc f.acc.toNat (col.flatMap (fun v => v :: List.replicate 15 0#32)))
  let t := if i + 1 = d.n / 32 then
      t.modEAt s.focus.sg d.hx d.hy (fun e =>
        let gx := (s.sig.decl.elem d.hx d.hy).storeAt k.xOff
        e.writeSram (k.yOff d + 64 * (o.y / (d.n / 32))) (wordBytes col) (.loc (e.grps.get Grp.zero gx).e))
    else t
  if o.y + 1 = d.tiles then t.modFolio fx (fun k => { k with ph := 4 }) else t

/-- NODE_OPERATION_LAND (R394, R399, R404): the node operation numbered n of the CE in focus writes its results, and the shadow's are
compared with them. -/
def execNodeOperationLand (s : State) : Host.Outcome State Fault Refusal :=
  match s.nowE.node.find? (fun o => o.id == s.focus.n && o.tile) with
  | none => go s
  | some o =>
    let t := s.modE (fun e => { e with node := e.node.filter (fun q => q.id != o.id) })
    let u := match o.instr with
      | .folm f => t.landFolm f o
      | _ => t.modE (fun e => e.landNode s.decl.cfmt o)
    go (u.compared { s with focus := { s.focus with stamp := o.stamp, sched := o.sched } } o.instr true)

/-! ## FOLC, FOLR, FOLI, FOLQ (R218, R221, R405) -/

/-- Whether FOLC keeps the result. -/
def folioKeeps (k : Folio) (ver : Word) : Bool := !k.kill && !k.nfin && ver == k.vlat

/-- The folio after FOLC. -/
def folioAfterC (k : Folio) (ver : Word) : Folio :=
  if folioKeeps k ver then
    if k.full then { k with ver := k.vlat, valid := true, drift := 0#32, cnt := 1, ph := 0 }
    else { k with ver := k.vlat, valid := true, drift := roundRneF32 (FV.add 0 (f32 k.drift) (f32 k.pend)),
                  cnt := Nat.min (k.cnt + 1) 65535, ph := 0 }
  else { k with valid := false, ph := 0 }

/-- FOLC (R218): d ← p. -/
def execFolc (f : FK) (s : State) : Host.Outcome State Fault Refusal :=
  let v := s.version (s.folioDecl (fxOf f)).layer
  go (s.entry [] [f.d.toNat] (s.phase? (fxOf f) 4) (fun t =>
    (t.put f.d.toNat (boolWord (folioKeeps (s.folio (fxOf f)) v))).modFolio (fxOf f) (fun k => folioAfterC k v)))

/-- FOLR (R221). -/
def execFolr (f : FK) (s : State) : Host.Outcome State Fault Refusal :=
  go (s.entry [] [] (s.homeAwake (fxOf f) ((s.folio (fxOf f)).xOff - 64) 64) (fun t =>
    t.modFolio (fxOf f) (fun k => { k with refresh := true })))

/-- FOLI (R221): it reads PH, which a pending FOLD holds. -/
def execFoli (f : FK) (s : State) : Host.Outcome State Fault Refusal :=
  let started := (s.folio (fxOf f)).ph ≠ 0
  go (s.entry [] [] (if s.folding (fxOf f) then .stall else s.ctlChk (fxOf f)) (fun t =>
    t.modFolio (fxOf f) (fun k => { k with valid := false, kill := k.kill || decide started })))

/-- The field that FOLQ reads (R216, R405). -/
def folioField (d : FolioDecl) (k : Folio) (ver : Word) (i : Nat) : Word :=
  match i with
  | 0 => boolWord k.valid
  | 1 => boolWord k.refresh
  | 2 => boolWord k.kill
  | 3 => boolWord k.full
  | 4 => boolWord k.nfin
  | 5 => BitVec.ofNat 32 k.ph
  | 6 => k.ver
  | 7 => k.vlat
  | 8 => k.drift
  | 9 => k.pend
  | 10 => BitVec.ofNat 32 k.cnt
  | 11 => d.tau
  | 12 => d.dmax
  | 13 => BitVec.ofNat 32 d.nref
  | 14 => BitVec.ofNat 32 d.layer
  | _ => ver

/-- FOLQ (R405): the fields that a FOLD writes are pending with it. -/
def execFolq (f : FK) (s : State) : Host.Outcome State Fault Refusal :=
  let i := bitsOf f.param 8 2
  let d := s.folioDecl (fxOf f)
  go (s.entry [] [f.d.toNat] (if s.folding (fxOf f) && (i == 4 || i == 5 || i == 9) then .stall
      else if i ≤ 10 then s.ctlChk (fxOf f) else .ok) (fun t =>
    t.put f.d.toNat (folioField d (s.folio (fxOf f)) (s.version d.layer) i)))

end Sys2Proof.Machine
end

