-- ==== Sys2Proof/Machine/Places.lean ====
section
/-! DEFINITION. Where buffers lie in device DRAM, and what a retirement empties (R62, R79, R431). -/

namespace Sys2Proof.Machine

open Sys2Proof

/-! ## Places (R79, R431; DESIGN CHOICE, log 13) -/

/-- The unit of backing. -/
def unitBytes : Nat := 2 ^ 21

/-- Bytes of stored form that a buffer takes: 1,088 for each 1 KiB block of a compressible one (R151). -/
def storedBytes (cmp size : Nat) : Nat := if cmp = 0 then size else ceilDiv size 1024 * 1088

/-- The 2 MiB units of a buffer. -/
def Buffer.nUnits (b : Buffer) : Nat := ceilDiv (storedBytes b.cmp b.size) unitBytes

/-- The units in part j of n. -/
def partUnits (units n j : Nat) : Nat := (units + n - 1 - j) / n

/-- The place of unit k. -/
def Buffer.unitPa (b : Buffer) (k : Nat) : Nat :=
  (b.bases[k % b.bases.length]?).getD 0 + k / b.bases.length * unitBytes

/-- Whether unit k has a translation (R431). -/
def Buffer.unitBacked (b : Buffer) (k : Nat) : Bool := !b.sparse || b.backed.contains k

/-- The units that have translations. -/
def Buffer.unitsBacked (b : Buffer) : List Nat := if b.sparse then b.backed else List.range b.nUnits

/-- The device ranges that a buffer takes, as (base, length). -/
def Buffer.ranges (b : Buffer) : List (Nat × Nat) :=
  b.bases.zipIdx.map (fun p => (p.1, partUnits b.nUnits b.bases.length p.2 * unitBytes))

/-- The tenant and the virtual address behind a device address (R217). -/
def State.virtOf (s : State) (pa : Nat) : Option (Nat × Nat) :=
  s.bufs.vals.findSome? (fun b => (b.bases.zipIdx.findSome? (fun p =>
    let u := (pa - p.1) / unitBytes
    let k := p.2 + u * b.bases.length
    if p.1 ≤ pa ∧ k < b.nUnits ∧ b.unitBacked k then some (b.func, b.va + k * unitBytes + (pa - p.1) % unitBytes) else none)))

/-- The virtual range under which a range of a buffer is stored: all slots of a compressible buffer (R151). -/
def State.storedRange (s : State) (func : Nat) (r : Nat × Nat) : Nat × Nat :=
  match s.bufAt func r.1 with
  | some b => if b.cmp = 0 then r else (b.va, storedBytes b.cmp b.size)
  | none => r

/-- Whether a line lies in some virtual ranges of a tenant, as they are stored. -/
def State.lineIn (s : State) (func : Nat) (l : List (Nat × Nat)) (ln : Nat) : Bool :=
  (s.virtOf (ln * 256)).any (fun p => p.1 == func && l.any (fun r => decide (r.1 ≤ p.2) && decide (p.2 < r.1 + r.2)))

/-- Device bytes written whole, sector by sector: they hold no poison any more but in the sectors at the offsets `bad` (R253). -/
def State.markSectors (s : State) (pa n : Nat) (bad : List Nat) : State :=
  { s with
    poison := bad.foldl (fun l o => insertUniq ((pa + o) / 64) l)
      (s.poison.filter (fun k => !(decide (pa / 64 ≤ k) && decide (k < (pa + n) / 64)))) }

/-- The offsets of the poisoned sectors in some device bytes. -/
def State.badSectors (s : State) (pa n : Nat) : List Nat :=
  ((List.range (n / 64)).map (64 * ·)).filter (fun o => s.poison.contains ((pa + o) / 64))

/-- What is dirty in some virtual ranges of a tenant, as they are stored, written to DRAM (R170). -/
def State.cleanThrough (s : State) (func : Nat) (l : List (Nat × Nat)) : State :=
  s.flushLines (fun x => s.lineIn func l x.ln) true false

/-- The end of each stack that firmware keeps for tables, folio areas, prefix tables and saved regions (DESIGN CHOICE, log 13). -/
def firmwareRange (stack : Nat) : Nat × Nat := ((stack + 1) * Config.stackBytes - 2 ^ 22, 2 ^ 22)

/-- Whether two ranges meet. -/
def rangesMeet (a b : Nat × Nat) : Bool := decide (0 < a.2) && decide (0 < b.2) && decide (a.1 < b.1 + b.2) && decide (b.1 < a.1 + a.2)

/-- The ranges of a stack that are not free. -/
def State.taken (s : State) (stack : Nat) : List (Nat × Nat) :=
  (firmwareRange stack :: s.bufs.vals.flatMap Buffer.ranges ++
    (s.retiredMem.filter (fun q => q.1 == stack)).map (fun q => (q.2.1, q.2.2))).filter (fun q => stackOf q.1 == stack)

/-- The lowest base, a multiple of `align`, from lo on, at which `len` bytes meet no taken range and end by hi. -/
def lowestFit (align lo hi len : Nat) (taken : List (Nat × Nat)) : Option Nat :=
  let cand := sortBy (fun (a b : Nat) => decide (a < b)) ((lo :: taken.map (fun q => q.1 + q.2)).map (alignUp · align))
  cand.find? (fun c => decide (lo ≤ c) && decide (c + len ≤ hi) && taken.all (fun q => !(rangesMeet (c, len) q)))

/-- The device ranges that a tenant's tables and folio slots take (R138, R214). -/
def Tenant.areas (t : Tenant) : List (Nat × Nat) := t.tables.map (fun a => (a, 4096)) ++ t.folios.map (fun q => (q.pa, q.len))

/-- A place for `len` bytes in a stack. -/
def State.roomAt (s : State) (stack len : Nat) : Option Nat :=
  lowestFit (2 ^ 22) (stack * Config.stackBytes) ((stack + 1) * Config.stackBytes) len (s.taken stack)

/-- A stack whose die is in service. -/
def State.stackUp (s : State) (k : Nat) : Bool := ((s.dies[dieOfStack k]?).map (·.service)).getD false

/-- The in-service stacks, ascending. -/
def State.stacks (s : State) : List Nat := (List.range 16).filter s.stackUp

/-- Guest-physical addresses from here on hold a tenant's tables (DESIGN CHOICE, log 16); its buffers lie below. -/
def tableSpace : Nat := 2 ^ 47

/-- The lowest place for a buffer among a tenant's virtual addresses. -/
def State.vaRoom (s : State) (func len : Nat) : Option Nat :=
  lowestFit unitBytes unitBytes tableSpace len
    ((s.bufs.vals.filter (fun b => b.func == func)).map (fun b => (b.va, b.nUnits * unitBytes)))

/-! ## What a RETIRE under way empties (R43, R62) -/

/-- The management command of function 0 under way: at most one is (R43). -/
def State.mgmtHead (s : State) : Option Mgmt := s.mgmt.find? (fun m => match m with | .imageLoad _ _ _ _ _ => false | _ => true)

/-- Whether a die has a page that is not retired. -/
def State.dieLives (retired : List Nat) (d : Nat) : Bool := (List.range 16).any (fun i => !(retired.contains (16 * d + i)))

/-- The device ranges that a retirement empties: a DRAM region; the stacks of a die whose last page goes. -/
def State.emptied (s : State) (tkind index base ext : Nat) : List (Nat × Nat) :=
  if tkind = 1 then [(index * Config.stackBytes + base, ext)]
  else if tkind = 0 ∧ !(State.dieLives s.retired (dieOfPage index)) then
    [2 * dieOfPage index, 2 * dieOfPage index + 1].map (fun k => (k * Config.stackBytes, Config.stackBytes))
  else []

/-- Whether a buffer has a part in one of some ranges. -/
def Buffer.inRanges (b : Buffer) (l : List (Nat × Nat)) : Bool := b.ranges.any (fun r => l.any (rangesMeet r))

/-- The device ranges that a RETIRE under way empties: nothing that uses them binds until they are empty (R62). -/
def State.retiring (s : State) : List (Nat × Nat) :=
  match s.mgmtHead with
  | some (.retire _ tkind index _ base ext) => s.emptied tkind index base ext
  | _ => []

/-- The lowest place for `len` bytes in the firmware's ranges (DESIGN CHOICE, log 13). -/
def State.areaRoom (s : State) (len : Nat) : Option Nat :=
  let used := s.tenants.flatMap (fun p => p.2.areas) ++ s.retiring
  s.stacks.findSome? (fun k => lowestFit 4096 (firmwareRange k).1 ((firmwareRange k).1 + (firmwareRange k).2) len used)

end Sys2Proof.Machine
end

