-- ==== Sys2Proof/Machine/Sched.lean ====
section
/-! DEFINITION. Graph queues, ready items, budget accounts, choices, and the end of a launch (R52, R66 to R75, R119,
R215). -/

namespace Sys2Proof.Machine

open Sys2Proof

/-! ## Graphs and ready items (R66, R68) -/

/-- The fabric loads of a launch. -/
def Launch.loads (l : Launch) : List LoadDecl :=
  ((l.img.graphs.find? (fun g => g.graph == l.graph)).map (·.loads)).getD []

/-- Fabric load n of a launch. -/
def Launch.loadDecl (l : Launch) (n : Nat) : Option LoadDecl := l.loads.find? (fun d => d.load == n)

/-- The signatures of a fabric load, with their indices in the image. -/
def Launch.loadSigs (l : Launch) (n : Nat) : List (Nat × SigDecl) :=
  match l.loadDecl n with
  | .none => []
  | .some d => d.sigs.filterMap (fun i => (l.img.sigs[i]?).map (fun g => (i, g)))

/-- The signatures that a ready item places. -/
def State.itemSigs (s : State) (i : Ready) : List (Nat × SigDecl) :=
  match i.saved with
  | some g => (g.sigs.filter (fun q => !q.passed)).map (fun q => (q.idx, q.decl))
  | none => match s.launchOf i.func i.ltag with
    | some l => l.loadSigs i.load
    | none => []

/-- The pages that a tenant holds (R82). -/
def State.heldPages (s : State) (func : Nat) : Nat :=
  ((s.regions.vals.filter (fun g => g.func == func)).map Region.held).sum

/-- The layer ids of a signature's folios. -/
def SigDecl.layers (d : SigDecl) : List Nat := d.folios.map (·.layer)

/-- Whether a layer of the item is resident in a bound region of the tenant (R215). -/
def State.layerBusy (s : State) (i : Ready) : Bool :=
  let mine := (s.itemSigs i).flatMap (fun q => q.2.layers)
  s.regions.any (fun p => p.2.func == i.func && p.2.sigs.any (fun q => !q.passed && q.decl.layers.any (fun y => mine.contains y)))

/-- Whether an item waits for the firmware of a die that pre-empted it (R60). -/
def State.fwWaits (s : State) (i : Ready) : Bool :=
  match i.saved with
  | some g => (match g.fwDie with
    | some d => ((s.dies[d]?).map (·.excluded)).getD false
    | none => false)
  | none => false

/-- The buffers that a signature declares (R77). -/
def SigDecl.declared (d : SigDecl) : List Nat :=
  ((d.streams.filter (fun k => !k.endpoint)).map (·.idx) ++ d.folios.map (·.buf) ++ d.rows.map (·.buf) ++
    d.evicts.map (fun w => bitsOf w 29 24) ++ d.soles.map (·.buf) ++
    (d.elems.filterMap (·.dctx)).flatMap (fun c =>
      [c.vocab, c.embed, c.log, c.pay, c.gram, c.mask, c.trans].filter (· != 0xFFFF))).dedup

/-- The buffers, by number, that a signature of a launch declares. -/
def Launch.declared (l : Launch) (d : SigDecl) : List Nat := d.declared.filterMap (fun i => l.bufs[i]?)

/-- Whether an item uses what a RETIRE under way empties: a buffer, or the saved rows of its region. Holders stay pre-empted while
their rows move (R62). -/
def State.moving (s : State) (i : Ready) : Bool :=
  s.retiring != [] &&
  ((match s.launchOf i.func i.ltag with
    | some l => (s.itemSigs i).any (fun q => (l.declared q.2).any (fun n => (s.bufs.find n).any (fun b => b.inRanges s.retiring)))
    | none => false) ||
   (match i.saved with
    | some g => s.rows.any (fun h => h.r == g.num && s.retiring.any (rangesMeet (h.pa, 1024)))
    | none => false))

/-- An eligible item (R60, R62, R74, R82, R215). -/
def State.eligible (s : State) (i : Ready) : Bool :=
  !(s.fwWaits i) && !(s.moving i) &&
  decide (s.heldPages i.func + (s.itemSigs i).length ≤ ((s.tenant i.func).map (·.pages)).getD 0) && !s.layerBusy i && !i.halted

/-! ## Pages in service (R70, R76) -/

/-- Whether a page is in service and not retired. -/
def State.pageUp (s : State) (p : Nat) : Bool :=
  decide (p < 128) && !s.retired.contains p && ((s.dies[dieOfPage p]?).map (·.service)).getD false

/-- Whether a page is free (R76). -/
def State.pageFree (s : State) (p : Nat) : Bool :=
  s.pageUp p && !(((s.dies[dieOfPage p]?).map (·.excluded)).getD false) &&
  !(s.regions.any (fun q => q.2.sigs.any (fun g => g.page == p && !g.passed)))

/-! ## Placement (R76, R77) -/

/-- The distance from a page to a stack (R77). -/
def pageDist (page stack : Nat) : Nat :=
  let die := dieOfPage page
  let row := page % 16 / 4
  let col := page % 4
  let own := dieOfStack stack
  if die = own then (if die < 4 then row else 3 - row) + (if (col < 2) = (stack % 2 = 0) then 0 else 1)
  else 4 * ((die % 4 - own % 4) + (own % 4 - die % 4) + (if die / 4 = own / 4 then 0 else 1)) + 4

/-- What a signature on a page adds to the score of a placement: its homed buffers that have been placed (R77, R79). -/
def State.sigCost (s : State) (l : Launch) (d : SigDecl) (page : Nat) : Nat :=
  ((l.declared d).map (fun n => match s.bufs.find n with
    | some b => (match b.home with
      | some k => if b.placed then b.kib * pageDist page k else 0
      | none => 0)
    | none => 0)).sum

/-- The signatures chained to a signature, by place in the load, with their page offsets (R76). -/
def chainStep (l : List (Nat × SigDecl)) (acc : List (Nat × Int × Int)) : List (Nat × Int × Int) :=
  acc.foldl (fun a p =>
    let me := (l[p.1]?).getD (0xFFFFF, SigDecl.none)
    (l.zipIdx).foldl (fun (a : List (Nat × Int × Int)) (q : (Nat × SigDecl) × Nat) =>
      if a.any (fun k => k.1 == q.2) then a
      else if me.2.chainE = q.1.1 then a ++ [(q.2, p.2.1 + 1, p.2.2)]
      else if me.2.chainN = q.1.1 then a ++ [(q.2, p.2.1, p.2.2 + 1)]
      else if q.1.2.chainE = me.1 then a ++ [(q.2, p.2.1 - 1, p.2.2)]
      else if q.1.2.chainN = me.1 then a ++ [(q.2, p.2.1, p.2.2 - 1)]
      else a) a) acc

/-- Everything chained to a signature, after k rounds. -/
def chainSet (l : List (Nat × SigDecl)) : Nat → List (Nat × Int × Int) → List (Nat × Int × Int)
  | 0, acc => acc
  | k + 1, acc => chainSet l k (chainStep l acc)

/-- Whether an arrangement puts each chained signature beside its neighbour, and no two on one page. -/
def arranged (l : List (Nat × SigDecl)) (c : List (Nat × Int × Int)) : Bool :=
  c.all (fun p => c.all (fun q =>
    let a := (l[p.1]?).getD (0xFFFFF, SigDecl.none)
    let b := (l[q.1]?).getD (0xFFFFF, SigDecl.none)
    (a.2.chainE != b.1 || q.2 == (p.2.1 + 1, p.2.2)) && (a.2.chainN != b.1 || q.2 == (p.2.1, p.2.2 + 1)) &&
    (p.1 == q.1 || p.2 != q.2)))

/-- The arrangements of a load: each signature in one, the lowest place first. -/
def components (l : List (Nat × SigDecl)) : List (List (Nat × Int × Int)) :=
  (List.range l.length).filterMap (fun i =>
    let c := chainSet l l.length [(i, 0, 0)]
    if c.all (fun p => decide (i ≤ p.1)) then some c else none)

/-- Two ascending lists of pages in the order that breaks ties (R77). -/
def pagesBefore : List Nat → List Nat → Bool
  | a :: t, b :: u => if a < b then true else if b < a then false else pagesBefore t u
  | [], _ :: _ => true
  | _, [] => false

/-- The pages of a placement, ascending. -/
def placedPages (l : List (Nat × Nat)) : List Nat := sortBy (fun (a b : Nat) => decide (a < b)) (l.map Prod.snd)

/-- The better of two placements, as score and (signature, page) pairs. -/
def placeBefore (a b : Nat × List (Nat × Nat)) : Bool :=
  if a.1 ≠ b.1 then a.1 < b.1 else pagesBefore (placedPages a.2) (placedPages b.2)

/-- Where an arrangement can stand: on one die, translated, on available pages, each pinned signature on its page. Of the
arrangement's places in order of score, those that can matter are kept: each page of the other signatures spoils at most as
many as the arrangement has pages. -/
def State.spots (s : State) (l : Launch) (sigs : List (Nat × SigDecl)) (avail : Nat → Bool) (c : List (Nat × Int × Int)) :
    List (Nat × List (Nat × Nat)) :=
  if !(arranged sigs c) then []
  else
    let dx := c.foldl (fun (m : Int) p => Min.min m p.2.1) 0
    let dy := c.foldl (fun (m : Int) p => Min.min m p.2.2) 0
    let all := (List.range 128).filterMap (fun o =>
      let at_ := c.map (fun p => (p.1, (o % 4 : Nat) + (p.2.1 - dx).toNat, (o % 16 / 4 : Nat) + (p.2.2 - dy).toNat))
      let pages := at_.map (fun p => (p.1, o / 16 * 16 + p.2.2 * 4 + p.2.1))
      if at_.all (fun p => decide (p.2.1 < 4) && decide (p.2.2 < 4)) && pages.all (fun p => avail p.2 &&
          (match sigs[p.1]? with
            | some q => q.2.pin == 0xFF || q.2.pin == p.2
            | none => false)) then
        some ((pages.map (fun p => s.sigCost l ((sigs[p.1]?).getD (0, SigDecl.none)).2 p.2)).sum, pages)
      else none)
    (sortBy placeBefore all).take (1 + c.length * (sigs.length - c.length))

/-- The best way to stand every arrangement on pages of its own. Of placements of equal score on the same set of pages, which the
ties of R77 do not tell apart, the first found stays (DESIGN CHOICE, log 63). -/
def bestPlace : List (List (Nat × List (Nat × Nat))) → Nat → List (Nat × Nat) → Option (Nat × List (Nat × Nat)) →
    Option (Nat × List (Nat × Nat))
  | [], cost, acc, best => match best with
    | none => some (cost, acc)
    | some b => if placeBefore (cost, acc) b then some (cost, acc) else some b
  | cs :: rest, cost, acc, best => cs.foldl (fun best c =>
      if c.2.any (fun p => acc.any (fun q => q.2 == p.2)) || (match best with | some b => decide (b.1 < cost + c.1) | none => false)
      then best else bestPlace rest (cost + c.1) (acc ++ c.2) best) best

/-- The placement of a ready item on available pages: the page of each of its signatures, in order (R76, R77). -/
def State.placement (s : State) (i : Ready) (avail : Nat → Bool) : Option (List Nat) :=
  match s.launchOf i.func i.ltag with
  | none => none
  | some l =>
    let sigs := s.itemSigs i
    if sigs = [] then none
    else match bestPlace ((components sigs).map (s.spots l sigs avail)) 0 [] none with
      | none => none
      | some b => some ((List.range sigs.length).map (fun k => ((b.2.find? (fun p => p.1 == k)).map Prod.snd).getD 0))

/-- Whether an item can never be bound: it needs more pages than the quota, or no placement is left on all the pages in service:
too many pages, a pinned page that is retired, an arrangement that fits no die (R70) (DEDUCED, log 58). -/
def State.neverBinds (s : State) (i : Ready) : Bool :=
  decide (((s.tenant i.func).map (·.pages)).getD 0 < (s.itemSigs i).length) || (s.placement i s.pageUp).isNone

/-- Whether a ready item declares an RMW stream, and so needs a slot of the wheel (R177). -/
def State.needsWheel (s : State) (i : Ready) : Bool := (s.itemSigs i).any (fun q => q.2.streams.any (fun k => k.kind == 4))

/-- The lowest free slot of the wheel (DESIGN CHOICE, log 12). -/
def State.freeWheel (s : State) : Option Nat := (List.range 16).find? (fun k => (s.wheel.find k).isNone)

/-- Whether an item can bind with some regions' pages and slots given back. An item that waits for a slot of the wheel alone has
other regions yield too (R85 names placements only: DESIGN CHOICE, log 64). -/
def State.canBind (s : State) (i : Ready) (given : List Region) : Bool :=
  let mine := given.flatMap (fun g => (g.sigs.filter (fun q => !q.passed)).map (·.page))
  (!(s.needsWheel i) || s.freeWheel.isSome || given.any (fun g => g.wheel.isSome)) &&
  (s.placement i (fun p => s.pageFree p || (s.pageUp p && !(((s.dies[dieOfPage p]?).map (·.excluded)).getD false) && mine.contains p))).isSome

/-! ## Yield requests (R85, R86) -/

/-- A region in a debug break that is asked to yield: its round is voided and its round-start state saved (R257). -/
def State.yieldBreak (s : State) (r : Nat) : State :=
  match (s.reg r).shadowFault with
  | some f => s.endByFault r f true
  | none =>
    let (n, t) := (s.voidRound r true).latMost ((s.reg r).saveMost s.cycle)
    t.modReg r (fun g => { g with mode := .saving (s.cycle + n) true })

/-- A region asked to yield. One that a resumable fault has halted is at a round boundary, and so is one whose boundary falls in
this cycle: they save at once (R86, R93), and so does one that is about to replay its round (R87). One in a debug break gives its round
up (R257). One that binds saves when its bind is complete, instead of its first round (DEDUCED, log 85). -/
def State.askYield (s : State) (r : Nat) (own : Bool) : State :=
  let g := s.reg r
  if g.yieldReq.isSome then s
  else
    let t := s.modReg r (fun g => { g with yieldReq := some s.cycle, yieldOwn := own })
    let save : Bool → State → State := fun forced t =>
      let (n, t) := t.latMost ((t.reg r).saveMost s.cycle)
      t.modReg r (fun g => { g with mode := .saving (s.cycle + n) forced })
    match g.mode with
    | .halted _ => save false (t.post r)
    | .replaying _ => save true (t.post r)
    | .between due => if s.cycle + 8 ≤ due then save false t else t
    | .running => if g.brk.isSome then t.yieldBreak r else t
    | _ => t

/-- Whether a region can be asked to yield. -/
def Region.yields (g : Region) : Bool :=
  g.yieldReq.isNone && (match g.mode with
    | .saving _ _ => false
    | .ending => false
    | .draining => false
    | _ => true)

/-- Regions whose pages come free by yields that are already asked for (DEDUCED, log 29). -/
def State.coming (s : State) : List Region :=
  s.regions.vals.filter (fun g => g.yieldReq.isSome || (match g.mode with | .saving _ _ => true | .ending => true | _ => false))

/-- The fewest of the regions, in the order given, that make room for an item; none when all of them do not. -/
def State.enough (s : State) (i : Ready) (base : List Region) : List Region → List Region → Option (List Region)
  | acc, l => if s.canBind i (base ++ acc) then some acc
    else match l with
      | [] => none
      | g :: t => s.enough i base (acc ++ [g]) t

/-- Regions below a priority: lowest priority first, then the most recently bound (R85). -/
def yieldBefore (a b : Region) : Bool := if a.prio ≠ b.prio then a.prio < b.prio else b.bound < a.bound

/-- The requests that the chosen item's priority makes (R85). -/
def State.askPriority (s : State) (c : Ready) : State :=
  let base := s.coming
  let cand := sortBy yieldBefore (s.regions.vals.filter (fun g => g.yields && decide (g.prio < c.prio)))
  match s.enough c base [] cand with
  | none => s
  | some l => l.foldl (fun t g => t.askYield g.num false) s

/-- Whether a region is asked to yield for its tenant's debt (R85). -/
def State.owes (s : State) (g : Region) : Bool :=
  g.yields && decide (1 ≤ g.commits) && decide (((s.tenant g.func).map (·.deficit)).getD 0 < -((((s.tenant g.func).map (·.quant)).getD 1 : Nat) : Int)) &&
  s.items.any (fun i => i.func != g.func && i.prio == g.prio && s.eligible i &&
    decide (0 < ((s.tenant i.func).map (·.deficit)).getD 0) && !(s.canBind i []))

/-- The requests that debts make. -/
def State.askBudget (s : State) : State :=
  s.regions.foldl (fun (t : State) (p : Nat × Region) => if t.owes (t.reg p.1) then t.askYield p.1 true else t) s

/-- The yield requests of the scheduler at a choice or a round boundary. -/
def State.askYields (s : State) (chosen : Option Ready) : State :=
  (match chosen with
    | some c => if s.canBind c [] then s else s.askPriority c
    | none => s).askBudget

/-! ## Choices (R74, R75) -/

/-- How long ago a SEQ was accepted: the greater, the lower in SEQ order. -/
def State.seqAge (s : State) (aseq : Nat) : Nat := (s.nmp.hacc.toNat + 2 ^ 32 - aseq) % 2 ^ 32

/-- The account and the quantum of a tenant. -/
def State.account (s : State) (f : Nat) : Int := ((s.tenant f).map (·.deficit)).getD 0
def State.quant (s : State) (f : Nat) : Nat := ((s.tenant f).map (·.quant)).getD 1

/-- The quanta that step 3 of a choice gives each candidate: the fewest that make one account positive. -/
def State.quanta (s : State) (cand : List Nat) : Nat :=
  (cand.map (fun f => ((-(s.account f)) / (s.quant f : Int) + 1).toNat)).foldl Nat.min (2 ^ 64)

/-- Step 3 of a choice. -/
def State.replenish (s : State) (cand : List Nat) : State :=
  if cand.any (fun f => decide (0 < s.account f)) then s
  else
    let k := s.quanta cand
    cand.foldl (fun t f => t.modTenant f (fun x => { x with deficit := satAccount (x.deficit + (k * x.quant : Nat)) })) s

/-- The candidate that is served: the greatest account, then the first after the tenant served last (R74). -/
def State.serveFirst (s : State) (cand : List Nat) : Nat :=
  let best := cand.foldl (fun (m : Option Int) f => match m with
    | none => some (s.account f)
    | some v => some (Max.max v (s.account f))) none
  let top := cand.filter (fun f => some (s.account f) == best)
  ((sortBy (fun a b => decide ((a + 63 - s.served) % 64 < (b + 63 - s.served) % 64)) top).head?).getD 0

/-- Order of items within the served tenant: release cycle, SEQ of the LAUNCH, load (R74). -/
def State.itemBefore (s : State) (a b : Ready) : Bool :=
  if a.rel ≠ b.rel then a.rel < b.rel
  else if a.aseq ≠ b.aseq then s.seqAge b.aseq < s.seqAge a.aseq
  else a.load < b.load

/-- A choice (R74). -/
def State.choose (s : State) : State :=
  let el := s.items.filter s.eligible
  let p := maxNat (el.map (·.prio))
  let at_ := el.filter (fun i => i.prio == p)
  let cand := (at_.map (·.func)).dedup
  if cand = [] then { s with chosen := none, choicePend := false }
  else
    let t := s.replenish cand
    let f := t.serveFirst cand
    match sortBy t.itemBefore (at_.filter (fun i => i.func == f)) with
    | i :: _ => { t with chosen := some (i.func, i.ltag, i.load), served := f, choicePend := false }
    | [] => { t with chosen := none, choicePend := false }

/-- The chosen item. -/
def State.chosenItem (s : State) : Option Ready :=
  match s.chosen with
  | none => none
  | some c => s.items.find? (fun i => i.func == c.1 && i.ltag == c.2.1 && i.load == c.2.2)

/-- A choice event at which a ready item of priority `p` has appeared, with the yield requests that follow (R85): the chosen item
stands unless that priority is higher than its own (R75). -/
def State.choiceAfter (s : State) (p : Nat) : State :=
  let t := match s.chosenItem with
    | .none => s.choose
    | .some c => if c.prio < p then s.choose else { s with choicePend := false }
  t.askYields t.chosenItem

/-- A choice event at which no ready item has appeared. -/
def State.choiceEvent (s : State) : State := s.choiceAfter 0

/-- The highest priority of the ready items of one state that another did not have. -/
def State.newPrio (t s : State) : Nat :=
  maxNat ((t.items.filter (fun i => !i.halted && !(s.items.any (fun j => !j.halted && j.func == i.func && j.ltag == i.ltag && j.load == i.load)))).map
    (·.prio))

/-! ## Releasing (R68, R70) -/

/-- A fabric load of an active launch becomes a ready item; one that can never be bound ends its launch. -/
def State.releaseLoad (s : State) (func : Nat) (tag : Word) (load : Nat) : State :=
  match s.launchOf func tag with
  | .none => s
  | .some l =>
    if l.noMore || l.released.contains load then s
    else
      let t := s.modLaunch func tag (fun l => { l with released := l.released ++ [load] })
      let i : Ready := { func := func, ltag := tag, aseq := l.aseq, load := load, prio := l.prio, rel := s.cycle, saved := none }
      if s.neverBinds i then t.endLaunch func tag 0x04 else { t with items := t.items ++ [i] }

/-- The queued launch of a tenant that becomes active next: highest PRIO, then lowest SEQ (R66). -/
def State.nextLaunch (s : State) (func : Nat) : Option Launch :=
  match s.tenant func with
  | none => none
  | some t => if (t.queue.filter (·.active)).length < 16 then
      (sortBy (fun (a b : Launch) => if a.prio ≠ b.prio then decide (b.prio < a.prio) else decide (s.seqAge b.aseq < s.seqAge a.aseq))
        (t.queue.filter (fun l => !l.active))).head?
    else none

/-- LAUNCH_ACTIVATE (R66, R68): the launch, when it is the queue's next, becomes active, and its loads without a
predecessor are released. -/
def execLaunchActivate (func : Nat) (ltag : Word) (s : State) : Host.Outcome State Fault Refusal :=
  match s.nextLaunch func with
  | none => go s
  | some l =>
    if l.tag ≠ ltag then go s
    else
      let t := s.modLaunch func ltag (fun l => { l with active := true })
      let u := (l.loads.filter (fun d => d.preds == [])).foldl (fun u d => u.releaseLoad func ltag d.load) t
      go (u.choiceAfter (u.newPrio s))

/-- FABRIC_LOAD_RELEASE (R68): a load of an active launch becomes a ready item. -/
def execFabricLoadRelease (func : Nat) (ltag : Word) (load : Nat) (s : State) : Host.Outcome State Fault Refusal :=
  let t := s.releaseLoad func ltag load
  go (t.choiceAfter (t.newPrio s))

/-! ## The end of a load and of a launch (R52, R54, R119) -/

/-- A region's own resources given back: its wheel slot, the static range entries of its pages, its rows, its walks, its
timers and its holds on prefix entries. -/
def State.dropRegion (s : State) (r : Nat) : State :=
  let g := s.reg r
  let abuts := g.sigs.map (fun q => Config.abutmentOf q.page)
  let t := s.modTenant g.func (fun tn => { tn with
    prefixes := tn.prefixes.map (fun e => { e with holds := e.holds.filter (· != r) }) })
  { t with regions := t.regions.del r
           wheel := t.wheel.filter (fun p => p.2 != r)
           ranges := t.ranges.filter (fun p => p.2.dyn || !(abuts.contains (p.1 / 32)))
           rows := t.rows.filter (fun h => h.r != r)
           walks := t.walks.filter (fun w => w.r != r)
           timers := t.timers.filter (fun q => q.2.1 != r) }

/-- The timers that release the loads whose last predecessor has passed, within 64 cycles (R68). -/
def State.releaseNext (s : State) (func : Nat) (tag : Word) : State :=
  match s.launchOf func tag with
  | none => s
  | some l =>
    (l.loads.filter (fun d => d.preds != [] && d.preds.all (fun p => l.passed.contains p) && !l.released.contains d.load)).foldl
      (fun t d =>
        let (n, t) := t.lat
        { t with timers := t.timers ++ [(s.cycle + Nat.min n 64, 0, .ev (.fabricLoadRelease func tag d.load) Focus.none)] }) s

/-- Whether a launch is over: cancelled or faulted, with no commit left; or with every load passed, or none left to
release after HALT (R52, R54, R250, R417). -/
def State.launchOver (s : State) (l : Launch) : Bool :=
  let regs := s.regions.vals.filter (fun g => g.func == l.func && g.ltag == l.tag)
  match l.status with
  | some _ => regs.all (fun g => (match g.mode with | .ending => !g.commitOn | _ => false))
  | none => l.active && regs.length == 0 && !(s.items.any (fun i => i.func == l.func && i.ltag == l.tag)) &&
      (l.noMore || l.loads.all (fun d => l.passed.contains d.load))

/-- The regions that a launch still has, given back. -/
def State.dropRegionsOf (s : State) (func : Nat) (tag : Word) : State :=
  s.regions.foldl (fun (u : State) (p : Nat × Region) =>
    if p.2.func == func && p.2.ltag == tag then (u.post p.1).dropRegion p.1 else u) s

/-- LAUNCH_COMPLETE (R52, R54): the launch gives its pages and rows back and sends its COMPLETE. -/
def execLaunchComplete (func : Nat) (tag : Word) (s : State) : Host.Outcome State Fault Refusal :=
  let t := s.dropRegionsOf func tag
  go (match t.launchOf func tag with
    | none => s
    | some l =>
      let u := t.modTenant func (fun x => { x with queue := x.queue.filter (fun q => !(q.tag == tag)) })
      let u := { u with nmp := { u.nmp with flts := u.nmp.flts.filter (fun q => !(q.func == func && q.ltag == tag)) } }
      ((u.complete func 0x06 (l.status.getD 0) l.host l.pcyc l.bytes l.flt).creditClear func).choiceEvent)

end Sys2Proof.Machine
end

