-- ==== Sys2Proof/Machine/Rows.lean ====
section
/-! DEFINITION. Held-row entries, 0xD8 to 0xDD, and the steps of holds (R156 to R161, R406, R407). -/

namespace Sys2Proof.Machine

open Sys2Proof

/-! ## Naming a row (R156, R406) -/

/-- The buffer that an image index names for the launch of the region in focus. -/
def State.imageBuf (s : State) (i : Nat) : Option Buffer :=
  ((s.launchOf s.rg.func s.rg.ltag).bind (fun l => l.bufs[i]?)).bind (fun n => s.bufs.find n)

/-- The declaration of row hx of the signature in focus. -/
def State.rowDecl (s : State) (hx : Nat) : RowDecl := (s.sig.decl.rows[hx]?).getD { buf := 0, reopen := false, off := 0 }

/-- The virtual address of row hx. -/
def State.rowVa (s : State) (hx : Nat) : Nat := ((s.imageBuf (s.rowDecl hx).buf).map (·.va)).getD 0 + (s.rowDecl hx).off

/-- The physical address of row hx, when it is backed (R438). -/
def State.rowPa (s : State) (hx : Nat) : Option Nat := s.paOf s.rg.func (s.rowVa hx)

/-- HX of a K-format row entry, and of an M-format one with its word offset. -/
def hxK (f : FK) : Nat := bitsOf f.param 5 0
def hxM (f : FM) : Nat := bitsOf f.off 15 10
def rowByte (f : FM) : Nat := bitsOf f.off 9 0

/-- The check of a row access at issue: of the range entry that it hits, or of what its walk will find (R137, R141, R406). -/
def State.rowChk (s : State) (va : Nat) (write : Bool) : Chk :=
  match s.rangeHit s.abut s.rg.func va with
  | some e => if write && !e.w then .fault 0x41 va else .ok
  | none => s.walkChk va va write

/-- A row entry that needs a translation raises 0x40 at issue where there is none, which is resumable in a sparse buffer, and a write 0x41
where the page may not be written (R141, R406). Its effect sees the row's physical address. -/
def State.rowEntry (s : State) (va : Nat) (write : Bool) (srcs dsts : List Nat) (eff : Nat → State → State) : State :=
  s.entry srcs dsts (s.rowChk va write) (eff ((s.paOf s.rg.func va).getD 0))

/-- A walk that a row access waits for, where no range entry holds its address; it goes by a number of the access (R137). -/
def State.rowWalk (s : State) (id va : Nat) (write : Bool) : State :=
  if (s.rangeHit s.abut s.rg.func va).isSome then s else s.beginWalk id va va write false

/-! ## The hold table (R156, R158) -/

/-- The code of a ROWHOLD by the region in focus: the first outcome of R158 that applies (DEDUCED, log 44). -/
def State.holdCode (s : State) (hx pa : Nat) : Nat :=
  let func := s.rg.func
  match s.rowHold pa with
  | some h => if h.r = s.focus.r ∧ h.st ≠ .saved then 1 else 2
  | none =>
    if (s.rows.filter (fun h => h.func == func)).length ≥ ((s.tenant func).map (·.rows)).getD 0 then 3
    else if (s.rows.filter (fun h => bankOf h.pa == bankOf pa)).length ≥ 4 then 4
    else if pa ≥ Config.dramBytes ∨ ((s.imageBuf (s.rowDecl hx).buf).map (·.cmp)).getD 0 ≠ 0 then 5
    else 0

/-- A row entered in the hold table; the hold takes effect at each of its four lines in a step of its own (R159). -/
def State.takeHold (s : State) (pa : Nat) (reopen : Bool) : State :=
  let row := rowOf pa * 1024
  let h : RowHold := { pa := row, func := s.rg.func, r := s.focus.r, sg := s.focus.sg, reopen := reopen, st := .held, lines := [],
                       since := s.cycle }
  let t := { s with rows := s.rows ++ [h], openRows := s.openRows.filter (· != rowOf pa) }
  (List.range 4).foldl (fun (t : State) i =>
    let (n, t) := t.lat
    { t with timers := t.timers ++ [(s.cycle + n, s.focus.r, .ev (.holdTakesEffect (row / 256 + i)) s.focus)] }) t

/-- ROWOPEN (R157): no reservation; nothing where the row has no translation. -/
def execRowopen (f : FK) (s : State) : Host.Outcome State Fault Refusal :=
  go (s.entry [] [] .ok (fun t => match s.rowPa (hxK f) with
    | some pa =>
      let t := t.walkAt (s.rowVa (hxK f))
      { t with openRows := insertUniq (rowOf pa) t.openRows }
    | none => t))

/-- ROWHOLD (R158, R406): the code is decided in the step, with the holds that its step has already taken (R420); so its walk is complete in
the step too. -/
def execRowhold (f : FK) (s : State) : Host.Outcome State Fault Refusal :=
  let hx := hxK f
  let d := f.d.toNat
  go (s.rowEntry (s.rowVa hx) false [] [d] (fun pa t =>
    let code := s.holdCode hx pa
    let t := t.walkAt (s.rowVa hx)
    let t := t.put d (if 96 ≤ d ∧ d < 104 then boolWord (decide (code < 2)) else BitVec.ofNat 32 code)
    let t := t.modNow (fun fb => { fb with rowCode := fb.rowCode.set (rowOf pa) code })
    if code = 0 then (t.takeHold pa (s.rowDecl hx).reopen).modR (fun g => { g with holdsNew := g.holdsNew ++ [rowOf pa * 1024] })
    else if 2 ≤ code then t.count 0x22 else t))

/-- ROWREL (R160): takes effect at commit. -/
def execRowrel (f : FK) (s : State) : Host.Outcome State Fault Refusal :=
  go (s.entry [] [] .ok (fun t => t.stage 9 (.rowRel (hxK f))))

/-- The row stream of an ME (R407). -/
def rowStream : Nat := 9

/-- ROWRD (R407): a windowed read of one word, which waits for an acquire read that holds it (R174). -/
def execRowrd (f : FM) (s : State) : Host.Outcome State Fault Refusal :=
  let va := s.rowVa (hxM f) + rowByte f
  go (s.rowEntry va false [] [f.d.toNat] (fun pa t =>
    let (seq, t) := t.fresh
    let (n, t) := t.lat
    let after := (s.nowE.waitsOf rowStream s.rg.rnd).1
    (t.rowWalk seq va false).openWin (.row pa va (s.cycle + n) seq after none) f.d.toNat (32 * 2 ^ bitsOf f.mode 1 0) (bitsOf f.mode 3 2) none))

/-- ROWWR (R407): a captured store of the word, performed at commit. -/
def execRowwr (f : FM) (s : State) : Host.Outcome State Fault Refusal :=
  let va := s.rowVa (hxM f) + rowByte f
  go (s.rowEntry va true [f.d.toNat] [] (fun _ t =>
    let (id, t) := t.fresh
    (t.rowWalk id va true).stage rowStream (.row va (leBytes 4 (s.src f.d.toNat).toNat))))

/-- ROWQ (R406): held by this region, the disposition, and the code of the region's latest ROWHOLD of the row. -/
def execRowq (f : FK) (s : State) : Host.Outcome State Fault Refusal :=
  let hx := hxK f
  let held : Bool := match (s.rowPa hx).bind s.rowHold with
    | some h => h.r == s.focus.r && h.st != .saved && decide (h.since < s.cycle)
    | none => false
  let code := match s.rowPa hx with
    | some pa => s.rg.old.rowCode.get 7 (rowOf pa)
    | none => 7
  go (s.compute [] f.d.toNat (BitVec.ofNat 32 ((if held then 1 else 0) + (if (s.rowDecl hx).reopen then 2 else 0) + code * 16)))

/-! ## Holds at the home slices (R159, R161) -/

/-- A hold-table entry changed. -/
def State.modHold (s : State) (row : Nat) (g : RowHold → RowHold) : State :=
  { s with rows := s.rows.map (fun h => if h.pa = row then g h else h) }

/-- HOLD_TAKES_EFFECT (R159): the line's dirty sectors are written to the row and the line is invalidated; from now on
the row buffer serves it. -/
def execHoldTakesEffect (line : Nat) (s : State) : Host.Outcome State Fault Refusal :=
  match s.rowHold (line * 256) with
  | none => go s
  | some h =>
    if h.st = .saved then go s
    else go ((s.flushLines (fun l => l.ln == line) true true).modHold h.pa (fun k => { k with lines := insertUniq line k.lines }))

/-- HOLD_SUSPEND (R161): the row is precharged for a refresh or for another row of its subarray group; it is held again
within 438 cycles. -/
def execHoldSuspend (row : Nat) (s : State) : Host.Outcome State Fault Refusal :=
  match s.rowHold (row * 1024) with
  | none => go s
  | some h =>
    go (if h.st = .held then s.suspendRow row else s)

/-- HOLD_RESUME (R161): the row is open again; nothing is lost. -/
def execHoldResume (row : Nat) (s : State) : Host.Outcome State Fault Refusal :=
  go (s.modHold (row * 1024) (fun k => if k.st = .suspended then { k with st := .held } else k))

/-- A hold released (R160): the row is precharged, its entry and its quota go. -/
def State.releaseHold (s : State) (pa : Nat) : State := { s with rows := s.rows.filter (fun h => h.pa != rowOf pa * 1024) }

end Sys2Proof.Machine
end

