-- ==== Sys2Proof/Machine/Sync.lean ====
section
/-! DEFINITION. Ordering entries, barriers and the keystone entries, 0x80 to 0x89 (R118, R170 to R174, R362 to R368). -/

namespace Sys2Proof.Machine

open Sys2Proof

/-! ## SBAR, FENCE, REL, ACQ, DRAIN -/

/-- The reads outstanding on the streams of a mask. -/
def Elem.outstanding (e : Elem) (mask : Nat) : List Nat := (e.reads.filter (fun r => mask.testBit r.sn)).map (·.id)

/-- The stores of the streams of a mask of the element in focus that precede an order made now. -/
def State.waitOn (s : State) (named : Nat) (die : Bool) : Wait :=
  { key := elemKey s.focus.sg s.focus.x s.focus.y, mask := named, die := die, upto := s.rg.now.nextSeq }

/-- A barrier over streams of the element in focus in force from now on (R171, R172): later reads of the held streams wait for the
outstanding reads of the named ones and for their committing stores; later stores of the held streams take epochs after those of the named
ones, at die scope after those homed on the element's die. -/
def State.barrier (s : State) (named held : Nat) (die : Bool) : State :=
  if held = 0 then s
  else s.modE (fun e => (e.addOrder { held := held, named := [s.waitOn named die], ids := e.outstanding named, at_ := 0, rnd := s.rg.rnd }
    s.cycle).holdEpoch held (e.epochAfter named die))

/-- The elements whose SBAR has fired in the running step: those of the span in focus with an SBAR of this cycle (R192). -/
def State.sbarMates (s : State) : List Nat :=
  (s.rg.now.elems.filter (fun p => p.1 / 1024 == s.focus.sg && p.2.order.any (fun o => o.at_ == s.cycle + 1) &&
    ((s.sig.decl.spanAt (p.1 % 32) (p.1 / 32 % 32)).map (·.n)).getD 0 == s.spanNo)).map Prod.fst

/-- SBAR's effect: the SBARs of one step act as one whose masks are the union of theirs, so the held streams of each wait for the named
streams of all (R171, R192). An SBAR that holds no stream, which alone has no effect (R171), still gives its named streams to the union
(DESIGN CHOICE, log 95). -/
def State.sbar (s : State) (named held : Nat) : State :=
  let mates := s.sbarMates
  let now := fun k => s.rg.now.elems.get (Elem.fresh .me) k
  let theirs := ((mates.head?).bind (fun k => (now k).order.find? (fun o => o.at_ == s.cycle + 1)))
  let names := s.waitOn named false :: (theirs.map (·.named)).getD []
  let ids := s.nowE.outstanding named ++ (theirs.map (·.ids)).getD []
  let t := s.modE (fun e => e.addOrder { held := held, named := names, ids := ids, at_ := s.cycle + 1, rnd := s.rg.rnd } s.cycle)
  let last := maxNat (names.map (fun w => (t.rg.now.elems.get (Elem.fresh .me) w.key).epochAfter w.mask false))
  let join : Elem → Elem := fun e => e.order.foldl (fun (e : Elem) o => if o.at_ = s.cycle + 1 then e.holdEpoch o.held last else e)
    { e with order := e.order.map (fun o => if o.at_ = s.cycle + 1 then { o with named := names, ids := ids } else o) }
  t.modNow (fun f => { f with elems := f.elems.map (fun (p : Nat × Elem) =>
    (p.1, if mates.contains p.1 || p.1 == elemKey s.focus.sg s.focus.x s.focus.y then join p.2 else p.2)) })

/-- SBAR (R171, R362). -/
def execSbar (f : FK) (s : State) : Host.Outcome State Fault Refusal :=
  go (s.entry [] [] .ok (fun t => t.sbar (bitsOf f.param 7 0) (bitsOf f.param 15 8)))

/-- The mask of all streams, the log stream among them (R172). -/
def allStreams : Nat := 0x1FF

/-- The device ranges that the element in focus stores to, as they are stored: the buffers of its streams that write, and those of its
log (R170); with `also`, what else is to be covered. -/
def State.writtenBufs (s : State) (also : List (Nat × Nat)) : List (Nat × Nat) :=
  ((s.sig.decl.streams.filter (fun d => d.x == s.focus.x && d.y == s.focus.y && !d.endpoint && d.kind != 1)).map (fun d =>
    ((s.nowE.streams.get Stream.none d.sn).base, (s.nowE.streams.get Stream.none d.sn).ext)) ++
  [(s.nowE.dc.lbase, s.nowE.dc.lsize), (s.nowE.dc.pbase, s.nowE.dc.psize)].filter (fun p => p.2 != 0) ++ also).map (s.storedRange s.rg.func)

/-- What the element in focus has stored in earlier rounds brought to DRAM: at once where it is performed, and behind the element's items of
the commit under way where it is not, so that the reads that wait for those wait for this too (R170, R172; DEDUCED, log 82). -/
def State.throughNow (s : State) (l : List (Nat × Nat)) : State :=
  let t := s.cleanThrough s.rg.func l
  let mem := t.rg.commit.filter (fun i => i.act.memory)
  if mem.any (fun i => elemKey i.sg i.x i.y == elemKey s.focus.sg s.focus.x s.focus.y) then
    let item : Staged := { sg := s.focus.sg, x := s.focus.x, y := s.focus.y, sn := 8, epoch := ((mem.getLast?).map (·.epoch)).getD 0,
                           seq := t.rg.now.nextSeq, stamp := s.focus.stamp, sched := s.focus.sched, act := .through l }
    (t.modR (fun g => { g with commit := mem ++ [item] ++ g.commit.filter (fun i => !i.act.memory) })).modNow (fun f =>
      { f with nextSeq := f.nextSeq + 1 })
  else t

/-- A FENCE's barrier at a scope over some named streams. At system scope what it orders reaches DRAM before later accesses proceed: what
earlier rounds have stored, and, in the round's own commit, after the stores that it names and before what it holds, the buffers that the
element writes and the ranges `also` (R170, R172, R173; DEDUCED, log 82). -/
def State.fence (s : State) (named scope : Nat) (also : List (Nat × Nat)) : State :=
  let l := s.writtenBufs also
  let t := (if scope = 4 then s.throughNow l else s).barrier named allStreams (scope == 2)
  if scope = 4 then
    let ep := t.nowE.epochAfter named false
    ((t.stageAt 8 ep (.through l)).modE (fun e => e.useEpoch 8 ep true)).barrier named allStreams false
  else t

/-- FENCE (R172): scopes span and page order the element's own entries and touch no location; at die scope only what is homed on the
element's die is awaited (R170). -/
def execFence (f : FK) (s : State) : Host.Outcome State Fault Refusal :=
  let scope := bitsOf f.param 2 0
  go (s.entry [] [] .ok (fun t => if scope < 2 then t else t.fence allStreams scope []))

/-- The range of an ACQ or REL: that of a CMO on stream r with length a, where RG is set (R363). -/
def State.acqRange (s : State) (f : FK) : Option (Nat × Nat) :=
  if bitAt f.param 9 then some (s.cmoSpan (bitsOf f.param 8 6) (s.src f.a.toNat).toNat) else none

/-- The streams that a REL names: all, and the outside writes of the element's engine commands (R173). -/
def relStreams : Nat := 0x9FF

/-- REL (R173): a FENCE, which at system scope covers the outside writes of the copies that the element has waited for, the clean of the range
to the level of the scope, and the next store of s in an epoch of its own. -/
def execRel (f : FK) (s : State) : Host.Outcome State Fault Refusal :=
  let sn := bitsOf f.param 5 3
  let srcs := if bitAt f.param 9 then [f.a.toNat] else []
  go (s.entry srcs [] .ok (fun t =>
    let t := t.fence relStreams (bitsOf f.param 2 0) s.nowE.waited
    let t := match s.acqRange f with
      | some r => t.stage sn (.cmo r.1 r.2 0 (if bitsOf f.param 2 0 = 4 then 1 else 0))
      | none => t
    t.modE (fun e => { e with relNext := insertUniq sn e.relNext, waited := if bitsOf f.param 2 0 = 4 then [] else e.waited })))

/-- ACQ (R174): the next read of s is an acquire read; at system scope the range is invalidated after it. -/
def execAcq (f : FK) (s : State) : Host.Outcome State Fault Refusal :=
  let sn := bitsOf f.param 5 3
  let srcs := if bitAt f.param 9 then [f.a.toNat] else []
  let rs := if bitsOf f.param 2 0 = 4 then (s.acqRange f).toList else []
  go (s.entry srcs [] .ok (fun t => t.modE (fun e =>
    { e with acqNext := e.acqNext.set sn ((e.acqNext.find sn).getD [] ++ rs) })))

/-- Whether every store, RMW and CMO that the named streams of an element issued in earlier rounds is performed
(R364). -/
def Region.drained (r : Region) (sg x y mask : Nat) : Bool :=
  !(r.commit.any (fun i => i.sg == sg && i.x == x && i.y == y && mask.testBit i.sn))

/-- The streams that DRAIN names. -/
def drainMask (f : FW) : Nat := if bitAt f.b 3 then allStreams else 2 ^ bitsOf f.b 2 0

/-- DRAIN (R364). -/
def execDrain (f : FW) (s : State) : Host.Outcome State Fault Refusal :=
  go (s.entry [] [f.d.toNat] .ok (fun t => t.openWin (.drain (drainMask f)) f.d.toNat f.win.toNat f.wm.toNat
    (if s.rg.drained s.focus.sg s.focus.x s.focus.y (drainMask f) then some 1#32 else none)))

/-! ## Barriers (R365 to R367) -/

/-- The BARA of a schedule word, as barrier and level. -/
def baraOf (w : EWord) : Option (Nat × Nat) :=
  match entryOf w with
  | some e => (match e.instr with
    | .bara f => some (bitsOf f.param 3 0, bitsOf f.param 5 4)
    | _ => none)
  | none => none

/-- The barriers that an element takes part in, with their levels. -/
def ElemDecl.baras (d : ElemDecl) : List (Nat × Nat) := (d.schedA ++ d.schedB).filterMap baraOf

/-- The level at which a signature uses barrier b. -/
def SigDecl.barLevel (d : SigDecl) (b : Nat) : Nat :=
  ((d.elems.flatMap (·.baras)).find? (fun p => p.1 == b)).elim 0 Prod.snd

/-- The elements of a signature that take part in barrier b at a level. -/
def SigDecl.participants (d : SigDecl) (b level : Nat) : List ElemDecl := d.elems.filter (fun e => e.baras.contains (b, level))

/-- The key of a barrier (see `Fabric`): at span level each span has one of its own (R365, R426). -/
def barKey (level sg span b : Nat) : Nat :=
  match level with
  | 0 => 200000 + (sg * 16 + span) * 16 + b
  | 1 => sg * 16 + b
  | _ => 100000 + b

/-- N of the barrier of a key (R365). -/
def Region.barN (r : Region) (key : Nat) : Nat :=
  if 200000 ≤ key then
    let d := (r.sig ((key - 200000) / 256)).decl
    ((d.participants (key % 16) 0).filter (fun e => (d.spanAt e.x e.y).map (·.n) == some ((key - 200000) / 16 % 16))).length
  else if 100000 ≤ key then (r.sigs.map (fun q => (q.decl.participants (key - 100000) 2).length)).sum
  else ((r.sig (key / 16)).decl.participants (key % 16) 1).length

/-- Viaduct edges on the shortest path between two dies (R6, R7). -/
def dieHops (a b : Nat) : Nat := (a % 4 - b % 4) + (b % 4 - a % 4) + (if a / 4 = b / 4 then 0 else 1)

/-- The greatest number of viaduct edges between two dies of a region. -/
def Region.span (r : Region) : Nat :=
  let ds := r.sigs.map (fun q => dieOfPage q.page)
  maxNat (ds.flatMap (fun a => ds.map (dieHops a)))

/-- The cycles from a BARA to its arrival (R366). -/
def Region.barDelay (r : Region) (level : Nat) : Nat :=
  match level with
  | 0 => 2
  | 1 => 4
  | _ => 24 + 16 * r.span

/-- Whether a signature holds a BARA of barrier b. -/
def SigDecl.hasBar (d : SigDecl) (b : Nat) : Bool := d.elems.any (fun e => e.baras.any (fun p => p.1 == b))

/-- The barrier that id b of the signature in focus names: where only another signature holds its BARA, a region's. -/
def State.barOf (s : State) (b : Nat) : Nat :=
  barKey (if s.sig.decl.hasBar b then s.sig.decl.barLevel b else 2) s.focus.sg s.spanNo b

/-- Whether DONE has reached PHA for the element in focus, as both stood at the end of the previous cycle (R367). -/
def State.barMet (s : State) (b : Nat) : Bool :=
  decide (s.oldE.pha.get 0 b ≤ (s.rg.old.bars.get Barrier.zero (s.barOf b)).done)

/-- A barrier changed. -/
def Fabric.modBar (f : Fabric) (key : Nat) (g : Barrier → Barrier) : Fabric :=
  { f with bars := f.bars.set key (g (f.bars.get Barrier.zero key)) }

/-- BARA (R366): two phases outstanding freeze the step. -/
def execBara (f : FK) (s : State) : Host.Outcome State Fault Refusal :=
  let b := bitsOf f.param 3 0
  let level := bitsOf f.param 5 4
  let key := barKey level s.focus.sg s.spanNo b
  let pha := s.oldE.pha.get 0 b
  let chk : Chk := if pha = (s.rg.old.bars.get Barrier.zero key).done + 2 then .stall else .ok
  go (s.entry [] [] chk (fun t => (t.modE (fun e => { e with pha := e.pha.set b (pha + 1) })).modNow (fun fb =>
    fb.modBar key (fun k => { k with coming := k.coming ++ [(pha + 1, s.cycle + s.rg.barDelay level)] }))))

/-- BARRIER_ARRIVAL (R366): the arrivals of the barrier in focus (key n) that are due are counted; a phase with N
arrivals completes. -/
def execBarrierArrival (s : State) : Host.Outcome State Fault Refusal :=
  let n := s.rg.barN s.focus.n
  go (s.modNow (fun f => f.modBar s.focus.n (fun k =>
    let due := k.coming.filter (fun c => c.2 ≤ s.cycle)
    let k : Barrier := { k with
      coming := k.coming.filter (fun c => !(decide (c.2 ≤ s.cycle)))
      arrived := due.foldl (fun (t : Tbl Nat) (c : Nat × Nat) => t.set c.1 (t.get 0 c.1 + 1)) k.arrived }
    -- at most two phases are outstanding (R366)
    let next : Nat → Nat := fun d => if 0 < k.arrived.get 0 (d + 1) ∧ n ≤ k.arrived.get 0 (d + 1) then d + 1 else d
    { k with done := next (next k.done) })))

/-- BARW (R367). -/
def execBarw (f : FW) (s : State) : Host.Outcome State Fault Refusal :=
  let b := bitsOf f.b 3 0
  go (s.entry [] [f.d.toNat] .ok (fun t => t.openWin (.barrier b) f.d.toNat f.win.toNat f.wm.toNat
    (if s.barMet b then some 1#32 else none)))

/-- BART (R367). -/
def execBart (f : FK) (s : State) : Host.Outcome State Fault Refusal :=
  go (s.compute [] f.d.toNat (boolWord (s.barMet (bitsOf f.param 3 0))))

/-! ## The keystone (R118, R119, R368) -/

/-- KEYS (R368, R118): the keystone goes out behind every token already sent on the page; a second one has no effect. -/
def execKeys (s : State) : Host.Outcome State Fault Refusal :=
  go (s.entry [] [] .ok (fun t => t.modNow (fun f =>
    if f.keyFired.any (fun k => k.1 == s.focus.sg) || !(s.focus.x == s.sig.decl.kx && s.focus.y == s.sig.decl.ky) then f
    else
      let last := maxNat ((f.toks.filter (fun k => k.sg == s.focus.sg)).map (·.due))
      { f with keyFired := f.keyFired ++ [(s.focus.sg, Nat.max (s.cycle + 4) last)] })))

/-- KEYSTONE_ARRIVAL (R118): each span of the signature in focus becomes idle at its first wrap from now on. -/
def execKeystoneArrival (s : State) : Host.Outcome State Fault Refusal :=
  go (s.modNow (fun f => s.sig.decl.spans.foldl (fun f d => f.modSpan s.focus.sg d.n (fun p => { p with keyed := true })) f))

/-- Whether the keystone of the chained neighbour on a side has passed (R368). -/
def State.neighbourPassed (s : State) (side : Nat) : Bool :=
  match s.rg.chained s.focus.sg side with
  | some q => (s.rg.sig q).passed
  | none => false

/-- Whether it has passed in a cycle before (R369). -/
def State.neighbourGone (s : State) (side : Nat) : Bool :=
  match s.rg.chained s.focus.sg side with
  | some q => (s.rg.sig q).passed && decide ((s.rg.sig q).passedAt ≤ s.cycle)
  | none => false

/-- KEYW (R368): met when the neighbour's keystone has passed, which may be before the fire; one that passes in the cycle of the fire counts
from the next running cycle on (R369). -/
def execKeyw (f : FW) (s : State) : Host.Outcome State Fault Refusal :=
  let side := bitsOf f.b 1 0
  go (s.entry [] [f.d.toNat] .ok (fun t => t.openWin (.keystone side) f.d.toNat f.win.toNat f.wm.toNat
    (if s.neighbourGone side then some 1#32 else none)))

end Sys2Proof.Machine
end

