-- ==== Sys2Proof/Machine/Windows.lean ====
section
/-! DEFINITION. Windows: arrivals, closes and the freeze bound (R112 to R114), and what a prefix operation does when
its window ends (R237, R411). -/

namespace Sys2Proof.Machine

open Sys2Proof

/-! ## Prefix operations (R237, R411) -/

/-- The part of a record that the chain hash covers: KIND, NC, HFMT, TOKEN, HASH. -/
def chainBytes (rec : List Byte) : List Byte := sliceBytes rec 8 3 ++ sliceBytes rec 12 12

/-- The 16 records of block blk with their payloads: the chain bytes, the contents that a lookup compares (POS
excepted), and the first poisoned sector that was delivered. None where a record leaves the log. -/
def State.prefixFetch (s : State) (blk : Nat) : Option (List Byte × List Byte × Option Nat × State) :=
  (List.range 16).foldl (fun (acc : Option (List Byte × List Byte × Option Nat × State)) i =>
    match acc with
    | none => none
    | some (h, c, bad, t) =>
      match t.readRecord (16 * blk + i) with
      | none => none
      | some (rec, pay, u) =>
        some (h ++ chainBytes rec, c ++ rec.drop 8 ++ pay, bad.or (u.recordPoison (16 * blk + i) rec), u)) (some ([], [], none, s))

/-- The prefix-table entry with equal hash and equal contents. -/
def State.prefixMatch (s : State) (h : BitVec 64) (recs : List Byte) : Option PrefixEntry :=
  (s.tenant s.rg.func).bind (fun t => t.prefixes.find? (fun e => e.h == h && e.recs == recs))

/-- A matched entry held for the round. -/
def State.holdPrefix (s : State) (h : BitVec 64) (recs : List Byte) : State :=
  s.modTenant s.rg.func (fun t => { t with prefixes := t.prefixes.map (fun e =>
    if e.h = h ∧ e.recs = recs then { e with holds := insertUniq s.focus.r e.holds } else e) })

/-- Bytes that a soft-token entry writes into its ME at an absolute offset. -/
def State.softWrite (s : State) (a : Nat) (b : List Byte) : State := s.modE (fun e => e.writeSram a b (s.decl.locTag e a))

/-- The state with a window's entry in focus. -/
def State.atWin (s : State) (w : Win) : State := { s with focus := { s.focus with stamp := w.stamp, sched := w.sched } }

/-- PHSH at its window's end, with what has been read of the block: H(b) into bytes 0 to 7, then lookup, publish of bytes 8 to 15 as VALUE, or
drop; the status (R411). -/
def State.prefixAct (s : State) (w : Win) (mode a : Nat) (prev : BitVec 64) (hb recs : List Byte) : Word × State :=
    let h := shake256_64 (leBytes 8 prev.toNat ++ hb)
    let t := (s.atWin w).softWrite a (leBytes 8 h.toNat)
    let m := t.prefixMatch h recs
    match mode with
    | 0 =>
      (match m with
      | some e => (1#32, (((t.softWrite (a + 8) (leBytes 8 e.value.toNat)).holdPrefix h recs).stage 10 (.addRef h recs)).count 0x39)
      | none => (0#32, t))
    | 1 => (1#32, t.stage 10 (.publish h recs (BitVec.ofNat 64 (leNat (t.nowE.sram.readN (a + 8) 8)))))
    | _ => (boolWord m.isSome, t.stage 10 (.dropRef h recs))

/-! ## Arrivals (R113) -/

/-- Whether a side of the element in focus is a cut link. -/
def State.isCut (s : State) (side : Nat) : Bool :=
  match s.rg.link s.focus.sg s.focus.x s.focus.y side with
  | .cut => true
  | _ => false

/-- Whether a committing store of the element in focus on a stream stands before a reader of the address: one in its 64 B sector (R168). -/
def State.behind (s : State) (sn va : Nat) : Bool :=
  s.rg.commit.any (fun i => i.sg == s.focus.sg && i.x == s.focus.x && i.y == s.focus.y && i.sn == sn &&
    (match i.act with | .row v _ => v / 64 == va / 64 | .store _ _ _ _ => sn == 8 | _ => false))

/-- Whether an element has a ROWRD of a lower issue number that is not served yet (R179, R407). -/
def Elem.rowBefore (e : Elem) (seq : Nat) : Bool :=
  e.wins.any (fun p => match p.2.kind with | .row _ _ _ q _ none => decide (q < seq) | _ => false)

/-- Whether a row read can be served: its time has come, its walk has ended (R137), the reads that it follows are done (R174), the row is not suspended, the region's
own hold has taken effect at the line, and no committing ROWWR of the same row stream stands before it (R407). -/
def State.rowReady (s : State) (pa va ready seq : Nat) (after : List Nat) : Bool :=
  decide (ready ≤ s.cycle) && !(s.walks.any (fun w => w.id == seq)) && !s.behind rowStream va && !(after.any s.rg.pendingRead) && !(s.nowE.rowBefore seq) &&
    (match s.rowHold pa with
      | some h => if h.r = s.focus.r then h.st == .held && h.lines.contains (pa / 256) else !(s.rowBusy pa)
      | none => true)

/-- Whether a window looks for what it waits for only in its own running cycles, and while it has closed empty (R331, R334, R335, R337, R369). -/
def WinKind.polls : WinKind → Bool
  | .token _ _ => true
  | .wait _ _ => true
  | .link _ => true
  | .keystone _ => true
  | _ => false

/-- Whether what a window waits for is there. A condition on a link is judged, and a word is taken, as the link stood at the end of the
previous cycle (R98, R334, R337); reads and beats count when they have landed (DEDUCED, log 79). -/
def State.winReady (s : State) (w : Win) : Bool :=
  match w.kind with
  | .result due _ => decide (due ≤ s.cycle)
  | .token t _ => decide (s.nowE.tok.get 0 t ≠ 0)
  | .wait cls idx => waitHolds (if cls < 2 then s.oldE else s.nowE) s.outRoom cls idx
  | .link side => s.isCut side || decide (s.nowE.taken.get 0 side < (s.inWords side).length)
  | .copy cid => !s.nowE.copyBusy cid
  | .barrier b => s.barMet b
  | .keystone side => s.neighbourPassed side
  | .drain mask => s.rg.drained s.focus.sg s.focus.x s.focus.y mask
  | .row _ _ _ _ _ got => got.isSome
  | .text _ _ a got => got.isSome && !(s.nowE.asleep a 1023)
  | .prefixOp _ _ _ a _ got => got.isSome && !(s.nowE.asleep a 16)

/-- The value that arrives, with what its arrival does: a token or a word is taken, with the poison it carries (R253), and text is
written. -/
def State.winValue (s : State) (w : Win) : Word × State :=
  match w.kind with
  | .result _ v => (v, s)
  | .token t ctr => (1#32, s.modE (fun e => e.takeToken t ctr))
  | .link side =>
    if s.isCut side then (0#32, s.raise { s.fltHere 0x22 0 0 with stamp := w.stamp, sch := if w.sched then 1 else 0 })
    else
      let t := s.popIn side
      (((s.nowE.inq.get [] side).head?).getD 0#32,
        if s.nowE.rangePoison (regWord (64 + side)) 4 then t.consumed w.stamp w.sched 0 else t)
  | .row _ _ _ _ _ got => (got.getD 0#32, s)
  | .copy cid => (1#32, s.modE (fun e => e.awaited cid))
  | .text _ _ a got =>
    let x := got.getD []
    (BitVec.ofNat 32 x.length, if x = [] then s else s.softWrite a x)
  | _ => (1#32, s)

/-- The window's end with its result: the destination is written, the pending range goes, a prefix operation acts. -/
def State.endWin (s : State) (latch : Nat) (w : Win) (v : Word) : State :=
  let r : Word × State := match w.kind with
    | .prefixOp _ mode _ a prev got => s.prefixAct w mode a prev (got.getD ([], [])).1 (got.getD ([], [])).2
    | .text _ _ a _ => (v, s.modE (fun e => { e with marks := e.marks.erase (.range a 1023) }))
    | _ => (v, s)
  (r.2.putRaw w.dst r.1).modE (fun e => { e with wins := e.wins.del latch })

/-- The word of a ROWRD served: its value is fixed at the serving point, with the poison that it delivers (R165, R253, R407). -/
def State.rowFetch (s : State) (latch : Nat) (w : Win) (pa va ready seq : Nat) (after : List Nat) : State :=
  if s.rowReady pa va ready seq after then
    let v := BitVec.ofNat 32 (leNat (s.coh.readN pa 4))
    let t := s.touchRead s.rg.func s.page va pa 4 0
    let t := match s.poisonedAt s.rg.func va 4 with
      | some p => t.consumed w.stamp w.sched p
      | none => t
    t.modE (fun e => { e with wins := e.wins.set latch { w with kind := .row pa va ready seq after (some v) } })
  else s

/-- The text of a VTXT, or the records of a PHSH, read once their time has come and all of them is translated. -/
def State.textFetch (s : State) (latch : Nat) (w : Win) (due id a : Nat) : State :=
  if s.cycle < due then s
  else match s.needsWait w.stamp w.sched (s.textNeeds [] (BitVec.ofNat 32 id)) with
    | some t => t
    | none =>
      let r := (s.atWin w).tokenText [] (BitVec.ofNat 32 id)
      { r.2.modE (fun e => { e with wins := e.wins.set latch { w with kind := .text due id a (some r.1) } }) with focus := s.focus }
def State.blockFetch (s : State) (latch : Nat) (w : Win) (due mode blk a : Nat) (h : BitVec 64) : State :=
  if s.cycle < due ∨ s.behind 8 0 then s
  else match s.needsWait w.stamp w.sched ((List.range 16).flatMap (fun i => s.recordNeeds (16 * blk + i))) with
    | some t => t
    | none =>
      let u := s.atWin w
      match u.prefixFetch blk with
      | none => { u.raiseHere 0x40 (u.nowE.dc.lbase + 1024 * blk) with focus := s.focus }
      | some (hb, recs, bad, t) =>
        let t := match bad with
          | some p => t.consumed w.stamp w.sched p
          | none => t
        { t.modE (fun e => { e with wins := e.wins.set latch { w with kind := .prefixOp due mode blk a h (some (hb, recs)) } }) with
          focus := s.focus }

/-- WINDOWED_RESULT_ARRIVAL (R113): the result of latch n of the element in focus is held, or ends a window that has
closed empty; the word of a ROWRD, the text of a VTXT and the records of a PHSH are read first. -/
def execWindowedResultArrival (s : State) : Host.Outcome State Fault Refusal :=
  let l := s.focus.n
  match s.nowE.wins.find l with
  | none => go s
  | some w =>
    match w.kind with
    | .row pa va ready seq after none => go (s.rowFetch l w pa va ready seq after)
    | .text due id a none => go (s.textFetch l w due id a)
    | .prefixOp due mode blk a h none => go (s.blockFetch l w due mode blk a h)
    | _ =>
    if w.res.isSome || !(s.winReady w) then go s else
    let r := s.winValue w
    if w.closed then go (r.2.endWin l w r.1)
    else go (r.2.modE (fun e => { e with wins := e.wins.set l { w with res := some r.1 } }))

/-- A fault of the entry that opened a window, with its WIN (R248). -/
def State.winFault (s : State) (w : Win) (code : Nat) : State :=
  s.raise { s.fltHere code w.w 0 with stamp := w.stamp, sch := if w.sched then 1 else 0 }

/-- WINDOW_CLOSE (R113): at the end of its last running cycle the latched result is written; a window that closes
empty faults, or freezes its span; event 4 counts it. -/
def execWindowClose (s : State) : Host.Outcome State Fault Refusal :=
  let l := s.focus.n
  match s.nowE.wins.find l with
  | none => go s
  | some w =>
    match w.res with
    | some v => go (s.endWin l w v)
    | none =>
      if w.wm = 1 then go ((s.winFault w 0x20).count 0x04)
      else go ((s.modE (fun e => { e with wins := e.wins.set l { w with closed := true } })).count 0x04)

/-- FREEZE_BOUND_EXPIRY (R113, R114): no result came within W frozen cycles under freeze-then-fault, or within 65,536
cycles of a debug break. -/
def execFreezeBoundExpiry (s : State) : Host.Outcome State Fault Refusal :=
  match s.nowE.wins.find s.focus.n with
  | none => go s
  | some w => go (s.winFault w 0x21)

end Sys2Proof.Machine
end

