-- ==== Sys2Proof/Machine/Rounds.lean ====
section
/-! DEFINITION. Rounds: the boundary, the commit and its epochs, folds, the round limit, replays and keystone passes
(R87, R118 to R123, R134, R135, R171, R216, R237, R238, R251, R261, R262, R417, R443). -/

namespace Sys2Proof.Machine

open Sys2Proof

/-! ## Small things -/

/-- The state with an element in focus, by its key. -/
def State.atKey (s : State) (k : Nat) : State :=
  { s with focus := { s.focus with sg := k / 1024, x := k % 32, y := k / 32 % 32 } }

/-- The state with the issuer of a staged item in focus. -/
def State.atItem (s : State) (i : Staged) : State :=
  { s with focus := { s.focus with sg := i.sg, x := i.x, y := i.y, stamp := i.stamp, sched := i.sched } }

/-- The signatures whose keystone has been fired in the running fabric. -/
def Region.keyed (g : Region) (sg : Nat) : Bool := g.now.keyFired.any (fun k => k.1 == sg)

/-! ## The round boundary (R120, R135) -/

/-- The words of endpoint write streams that wait for their beat are placed in the commit buffer (R346). -/
def State.flushParts (s : State) : State :=
  s.rg.now.elems.foldl (fun (t : State) (p : Nat × Elem) =>
    p.2.streams.foldl (fun (u : State) (q : Nat × Stream) => if q.2.part = [] then u else (u.atKey p.1).flushBeat q.1) t) s

/-- One eviction-schedule entry: its ME range as 1 KiB engine pieces to its buffer, charged and counted as those of a copy are (R71, R134,
R135, R259). What stands in the banks is written, whatever its tags: a write-back has no buffer distance to compare (DEDUCED, log 73). -/
def State.evict (s : State) (sg : Nat) (w : EWord) : State :=
  let t := s.atKey (elemKey sg (bitsOf w 63 59) (bitsOf w 58 54))
  let t := { t with focus := { t.focus with stamp := 0xFFFF, sched := false } }
  let off := 64 * bitsOf w 53 42
  let len := 64 * bitsOf w 41 30
  let va := ((t.imageBuf (bitsOf w 29 24)).map (·.va)).getD 0 + 1024 * bitsOf w 23 2
  let e := t.nowE
  (List.range (ceilDiv len 1024)).foldl (fun u i =>
    let n := Nat.min 1024 (len - 1024 * i)
    let bad := ((List.range (n / 64)).map (64 * ·)).filter (fun k => e.rangePoison (off + 1024 * i + k) 64)
    (u.stage 12 (.store (va + 1024 * i) (e.sram.readN (off + 1024 * i) n) 0 bad)).modR (fun g =>
      { g.count 0x09 u.page 1 with roundBytes := g.roundBytes + n })) t

/-- Whether an entry's WHEN selects a boundary. -/
def evictWhen (w : EWord) (final : Bool) : Bool :=
  match bitsOf w 1 0 with
  | 0 => true
  | 1 => final
  | 2 => !final
  | _ => false

/-- The eviction write-backs of a boundary. -/
def State.evictAll (s : State) (final : Nat → Bool) : State :=
  (List.range s.rg.sigs.length).foldl (fun t sg =>
    if (t.rg.sig sg).passed then t
    else ((t.rg.sig sg).decl.evicts.filter (fun w => evictWhen w (final sg))).foldl (fun u w => u.evict sg w) t) s

/-- The RMWs of the ended round whose return or acquire is awaited, as reads of an element (R357). -/
def rmwReads (l : List Staged) (k : Nat) : List Read :=
  l.filterMap (fun i =>
    if elemKey i.sg i.x i.y = k then
      match i.act with
      | .rmw va _ _ _ ret hint rid acq =>
        if ret.isSome || acq.isSome then
          some { id := rid, sn := i.sn, seq := 0, va := va, size := 4, hint := hint, dst := ret.getD 0, fifo := none, bt := false,
                 gath := false, rmw := true, soft := none, acq := acq, after := [], waits := [], stage := 1, due := 0,
                 stamp := i.stamp, sched := i.sched, bytes := [], bad := none }
        else none
      | _ => none
    else none)

/-- Whether an item is an RMW, which waits for its slot (R177). -/
def Act.isRmw : Act → Bool
  | .rmw _ _ _ _ _ _ _ _ => true
  | _ => false

/-- Whether an item is an EVENT. -/
def Act.isEvent : Act → Bool
  | .event _ _ _ => true
  | _ => false

/-- The items of a commit with the phase of each in its epoch: the items of one element keep their order, and phases with RMWs, the odd
ones, alternate with the others. -/
def phased (l : List Staged) : List (Nat × Staged) :=
  (l.foldl (fun (a : Tbl Nat × List (Nat × Staged)) i =>
    let k := i.epoch * 2 ^ 20 + elemKey i.sg i.x i.y
    let p := a.1.get 0 k
    let n := if (p % 2 == 1) == i.act.isRmw then p else p + 1
    (a.1.set k n, a.2 ++ [(n, i)])) ([], [])).2

/-- Strict order of pairs of numbers. -/
def pairLt (a b : Nat × Nat) : Bool := decide (a.1 < b.1) || (a.1 == b.1 && decide (a.2 < b.2))

/-- The items of a commit in the order they are performed: memory items by epoch, and in each by phase, so that the RMWs of an epoch stand
together; then the rest in order of issue, and EVENTs by period and stamp (R413; DESIGN CHOICE, log 55). -/
def commitOrder (l : List Staged) : List Staged :=
  (sortBy (fun (a b : Nat × Staged) => pairLt (a.2.epoch, a.1) (b.2.epoch, b.1)) (phased (l.filter (fun i => i.act.memory)))).map Prod.snd ++
  l.filter (fun i => !i.act.memory && !i.act.isEvent) ++
  sortBy (fun a b => pairLt (a.epoch, a.stamp) (b.epoch, b.stamp)) (l.filter (fun i => i.act.isEvent))

/-- Reads whose issue the RMWs of a round withhold over its boundary: those that follow one of them, or one that does, are accesses of the
round in which it is performed (R171, R174; DEDUCED, log 99). -/
def withheldReads (rids : List Nat) (l : List Read) : List Read :=
  (l.foldl (fun (a : List Read × List Nat) r =>
    let late := !r.rmw && r.after.any a.2.contains
    (a.1 ++ [{ r with late := late }], if late then r.id :: a.2 else a.2)) ([], rids)).1

/-- The fabric after the boundary: its staged items are the commit's, and what they await is outstanding. -/
def Fabric.ended (f : Fabric) (keyed : Nat → Bool) : Fabric :=
  { f with
    elems := f.elems.map (fun (p : Nat × Elem) => (p.1, { p.2 with
      reads := withheldReads (f.staged.filterMap (·.act.rmwId)) p.2.reads ++ rmwReads f.staged p.1, epoch := [], used := [], usedDie := [] }))
    spans := f.spans.map (fun (p : Nat × Span) => (p.1, if keyed (p.1 / 16) then { p.2 with run := .idle } else p.2))
    staged := []
    sigTaken := 0 }

/-- The item that takes the values that the round took of the signal queue (R419). -/
def Region.takeItem (g : Region) : List Staged :=
  if g.now.sigTaken = 0 then []
  else [{ sg := 0, x := 0, y := 0, sn := 10, epoch := 0, seq := 0, stamp := 0, sched := false, act := .take g.now.sigTaken }]

/-- What follows a boundary: a region whose signatures are all final ends (R93, R124); one that is asked to yield saves
(R86) within what is left of the bounds of R88; else the next round starts 8 cycles after the boundary, which is the cycle after the last
steps (R120). -/
def Region.afterBoundary (g : Region) (cycle save : Nat) : RegionMode :=
  if g.sigs.all (fun q => q.passed || q.final) then .draining
  else if g.yieldReq.isSome then .saving (cycle + save) false
  else .between (cycle + 9)

/-- The epochs of some items. -/
def epochsOf (l : List Staged) : Nat := (l.map (·.epoch)).dedup.length

/-- How many cycles the commit of some items takes once it has started: one for each epoch, of which those beyond the first 300 go ever
faster, and 16 for each RMW at most (R171, R177; DEDUCED, log 68). -/
def commitCycles (l : List Staged) : Nat :=
  2 + Nat.min 3000 (epochsOf l) + 17 * (l.filter (fun i => i.act.isRmw)).length

/-- ROUND_BOUNDARY (R120): the round of the region in focus ends. What it has run up is posted, and then the scheduler's requests are
made (R71, R85). Its counts and its staged items become the commit's, which is done within the 5,000 cycles of R88 (DEDUCED, log 68); reads
that it has issued and that are still to be served come before the commit's items (R168). A HALT waits for a yield that is taken here
(R420). -/
def execRoundBoundary (s : State) : Host.Outcome State Fault Refusal :=
  let r := s.focus.r
  let halt := s.rg.haltTaken && s.rg.yieldReq.isNone
  let final := fun sg => halt || s.rg.keyed sg
  let t := (s.flushParts.evictAll final).post r
  let t := t.askYields t.chosenItem
  let (lat, t) := t.latMost (5000 - commitCycles (t.rg.now.staged))
  let (save, t) := t.latMost (t.rg.saveMost s.cycle)
  let t := { t with focus := s.focus }
  go (t.modReg r (fun g =>
    let f := g.now.ended final
    let g := { g with
      old := f, now := f, ckpt := f, commit := commitOrder (g.now.staged ++ g.takeItem), commitOn := true, commitDue := s.cycle + lat
      staging := g.counts, stagingCfgs := g.cfgs, counts := [], roundPc := (g.cyc + 1) * g.held, rnd := g.rnd + 1
      cycSum := g.cycSum + g.cyc + 1, voids := 0, readsTo := t.nextId
      sigs := (List.range g.sigs.length).map (fun i => { g.sig i with final := (g.sig i).final || final i })
      limit := 0, cyc := 0, brk := none, attempt := 0, holdsNew := [] }
    { g with mode := g.afterBoundary s.cycle save }))

/-! ## Performing the commit (R121, R167, R171, R175) -/

/-- A CMO performed: at level L2 the vocabulary cache drops the range; at system level dirty sectors are written to
DRAM, and an invalidate removes the lines (R175). -/
def State.performCmo (s : State) (func va len op lvl : Nat) : State :=
  if lvl = 0 then s.dropVocab func va len else s.cmoRange func va len (op != 1) (op != 0)

/-- A store, row store, host write or CMO of the commit performed at its serving point, or a retention register changed. A host write that
fails ends the launch (R162); its void discards the counts of the running round alone (R123, R444). -/
def State.performItem (s : State) (i : Staged) : State :=
  let t := s.atItem i
  let func := t.rg.func
  let by_ : Nat → StoreBy := fun hint => { page := t.page, stamp := i.stamp, sched := i.sched, hint := hint }
  match i.act with
  | .store va b hint bad =>
    let u := t.storeVa func (by_ hint) va b bad
    if i.sn < 9 then u.count 0x08 else u
  | .row va b => t.storeVa func (by_ 0) va b []
  | .host ha b =>
    if t.hostFails ha b.length then ((t.modR Region.swapCounts).endLaunch func t.rg.ltag 0x12).modR Region.swapCounts
    else { t with host := t.host.writeN ha b }
  | .port p l => t.portSend p 0 l
  | .cmo va len op lvl => t.performCmo func va len op lvl
  | .through l => t.cleanThrough func l
  | .retn reg va lines =>
    let u := t.unpinReg func reg
    if lines = 0 then u else u.modTenant func (fun x => { x with retain := x.retain.set reg { vbase := va, lines := lines } })
  | .unpin reg => t.unpinReg func reg
  | _ => t

/-- The items at the head of a commit that are performed together: those of the head's epoch before its next RMW. -/
def headRun (l : List Staged) : List Staged :=
  match l with
  | [] => []
  | i :: _ => l.takeWhile (fun j => j.epoch == i.epoch && j.act.memory && !j.act.isRmw)

/-- What keeps an item of the commit from being performed, its issuer in focus: a row that is suspended (R161), and, of a write-back, its
translation (R137, R141); once a fault has been raised it waits for what follows. None where it goes on. -/
def State.itemWait (s : State) (i : Staged) : Option State :=
  i.act.range.bind (fun q =>
    let mapped := s.rangeChk q.1 q.2 true == .ok && (s.transMiss q.1 q.2).isNone
    if i.sn ≠ 12 || mapped then (if s.vaBusy s.rg.func q.1 q.2 then some s else none)
    else if s.rg.over then none
    else if s.rg.raised != [] || s.rg.fid.isSome then some s
    else s.engineWait i.stamp i.sched q.1 q.2 true)

/-- Whether a write-back is put off until the region resumes: an unresolved fault keeps it from its page while the region saves, and what
an engine has left is saved with the region; so is a store whose page has gone since its issue (R88, R89; DEDUCED, log 17, 21). -/
def State.putsOff (s : State) (i : Staged) : Bool :=
  s.rg.saves && !s.rg.over && s.rg.fid.isSome &&
    i.act.range.any (fun q => if i.sn = 12 then !(s.rangeChk q.1 q.2 true == .ok && (s.transMiss q.1 q.2).isNone)
      else s.issueChk q.1 q.2 true != .ok)

/-- The items of a run performed or put off, up to the first that has to wait: how many, and the state after them. -/
def State.performRun (s : State) : List Staged → Nat × State
  | [] => (0, s)
  | i :: rest =>
    if (s.atItem i).putsOff i then
      let r := (s.modR (fun g => { g with writeBacks := g.writeBacks ++ [i] })).performRun rest
      (r.1 + 1, r.2)
    else match (s.atItem i).itemWait i with
    | some t => (0, t)
    | none =>
      let r := (s.performItem i).performRun rest
      (r.1 + 1, r.2)

/-- COMMIT_EPOCH_PERFORM (R171): the stores of the lowest epoch of the region in focus are performed, up to an RMW,
which waits for its slot (R177). -/
def execCommitEpochPerform (s : State) : Host.Outcome State Fault Refusal :=
  let r := (s.modR Region.swapCounts).performRun (headRun s.rg.commit)
  let t := { r.2 with focus := s.focus }
  go ((t.modR Region.swapCounts).modR (fun g => { g with commit := g.commit.drop r.1 }))

/-! ## Prefix tables at commit (R237, R238) -/

/-- The index of the entry of a table with equal hash and contents. -/
def prefixIdx (l : List PrefixEntry) (h : BitVec 64) (recs : List Byte) : Option Nat :=
  l.findIdx? (fun e => e.h == h && e.recs == recs)

/-- A reference added: REF saturates and then becomes sticky. -/
def PrefixEntry.addRef (e : PrefixEntry) : PrefixEntry :=
  if e.ref + 1 ≥ 65535 then { e with ref := 65535, sticky := true } else { e with ref := e.ref + 1 }

/-- A reference dropped: ignored at REF 0 and on a sticky entry. -/
def PrefixEntry.dropRef (e : PrefixEntry) : PrefixEntry := if e.sticky then e else { e with ref := e.ref - 1 }

/-- The entries of a table with an entry of equal hash and contents changed. -/
def onPrefix (h : BitVec 64) (recs : List Byte) (g : PrefixEntry → PrefixEntry) (t : Tenant) : Tenant :=
  { t with prefixes := t.prefixes.map (fun e => if e.h = h ∧ e.recs = recs then g e else e) }

/-- A publish: a reference where an equal entry stands; dropped where an entry of equal H has other contents or the set
has no free slot; else inserted with REF 1. -/
def Tenant.publish (t : Tenant) (h : BitVec 64) (recs : List Byte) (value : BitVec 64) : Bool × Tenant :=
  let new : PrefixEntry := { h := h, recs := recs, value := value, ref := 1, sticky := false, holds := [] }
  let set := t.prefixes.filter (fun e => e.h.toNat % 4096 == h.toNat % 4096)
  if (prefixIdx t.prefixes h recs).isSome then (true, onPrefix h recs PrefixEntry.addRef t)
  else if set.any (fun e => e.h == h) then (false, { t with collisions := t.collisions + 1 })
  else if set.length < 16 then (true, { t with prefixes := t.prefixes ++ [new] })
  else match set.find? (fun e => e.ref == 0 && e.holds == []) with
    | some e => (true, { t with prefixes := t.prefixes.map (fun q => if q.h = e.h ∧ q.recs = e.recs then new else q) })
    | none => (false, { t with collisions := t.collisions + 1 })

/-! ## Folds (R258 to R262, R443) -/

/-- What a configuration word counts of a round's counts, for a tenant (R259, R260): page events of the tenant's own
region, and line events of its lines. -/
def countFor (counts : Tbl Nat) (own : Bool) (tenant : Nat) (cfg : Word) : Nat :=
  let ev := bitsOf cfg 7 0
  let pgf := bitAt cfg 29
  if !bitAt cfg 31 then 0
  else
    ((counts.filter (fun p => if p.1 < 1000000 then own && p.1 / 128 == ev && (!pgf || p.1 % 128 == bitsOf cfg 28 22)
        else !pgf && p.1 == 1000000 + ev * 64 + tenant)).map Prod.snd).sum

/-- The lowest page that a region holds. -/
def Region.lowPage (g : Region) : Nat := (g.sigs.filter (fun q => !q.passed)).foldl (fun m q => Nat.min m q.page) 127

/-- One tenant's programmable counters after the fold of a round of region g, by the configuration at the round's start (R261), with an
EVENT for each wrap (R262, R443). -/
def State.foldTenant (s : State) (g : Region) (f : Nat) : State :=
  match s.tenants.find f with
  | none => s
  | some t =>
    let own := f == g.func
    (List.range 4).foldl (fun (u : State) i =>
      let cfg := g.stagingCfgs.get 0#32 (f * 4 + i)
      let v := t.pmc.get 0 i + countFor g.staging own f cfg
      let u := u.modTenant f (fun t => { t with pmc := t.pmc.set i (v % 2 ^ 48) })
      if bitAt cfg 30 then
        (List.range (v / 2 ^ 48)).foldl (fun w _ =>
          w.eventMsg f 1 (if own then g.lowPage else 0xFFFF) (if own then w.hostTag f g.ltag else 0#32) (BitVec.ofNat 32 i) 0 0 0) u
      else u) s

/-- The counts of a region's ended rounds that are still to be folded: where no round will come in which they could be folded later, all that
its pending entries, engines and walks have counted since (R245, R263, R443, R444). -/
def Region.unfolded (g : Region) : Tbl Nat :=
  match g.mode with
  | .saving _ _ => g.staging ++ g.counts
  | .draining => g.staging ++ g.counts
  | _ => g.staging

/-- The fold of the ended round of region r: every tenant's counters, and CYC and RND of its own (R258, R261). A commit of nothing but what
pending entries and engines have staged since ends no round. -/
def State.foldRound (s : State) (r : Nat) : State :=
  let g := { s.reg r with staging := (s.reg r).unfolded }
  let t := (s.tenants.map Prod.fst).foldl (fun u f => u.foldTenant g f) s
  let t := t.modReg r (fun g => { g with staging := [], counts := if g.saves || g.mode == .draining then [] else g.counts })
  if g.roundPc = 0 then t
  else (t.modTenant g.func (fun t => { t with pmCyc := (t.pmCyc + g.roundPc) % 2 ^ 48, pmRnd := (t.pmRnd + 1) % 2 ^ 48 })).modReg r
      (fun g => { g with roundPc := 0, commits := g.commits + 1 })

/-- A word of the counter file written: CYC and RND are read-only, and a configuration word's reserved bits read 0 (R258, R415). -/
def Tenant.writePm (t : Tenant) (i : Nat) (v : Word) : Tenant :=
  if i < 8 then
    let old := t.pmc.get 0 (i / 2)
    { t with pmc := t.pmc.set (i / 2) (if i % 2 = 0 then old / 2 ^ 32 * 2 ^ 32 + v.toNat else old % 2 ^ 32 + v.toNat % 2 ^ 16 * 2 ^ 32) }
  else if 12 ≤ i ∧ i < 16 then { t with pmcfg := t.pmcfg.set (i - 12) (v &&& 0xFFC000FF#32) }
  else t

/-- The counter file by index (R258). -/
def Tenant.pmFile (t : Tenant) : Tbl Word :=
  (List.range 16).map (fun i => (i,
    if i < 8 then BitVec.ofNat 32 (t.pmc.get 0 (i / 2) / 2 ^ (32 * (i % 2)))
    else if i < 10 then BitVec.ofNat 32 (t.pmCyc / 2 ^ (32 * (i % 2)))
    else if i < 12 then BitVec.ofNat 32 (t.pmRnd / 2 ^ (32 * (i % 2)))
    else t.pmcfg.get 0#32 (i - 12)))

/-! ## The end of a commit (R121, R148, R160, R360, R413, R415, R417, R419) -/

/-- A folio written back to its slot: VALID is 0 where its invocation is open (R216). The poison of its state goes with it, to the sectors of
the slot (R223, R253). -/
def State.writeFolio (s : State) (func : Nat) (d : FolioDecl) (k : Folio) (home : Elem) : State :=
  let ctl := if k.ph = 0 then k else { k with valid := false }
  let bad := ((List.range (d.bytes / 64)).map (64 * ·)).filter (fun o => home.rangePoison (k.xOff - 64 + o) 64)
  let at_ := ((s.tenants.find func).bind (fun t => t.folios.find? (fun q => q.layer == d.layer))).map (·.pa)
  (at_.elim s (fun pa => s.markSectors pa d.bytes bad)).modTenant func (fun t => { t with folios := t.folios.map (fun q =>
    if q.layer = d.layer then
      { q with ctl := ctl, xp := bytesWords (home.sram.readN k.xOff (4 * d.n)), yp := bytesWords (home.sram.readN (k.yOff d) (4 * d.m)) }
    else q) })

/-- The folios of a signature of a region written back. -/
def State.writeFoliosOf (s : State) (g : Region) (sg : Nat) : State :=
  let ds := (g.sig sg).decl.folios
  (List.range ds.length).foldl (fun t i =>
    let d := (ds[i]?).getD FolioDecl.none
    t.writeFolio g.func d (g.now.folios.get Folio.zero (folioKey sg i)) (g.now.elem sg d.hx d.hy)) s

/-- The folios of a signature of a bound region written back. -/
def State.writeFolios (s : State) (r sg : Nat) : State := s.writeFoliosOf (s.reg r) sg

/-- A saved region given up with its saved rows (R93); under HALT its folios are written back first (R417). -/
def State.dropSaved (s : State) (g : Region) (writeBack : Bool) : State :=
  let t := if writeBack then (List.range g.sigs.length).foldl (fun u sg => if (g.sig sg).passed then u else u.writeFoliosOf g sg) s else s
  { t with rows := t.rows.filter (fun h => !(h.st == RowSt.saved && h.r == g.num)) }

/-- HALT at the commit of its round (R417): nothing more of the launch is released; its bound regions stop at their next
boundary; its saved regions, which are at one, end; ready loads that are not bound go. -/
def State.haltLaunch (s : State) (func : Nat) (tag : Word) : State :=
  let mine : Ready → Bool := fun i => i.func == func && i.ltag == tag
  let t := (s.items.filter mine).foldl (fun (u : State) i => match i.saved with
    | some g => u.dropSaved g true
    | none => u) (s.modLaunch func tag (fun l => { l with noMore := true }))
  { t with
    items := t.items.filter (fun i => !(mine i))
    chosen := t.chosen.filter (fun c => !(c.1 == func && c.2.1 == tag))
    regions := t.regions.map (fun (p : Nat × Region) =>
      (p.1, if p.2.func = func ∧ p.2.ltag = tag then { p.2 with haltTaken := true } else p.2))
    choicePend := true }

/-- An item of the commit that takes effect when its stores are performed. -/
def State.lateItem (s : State) (i : Staged) : State :=
  let t := s.atItem i
  let func := t.rg.func
  match i.act with
  | .rowRel hx =>
    (match t.rowPa hx with
    | some pa => (match t.rowHold pa with
      | some h => if h.r = t.focus.r ∧ h.st ≠ .saved then t.releaseHold pa else t
      | none => t)
    | none => t)
  | .publish h recs v =>
    let r := ((t.tenants.find func).map (fun x => x.publish h recs v)).getD (true, Tenant.zero)
    let u := t.modTenant func (fun x => (x.publish h recs v).2)
    if r.1 then u else u.count 0x3A
  | .addRef h recs => t.modTenant func (onPrefix h recs PrefixEntry.addRef)
  | .dropRef h recs => t.modTenant func (onPrefix h recs PrefixEntry.dropRef)
  | .event src v stamp => t.eventMsg func src t.page (t.hostTag func t.rg.ltag) v i.x i.y stamp
  | .take n => t.modLaunch func t.rg.ltag (fun l => { l with signals := l.signals.drop n })
  | .halt => t.haltLaunch func t.rg.ltag
  | _ => t

/-- A tenant's counter file after one write of a commit. -/
def Tenant.pmWrite (t : Tenant) (a : Act) : Tenant :=
  match a with
  | .pmwr idx v => t.writePm idx v
  | .pmcf idx v => { t with pmcfg := t.pmcfg.set idx v }
  | _ => t

/-- A counter-file write of the commit, after the fold of its round. -/
def State.pmItem (s : State) (i : Staged) : State :=
  match i.act with
  | .pmwr _ _ | .pmcf _ _ => s.modTenant s.rg.func (fun t => t.pmWrite i.act)
  | _ => s

/-- The holds that the ended round's lookups kept go, but for entries that the running round has matched too (R237). -/
def State.endHolds (s : State) (r : Nat) : State :=
  s.modTenant (s.reg r).func (fun t => { t with prefixes := t.prefixes.map (fun e =>
    if (s.reg r).now.staged.any (fun i => i.act == .addRef e.h e.recs) then e else { e with holds := e.holds.filter (· != r) }) })

/-- ROUND_COMMIT (R121, R261): the stores of the ended round of the region in focus are performed; its other effects
come, its counts are folded, and then its counter-file writes. What the fold makes due may call for a yield (R85). -/
def execRoundCommit (s : State) : Host.Outcome State Fault Refusal :=
  let r := s.focus.r
  let late := s.rg.commit
  let t := late.foldl (fun u i => u.lateItem i) (s.modR Region.swapCounts)
  let t := ({ t with focus := s.focus }).modR Region.swapCounts
  let t := late.foldl (fun u i => u.pmItem i) ((t.endHolds r).foldRound r)
  go (t.modR (fun g => { g with commit := [], commitOn := false, sigs := g.sigs.map (fun q => { q with done := q.final }) })).askBudget

/-! ## Starting a round (R120, R122, R123) -/

/-- A span at the start of a round: counter 0, and the switch of a schedule that has changed (R104, R445). -/
def Span.startRound (p : Span) : Span :=
  let q := { p with counter := 0, periods := 0, pstart := 0, cyc := 0, stalled := false }
  match p.run with
  | .waiting sw => { q with run := if sw then .switching 2 else .running }
  | _ => q

/-- The signal queue as the round sees it: what earlier rounds have taken is gone (R419). -/
def State.signalsFor (s : State) (g : Region) : List Word :=
  let taken := (g.commit.map (fun i => match i.act with | .take n => n | _ => 0)).sum
  (((s.launchOf g.func g.ltag).map (·.signals)).getD []).drop taken

/-- Every tenant's configuration words, by function × 4 + index, at the start of a round of region g: those that its last round has
written govern from here on, though the commit may be under way (R261). -/
def State.configs (s : State) (g : Region) : Tbl Word :=
  s.tenants.flatMap (fun p =>
    let t := if p.1 = g.func then g.commit.foldl (fun t i => t.pmWrite i.act) p.2 else p.2
    (List.range 4).map (fun i => (p.1 * 4 + i, t.pmcfg.get 0#32 i)))

/-- A round begins: every span starts, and the checkpoint is taken (R122). -/
def State.beginRound (s : State) (r : Nat) : State :=
  let g := s.reg r
  let sig := s.signalsFor g
  let pm := ((s.tenants.find g.func).map Tenant.pmFile).getD []
  s.modReg r (fun g =>
    let f := { g.now with spans := g.now.spans.map (fun (p : Nat × Span) => (p.1, p.2.startRound)) }
    { g with old := f, now := f, ckpt := f, mode := .running, limit := 0, cyc := 0, attempt := 0, holdsNew := [],
             returns := [], roundNs := s.ns, sigSnap := sig, pmFile := pm, cfgs := s.configs g,
             baseBytes := g.roundBytes, shadowBad := none })

/-- ROUND_START (R120): all spans of the region in focus start together. -/
def execRoundStart (s : State) : Host.Outcome State Fault Refusal := go (s.beginRound s.focus.r)

/-- REPLAY_START (R123): the round replays from the checkpoint. -/
def execReplayStart (s : State) : Host.Outcome State Fault Refusal := go (s.modR Region.replay)

/-! ## Limits (R87, R248, R257) -/

/-- The spans of a region that have not reached the boundary, as (page, number, signature). -/
def Region.late (g : Region) : List (Nat × Nat × Nat) :=
  sortBy (fun (a b : Nat × Nat × Nat) => a.1 < b.1 || (a.1 == b.1 && a.2.1 < b.2.1))
    ((List.range g.sigs.length).flatMap (fun sg => (g.sig sg).decl.spans.filterMap (fun d =>
      match (g.now.span sg d.n).run with
      | .idle => none
      | .waiting _ => none
      | _ => some ((g.sig sg).page, d.n, sg))))

/-- The signature on the lowest page that a region holds. -/
def Region.lowSig (g : Region) : Nat :=
  ((List.range g.sigs.length).find? (fun sg => !(g.sig sg).passed && (g.sig sg).page == g.lowPage)).getD 0

/-- The report of a round-limit void (R248): the lead element of the first span, by page and number, short of the
boundary; of span 0 on the lowest page where every span waits. -/
def Region.limitFault (g : Region) : Flt :=
  let (page, n, sg) := (g.late.head?).getD (g.lowPage, 0, g.lowSig)
  let d := (g.sig sg).decl.spans.find? (fun d => d.n == n)
  let p := g.now.span sg n
  { code := 0x51, page := page, x := (d.map (·.x0)).getD 0xFF, y := (d.map (·.y0)).getD 0xFF, sch := if p.sched then 1 else 0
    stamp := p.counter, win := 0, addr := 0, resumable := false, counts := true }

/-- ROUND_LIMIT_EXPIRY (R87): the round reaches 12,500 cycles, and is voided: a forced yield, or the end of the region
(R251). What the void posts may call for yields (R85). -/
def execRoundLimitExpiry (s : State) : Host.Outcome State Fault Refusal :=
  go ((s.raise s.rg.limitFault).takeFault s.focus.r).askBudget

/-- DEBUG_BREAK_TIMEOUT (R257): a break that no SIGNAL has released ends with fault 0x21. -/
def execDebugBreakTimeout (s : State) : Host.Outcome State Fault Refusal :=
  match s.rg.brk with
  | none => go s
  | some b =>
    let t := { s with focus := { s.focus with sg := b.sg, x := b.x, y := b.y, stamp := b.stamp, sched := b.sched } }
    go ((t.raiseHere 0x21 0).takeFault s.focus.r).askBudget

/-! ## Keystones (R118, R119, R216, R417) -/

/-- The sides of an element that face a signature. -/
def Region.facing (g : Region) (k sg : Nat) : List Nat :=
  [(0, k / 32 % 32 == 31), (1, k % 32 == 31), (2, k / 32 % 32 == 0), (3, k % 32 == 0)].filterMap (fun p =>
    if p.2 && g.chained (k / 1024) p.1 == some sg then some p.1 else none)

/-- The words in the input queues on some sides discarded, with their marks. -/
def Elem.dried (e : Elem) (sides : List Nat) : Elem :=
  { e with inq := sides.foldl (fun (q : Tbl (List Word)) side => q.del side) e.inq
           poison := e.poison.filter (fun w => !((linkSide w).any (fun side => sides.contains side))) }

/-- What of an element stands in its page after the keystone: registers, counters, predicates and the decoding context; the rest ends with
the configuration (R429; DEDUCED, log 91). -/
def Elem.leavings (e : Elem) : Elem := { Elem.fresh e.kind with g := e.g, k := e.k, rot := e.rot, p := e.p, c := e.c, dc := e.dc }

/-- A signature passes: its page is freed with what its counters hold, its rows are released, tokens toward it and the words left in its
links and joints are discarded (R118, R119, R263). -/
def State.passSig (s : State) (r sg : Nat) : State :=
  let t := (s.writeFolios r sg).post r
  let page := ((s.reg r).sig sg).page
  let dry : Nat × Elem → Nat × Elem := fun p =>
    (p.1, p.2.dried (if p.1 / 1024 = sg then [0, 1, 2, 3] else (s.reg r).facing p.1 sg))
  let drop := fun f : Fabric => { f with
    elems := f.elems.map dry
    toks := f.toks.filter (fun k => k.sg != sg), heldToks := f.heldToks.filter (fun k => k.1.sg != sg) }
  let t := t.modReg r (fun g => { g with
    sigs := (List.range g.sigs.length).map (fun i => if i = sg then { g.sig i with passed := true, passedAt := s.cycle + 1 } else g.sig i)
    now := drop g.now, old := drop g.old, ckpt := drop g.ckpt
    counts := g.counts.filter (fun p => decide (1000000 ≤ p.1) || p.1 % 128 != page) })
  { t with rows := t.rows.filter (fun h => !(h.r == r && h.sg == sg))
           left := ((s.reg r).now.elems.filter (fun p => p.1 / 1024 == sg)).foldl (fun (l : Tbl Elem) p =>
             l.set (page * 1024 + p.1 % 1024) p.2.leavings) t.left }

/-- What arrived at off-package ports for the adders of a load that is over goes. -/
def State.dropChains (s : State) (g : Region) : State :=
  (g.sigs.flatMap (fun q => q.decl.adders)).foldl (fun (t : State) a =>
    if a.port < 10 then t else t.modPort a.port (fun p => { p with got := p.got.filter (fun q => !(q.1 == 0 && leAt q.2 0 4 == a.chain)) })) s

/-- A region whose last keystone has passed ends: its load has passed, and what its engines have counted since its last round is folded
(R69, R119, R443). -/
def State.endRegion (s : State) (r : Nat) : State :=
  let g := s.reg r
  if g.sigs.all (·.passed) then
    let t := ((((s.foldRound r).modLaunch g.func g.ltag (fun l => { l with passed := l.passed ++ [g.load] })).dropChains g).dropRegion r)
    (t.releaseNext g.func g.ltag).creditClear g.func
  else s

/-- KEYSTONE_PASS (R119): the drain set of signature sg of the region in focus is empty. -/
def execKeystonePass (s : State) : Host.Outcome State Fault Refusal :=
  go ((s.passSig s.focus.r s.focus.sg).endRegion s.focus.r).choiceEvent

end Sys2Proof.Machine
end

