-- ==== Sys2Proof/Machine/Adders.lean ====
section
/-! DEFINITION. Link-port adders (R19 to R22). -/

namespace Sys2Proof.Machine

open Sys2Proof

/-- The declaration of adder n of the signature in focus: port × 4 + adder. -/
def State.adderDecl (s : State) (n : Nat) : Option AdderDecl :=
  s.sig.decl.adders.find? (fun a => a.port * 4 + a.adder == n)

/-- The elements that have arrived at an off-package port under a chain id (DEDUCED, log 40). -/
def Port.chain (p : Port) (c : Nat) : List Word :=
  (p.got.filter (fun q => q.1 == 0 && leAt q.2 0 4 == c)).map (fun q => BitVec.ofNat 32 (leAt q.2 4 4))

/-- The arriving element that an adder adds next, when it is present. -/
def State.arriving (s : State) (a : AdderDecl) (k : Adder) : Option Word :=
  if a.port < 10 then k.arriving.head? else ((s.port a.port).chain a.chain)[k.i]?

/-- The sum of an adder: the arriving element is the first operand (R20, R21). -/
def adderSum (fmt : Nat) (a b : Word) : Word := if fmt = 0 then roundRneF32 (FV.add 0 (f32 a) (f32 b)) else a + b

/-- Whether the link that an adder forwards to takes one more element: an adder across an edge holds as many as a replay buffer
holds, a port that has nothing waiting takes another, and an endpoint stream one while its queue has room (R12, R20, R110; DEDUCED,
log 49). -/
def State.forwardRoom (s : State) (a : AdderDecl) : Bool :=
  if !a.toPort then decide (((s.rg.now.elem s.focus.sg a.fx a.fy).streams.get Stream.none a.fsn).part.length < 1024)
  else if a.fx < 10 then
    match s.farAdder a.fx a.fy with
    | some (sg, q) => decide ((s.rg.now.adders.get Adder.zero (adderKey sg q)).before < 512)
    | none => true
  else (s.port a.fx).waiting == []

/-- Whether an adder has both operands of its next element, and room to forward the sum. -/
def State.adderReady (s : State) (sg : Nat) (a : AdderDecl) : Bool :=
  let k := s.rg.now.adders.get Adder.zero (adderKey sg a)
  decide (k.i < a.len) && k.loc != [] && (s.arriving a k).isSome && ({ s with focus := { s.focus with sg := sg } }).forwardRoom a

/-- A sum forwarded to a stream of a local ME: a store at its POS, which advances; on an endpoint stream a word of host memory (R284,
R346). -/
def State.forwardMe (s : State) (a : AdderDecl) (w : Word) : State :=
  let t := { s with focus := { s.focus with x := a.fx, y := a.fy, sched := false, stamp := 0xFFFF } }
  let st := t.nowE.streams.get Stream.none a.fsn
  let u : State := if st.pos < 0 ∨ st.pos + 4 > (st.ext : Int) then
      t.raise { t.fltHere (if t.isEndpoint a.fsn then 0x44 else 0x40) 0 (nN 64 ((st.base : Int) + st.pos)).toNat with sch := 0xFF }
    else
      let va := alignDown (st.base + st.pos.toNat) 4
      if t.isEndpoint a.fsn then t.appendHost a.fsn va w
      else match t.issueChk va 4 true with
      | .fault c v => (t.faultWalks va 4).raise { t.fltHere c 0 v with sch := 0xFF }
      | .unbacked v => (t.faultWalks va 4).raise { t.fltHere 0x40 0 v with sch := 0xFF, resumable := true }
      | _ => (((t.walkStore va 4).stage a.fsn (.store va (leBytes 4 w.toNat) st.hint [])).feedAll a.fsn (leBytes 4 w.toNat)).modE
        (fun e => e.modStream a.fsn (fun q => q.advance 4))
  { u with focus := s.focus }

/-- ADDER_ELEMENT (R20): adder n of the signature in focus adds element i of both streams, once both are present, and forwards
the sum. -/
def execAdderElement (s : State) : Host.Outcome State Fault Refusal :=
  go (match s.adderDecl s.focus.n with
    | none => s
    | some a =>
      let k := s.rg.now.adders.get Adder.zero (adderKey s.focus.sg a)
      match s.arriving a k, k.loc with
      | some x, y :: loc =>
        if k.i < a.len then
          let w := adderSum a.fmt x y
          let k' : Adder := { k with i := k.i + 1, arriving := if a.port < 10 then k.arriving.drop 1 else k.arriving, loc := loc }
          -- the link engine moves the 4 B of the element (R71)
          let t := (s.modNow (fun f => { f with adders := f.adders.set (adderKey s.focus.sg a) k' })).modR (fun g =>
            { g with roundBytes := g.roundBytes + 4 })
          if a.toPort then t.sendChain 9 a.fx a.fy [w] else t.forwardMe a w
        else s
      | _, _ => s)

end Sys2Proof.Machine
end

