-- ==== Sys2Proof/Machine/System.lean ====
section
/-! DEFINITION. System entries, 0xF0 to 0xFB (R257, R258, R261, R270, R307, R412 to R419). -/

namespace Sys2Proof.Machine

open Sys2Proof

/-- TRAP (R413): one EVENT with SRC 0, sent at the commit of its round. -/
def execTrap (f : FK) (s : State) : Host.Outcome State Fault Refusal :=
  let reg := bitAt f.param 16
  let v : Word := if reg then s.src f.a.toNat &&& 0x7FFFFFFF#32 else BitVec.ofNat 32 (bitsOf f.param 15 0)
  go (s.entry (if reg then [f.a.toNat] else []) [] .ok (fun t => t.stageEvent 0 v s.focus.stamp))

/-- What IDNT reads (R414). -/
def State.ident (s : State) (sel : Nat) : Word :=
  match sel with
  | 0 => Config.devid
  | 1 => (s.rg.fwver[dieOfPage s.page]?).getD 0#32
  | 2 => BitVec.ofNat 32 (dieOfPage s.page)
  | 3 => s.hostTag s.rg.func s.rg.ltag
  | 4 => BitVec.ofNat 32 (s.rg.graph % 2 ^ 16 + s.rg.load % 256 * 2 ^ 16)
  | _ => BitVec.ofNat 32 s.focus.sg

/-- IDNT (R414). -/
def execIdnt (f : FK) (s : State) : Host.Outcome State Fault Refusal :=
  go (s.compute [] f.d.toNat (s.ident (bitsOf f.param 2 0)))

/-- What TIME reads: the region's running cycles, or the nanosecond count latched at the round's first attempt (R414). -/
def State.timeWord (s : State) (sel : Nat) : Word :=
  let cyc := s.rg.cycSum + s.oldSpan.cyc
  match sel with
  | 0 => BitVec.ofNat 32 cyc
  | 1 => BitVec.ofNat 32 (cyc / 2 ^ 32)
  | 2 => BitVec.ofNat 32 s.rg.roundNs
  | _ => BitVec.ofNat 32 (s.rg.roundNs / 2 ^ 32)

/-- TIME (R414). -/
def execTime (f : FK) (s : State) : Host.Outcome State Fault Refusal :=
  go (s.compute [] f.d.toNat (s.timeWord (bitsOf f.param 1 0)))

/-- The configuration word of PMCF: reserved bits are written as 0 (R415). -/
def pmcfWord (f : FK) (a : Word) : Word :=
  if bitAt f.param 2 then
    BitVec.ofNat 32 (2 ^ 31 + (if bitAt f.param 3 then 2 ^ 30 else 0) + bitsOf f.param 11 4)
  else a &&& 0xFFC000FF#32

/-- PMCF (R415): the configuration governs from the next round's start. -/
def execPmcf (f : FK) (s : State) : Host.Outcome State Fault Refusal :=
  go (s.entry (if bitAt f.param 2 then [] else [f.a.toNat]) [] .ok (fun t =>
    t.stage 10 (.pmcf (bitsOf f.param 1 0) (pmcfWord f (s.src f.a.toNat)))))

/-- PMRD (R261): the file as it stood at the start of the region's round. -/
def execPmrd (f : FK) (s : State) : Host.Outcome State Fault Refusal :=
  go (s.compute [] f.d.toNat (s.rg.pmFile.get 0#32 (bitsOf f.param 3 0)))

/-- PMWR (R415): written at commit, after the round's own counts. -/
def execPmwr (f : FK) (s : State) : Host.Outcome State Fault Refusal :=
  go (s.entry [f.a.toNat] [] .ok (fun t => t.stage 10 (.pmwr (bitsOf f.param 3 0) (s.src f.a.toNat))))

/-- A generator word seeded; a generator of all zeros gets g_s3 = 1 (R307, R416). -/
def Elem.seed (e : Elem) (w : Nat) (a : Word) : Elem :=
  let e := match w with
    | 0 => { e with gs0 := a }
    | 1 => { e with gs1 := a }
    | 2 => { e with gs2 := a }
    | _ => { e with gs3 := a }
  if e.gs0 = 0#32 ∧ e.gs1 = 0#32 ∧ e.gs2 = 0#32 ∧ e.gs3 = 0#32 then { e with gs3 := 1#32 } else e

/-- RNGS (R416): seed, or next. -/
def execRngs (f : FK) (s : State) : Host.Outcome State Fault Refusal :=
  let next := bitAt f.param 2
  let r := s.oldE.rngNext
  go (s.entry (if next then [] else [f.a.toNat]) (if next then [f.d.toNat] else []) .ok (fun t =>
    if next then (t.put f.d.toNat r.1).modE (fun e => { e with gs0 := r.2.gs0, gs1 := r.2.gs1, gs2 := r.2.gs2, gs3 := r.2.gs3 })
    else t.modE (fun e => e.seed (bitsOf f.param 1 0) (s.src f.a.toNat))))

/-- Word w of a parameter block; bytes beyond PLEN read as zero (R270). -/
def paramWord (param : BitVec 384) (plen w : Nat) : Word :=
  BitVec.ofNat 32 (leNat ((List.range 4).map (fun i =>
    if 4 * w + i < plen then param.extractLsb' (8 * (4 * w + i)) 8 else 0#8)))

/-- CFGR (R270). -/
def execCfgr (f : FK) (s : State) : Host.Outcome State Fault Refusal :=
  let w := bitsOf f.param 3 0
  go (s.compute [] f.d.toNat (match s.launchOf s.rg.func s.rg.ltag with
    | some l => paramWord l.param l.plen w
    | none => 0#32))

/-- DBRK (R257): where breaks are declared, every span freezes before its next step and an EVENT goes out at once. -/
def execDbrk (f : FK) (s : State) : Host.Outcome State Fault Refusal :=
  let v : Word := BitVec.ofNat 32 (2 ^ 31 + bitsOf f.param 15 0)
  go (s.entry [] [] .ok (fun t =>
    if s.sig.decl.debug then
      (t.modR (fun g => match g.brk with
        | none => { g with brk := some { sg := s.focus.sg, x := s.focus.x, y := s.focus.y, stamp := s.focus.stamp,
                                         sched := s.focus.sched, age := 0, out := false } }
        | some _ => g)).eventMsg s.rg.func 0 s.page (s.hostTag s.rg.func s.rg.ltag) v s.focus.x s.focus.y s.focus.stamp
    else t))

/-- FLTM (R418): where breaks are declared and the round's void count is below NTH, a mismatch or a consumed error. -/
def execFltm (f : FK) (s : State) : Host.Outcome State Fault Refusal :=
  let acts := s.sig.decl.debug && decide (s.rg.voids < bitsOf f.param 2 1)
  go (s.entry [] [] (if acts then .fault (if bitAt f.param 0 then 0x70 else 0x50) 0 else .ok) (fun t => t))

/-- SIGQ (R419): the oldest value that the round has not taken of the queue at the round's start, and pq. -/
def execSigq (f : FK) (s : State) : Host.Outcome State Fault Refusal :=
  let n := s.rg.old.sigTaken
  let v := s.rg.sigSnap[n]?
  let q := bitsOf f.param 3 1
  go (s.entry [] [f.d.toNat, 96 + q] .ok (fun t =>
    let t := ((t.put f.d.toNat (v.getD 0#32)).setPred q v.isSome)
    if v.isSome && !bitAt f.param 0 then t.modNow (fun fb => { fb with sigTaken := n + 1 }) else t))

/-- HALT (R417): takes effect at the commit of its round. -/
def execHalt (s : State) : Host.Outcome State Fault Refusal :=
  go (s.entry [] [] .ok (fun t => t.stage 10 .halt))

end Sys2Proof.Machine
end

