-- ==== Sys2Proof/Machine/Uses.lean ====
section
/-! DEFINITION. What an entry uses: operands, links, predicates, windows, streams, tokens and counters, as the binder
counts them (R98, R112, R125, R292, R338). -/

namespace Sys2Proof

open Sys2Proof.Machine

/-- The operand codes that an entry reads, those embedded in its other fields included. -/
def Instr.srcs (i : Instr) : List Nat :=
  match i with
  | .add f | .sub f | .adds f | .subs f | .min f | .max f | .mul f | .mulh f | .andW f | .orW f | .xorW f | .andn f
  | .shl f | .shr f | .shra f | .rot f | .cmp f | .lea f | .pack f | .fadd f | .fsub f | .fmul f | .fmin f | .fmax f
  | .fcmp f | .fsum f | .fmaxa f | .fscl f => [f.a.toNat, f.b.toNat]
  | .addc f => [f.a.toNat, f.b.toNat, 96 + f.sub.toNat % 8]
  | .mov f | .neg f | .abs f | .clz f | .popc f | .brev f | .unpk f | .fabs f | .fneg f | .fcls f | .fex2 f | .flg2 f
  | .frnd f | .cvt f | .cvti f | .cvtf f | .hdrw f | .hdrr f => [f.a.toNat]
  | .bsc f => if f.sub = 0#4 then [f.a.toNat, f.b.toNat] else [f.a.toNat]
  | .mad f | .sel f | .dot4 f | .dot2 f | .fma f | .qnt f | .dqnt f | .fdot f => [f.a.toNat, f.b.toNat, f.c.toNat]
  | .movhi f | .addi f | .andi f | .ori f | .xori f | .shi f | .bfx f | .shuf f => [f.a.toNat]
  | .bfi f => [f.a.toNat, f.d.toNat]
  | .ldl f => localSrcs f false
  | .stl f => localSrcs f true
  | .lds f | .sts f | .fpush f | .lbsh f | .gath f | .scat f | .rmw f | .hepw f | .stag f | .fold f | .rowwr f | .stke f =>
    [f.d.toNat]
  | .lbrd f => if bitAt f.off 20 || bitAt f.off 19 then [bitsOf f.off 18 15] else []
  | .red f => redCodes f
  | .div f | .rem f | .fdiv f | .vtxt f | .phsh f => [f.a.toNat, f.b.toNat]
  | .fsqrt f => [f.a.toNat]
  | .latch f => [64 + bitsOf f.b 1 0]
  | .mld f | .mmas f | .mout f | .folm f => [f.d.toNat]
  | .macc f => if bitAt f.opt 0 then [bitsOf f.bsl 4 0] else []
  | .pset f => if bitsOf f.param 17 16 = 2 then [f.a.toNat] else []
  | .rotb f => if bitAt f.param 5 then [f.a.toNat] else []
  | .trap f => if bitAt f.param 16 then [f.a.toNat] else []
  | .pmcf f | .rngs f => if bitAt f.param 2 then [] else [f.a.toNat]
  | .gstp f => if bitAt f.param 0 then [] else [f.a.toNat]
  | .acq f | .rel f => if bitAt f.param 9 then [f.a.toNat] else []
  | .collapse f => if bitsOf f.param 4 3 = 1 then [f.a.toNat] else []
  | .stka f | .prpl f => [f.a.toNat, codeB f]
  | .cnti f | .cnts f | .handl f | .sopen f | .cpy f | .cpyt f | .cmo f | .retn f | .stkh f | .stkm f | .stopStr f
  | .pmwr f => [f.a.toNat]
  | _ => []

/-- The window of a windowed entry, with the destination it writes at its close (R112, R332, R406). -/
def Instr.window (i : Instr) : Option (Nat × Option Nat) :=
  match i with
  | .div f | .rem f | .fdiv f | .fsqrt f | .waitw f | .latch f | .cpyw f | .barw f | .keyw f | .drain f | .vtxt f | .phsh f =>
    some (f.win.toNat, some f.d.toNat)
  | .tokw f => some (f.win.toNat, none)
  | .loopb _ => some (1, none)
  | .rowrd f => some (32 * 2 ^ bitsOf f.mode 1 0, some f.d.toNat)
  | _ => none

/-- Every code that an entry names. -/
def Instr.codes (i : Instr) : List Nat :=
  i.srcs ++ i.dsts ++ (match i.window with | some (_, some d) => [d] | _ => [])

/-- The predicates, but p0, that an entry writes (R292). -/
def Instr.predsOut (i : Instr) : List Nat :=
  ((i.dsts ++ (match i.window with | some (_, some d) => [d] | _ => [])).filter (fun c => 97 ≤ c && c < 104)).map (· - 96)

/-- The input sides that an entry reads, the output sides that it writes, and the sides that it only tests. -/
def Instr.sidesIn (i : Instr) : List Nat := (i.srcs.filter codeIn).map (· - 64)
def Instr.sidesOut (i : Instr) : List Nat := (i.dsts.filter codeOut).map (· - 68)
def Instr.sidesTest (i : Instr) : List Nat :=
  match i with
  | .waitw f => if bitsOf f.b 6 4 < 2 then [bitsOf f.b 1 0] else []
  | _ => []

/-- The streams that an entry names, each with the buffer kinds and the endpoint kinds that it accepts (R334, R338):
1 read, 2 write, 3 rw, 4 rmw. -/
def Instr.streams (i : Instr) : List (Nat × List Nat × List Nat) :=
  let all := [1, 2, 3, 4]
  match i with
  | .lds f | .gath f | .pref f | .stke f => [(f.strm.toNat, [1, 3], [])]
  | .sts f | .scat f => [(f.strm.toNat, [2, 3], [])]
  | .rmw f => [(f.strm.toNat, [4], [])]
  | .hepr f => [(f.strm.toNat, [], [1])]
  | .hepw f => [(f.strm.toNat, [], [2])]
  | .hint f => [(f.strm.toNat, all, [])]
  | .smark f | .srew f | .sclose f => [(f.strm.toNat, all, all)]
  | .sopen f => [(bitsOf f.param 2 0, all, all)]
  | .cmo f => [(bitsOf f.param 2 0, all, [])]
  | .retn f => [(bitsOf f.param 5 3, all, [])]
  | .acq f => (bitsOf f.param 5 3, [1, 3, 4], []) :: (if bitAt f.param 9 then [(bitsOf f.param 8 6, all, [])] else [])
  | .rel f => (bitsOf f.param 5 3, [2, 3, 4], []) :: (if bitAt f.param 9 then [(bitsOf f.param 8 6, all, [])] else [])
  | .drain f => if bitAt f.b 3 then [] else [(bitsOf f.b 2 0, all, all)]
  | .waitw f =>
    if bitsOf f.b 6 4 = 2 then [(bitsOf f.b 2 0, all, all)]
    else if bitsOf f.b 6 4 = 3 then [(bitsOf f.b 2 0, [], [1])] else []
  | _ => []

/-- The token ids that an entry sends, and those whose pending count it reads (R285, R323). -/
def Instr.toksOut (i : Instr) : List Nat :=
  match i with
  | .toks f => [bitsOf f.param 5 0]
  | .loope f => bitsOf f.param 5 0 :: (if bitAt f.param 15 then [bitsOf f.param 11 6] else [])
  | _ => []
def Instr.toksIn (i : Instr) : List Nat :=
  match i with
  | .tokw f => [f.b.toNat]
  | .tokt f | .loopb f => [bitsOf f.param 5 0]
  | _ => []

/-- The chained counters that an entry names in fields of its own (R323). -/
def Instr.counters (i : Instr) : List Nat :=
  match i with
  | .cnti f | .cnts f | .cntt f => [bitsOf f.param 2 0]
  | .cntv f => (List.range 8).filter (fun j => bitAt f.param j)
  | .loopb f => if bitAt f.param 9 then [bitsOf f.param 8 6] else []
  | .loope f => [bitsOf f.param 14 12]
  | _ => []

/-- The group that an entry names, with the mode it requires (R338, R348). -/
def Instr.group (i : Instr) : Option (Nat × GroupMode) :=
  match i with
  | .fpush f | .fpop f => some (f.mode.toNat, .fifo)
  | .lbsh f | .lbrd f => some (f.mode.toNat, .line)
  | .stag f | .bufsw f => some (f.mode.toNat, .store)
  | _ => none

/-- The barrier that an entry names (R365 to R367). -/
def Instr.barrierOf (i : Instr) : Option Nat :=
  match i with
  | .bara f | .bart f => some (bitsOf f.param 3 0)
  | .barw f => some (bitsOf f.b 3 0)
  | _ => none

/-- The folio that a home's entry names (R402). -/
def Instr.folioOf (i : Instr) : Option Nat :=
  match i with
  | .folb f | .folv f | .folc f | .folr f | .foli f | .folq f => some (fxOf f)
  | .fold f => some (bitsOf f.mode 1 0)
  | _ => none

/-- The held-row declaration that an entry names (R406). -/
def Instr.rowOf (i : Instr) : Option Nat :=
  match i with
  | .rowopen f | .rowhold f | .rowrel f | .rowq f => some (hxK f)
  | .rowrd f | .rowwr f => some (hxM f)
  | _ => none

/-- The side that a matrix entry names (R390, R402). -/
def Instr.sideOf (i : Instr) : Option Nat :=
  match i with
  | .mld f | .mout f | .folm f => some (bitsOf f.opt 1 0)
  | _ => none

/-- Whether an entry is a soft-token entry (R302). -/
def Instr.isSoft (i : Instr) : Bool :=
  match i.opc with
  | some o => decide (0xE0 ≤ o.toNat) && decide (o.toNat ≤ 0xED)
  | none => false

/-- The constant local ranges of an entry in an ME with embedding rows of `edim` words: offset, buffer distance, bytes, and whether a FIFO
may take it (R128, R233, R338, R341 to R343, R355, R357). -/
def Instr.locals (i : Instr) (edim : Nat) : List (Nat × Nat × Nat × Bool) :=
  let size := fun m : BitVec 4 => blockSize m
  match i with
  | .ldl f | .stl f =>
    if bitAt f.mode 3 then [] else [(alignDown (bitsOf f.off 17 0) (localSize f.mode), 0, localSize f.mode, false)]
  | .lds f => if f.d = 72#7 then [(alignDown (bitsOf f.off 17 0) (size f.mode), bitsOf f.mode 3 2, size f.mode, true)] else []
  | .sts f => if f.d = 72#7 then [(alignDown (bitsOf f.off 17 0) (size f.mode), bitsOf f.mode 3 2, size f.mode, false)] else []
  | .gath f | .scat f =>
    (List.range (gathCount f)).map (fun k => (alignDown (rowOff f k) (size f.mode), bitsOf f.mode 3 2, size f.mode, false))
  | .rmw f => if f.mode = 7#4 || bitAt f.off 20 then [(alignDown (bitsOf f.off 17 0) 4, 0, 4, false)] else []
  | .stke f => if f.d = 72#7 then [(alignDown (bitsOf f.off 17 0) 4, 0, 4 * edim, false)] else []
  | _ => []

/-- The bytes that one fire of an entry may place in the commit buffer, with the greatest payload of each soft-token
register (R121, R235). -/
def Instr.storeBytes (pay : Nat → Nat) (i : Instr) : Nat :=
  match i with
  | .sts f => blockSize f.mode
  | .scat f => gathCount f * blockSize f.mode
  | .rmw _ | .rowwr _ | .hepw _ => 4
  | .collapse _ => 64
  | .plog f => 64 + pay (stOf f)
  | _ => 0

/-- The payload that an entry can leave in soft-token register st (R235). -/
def Instr.payloadMax (st : Nat) (i : Instr) : Nat :=
  match i with
  | .stkh f => if stOf f = st then (bitsOf f.param 14 5 + 1) * 16 * (if bitsOf f.param 4 3 = 0 then 4 else 2) else 0
  | .stkm f | .stka f => if stOf f = st then 128 else 0
  | .prpl f => if stOf f = st then 32768 else 0
  | _ => 0

end Sys2Proof
end

