-- ==== Sys2Proof/Machine/Binder.lean ====
section
/-! DEFINITION. What the binder checks of a fabric load (R95, R97 to R100, R104, R108, R112, R121, R125, R127 to R136,
R178, R209, R213, R219, R280 to R293, R304, R305, R328, R329, R338, R365, R368, R390, R398, R402, R403). -/

namespace Sys2Proof.Machine

open Sys2Proof

/-- A signature of a load that is bound: its index in the image, its declarations, its page. -/
structure Placed where
  idx : Nat
  decl : SigDecl
  page : Nat
  deriving DecidableEq, Repr

/-- A refusal: code, page, x, y, schedule, stamp (R248, R305). -/
structure BindErr where
  code : Nat
  page : Nat
  x : Nat
  y : Nat
  sch : Nat
  stamp : Nat
  deriving DecidableEq, Repr

/-- The order in which one refusal is reported (R305). -/
def BindErr.before (a b : BindErr) : Bool :=
  if a.code ≠ b.code then a.code < b.code
  else if a.page ≠ b.page then a.page < b.page
  else if a.y ≠ b.y then a.y < b.y
  else if a.x ≠ b.x then a.x < b.x
  else if a.sch ≠ b.sch then a.sch < b.sch
  else a.stamp < b.stamp

/-! ## Words and entries -/

/-- A word of an element: its schedule (true B), its place, the word. -/
structure Slot where
  sched : Bool
  pos : Nat
  word : EWord
  deriving DecidableEq, Repr

/-- The words of an element. -/
def ElemDecl.slots (d : ElemDecl) : List Slot :=
  (d.schedA.zipIdx.map (fun p => { sched := false, pos := p.2, word := p.1 })) ++
  (d.schedB.zipIdx.map (fun p => { sched := true, pos := p.2, word := p.1 }))

/-- An entry in its schedule. -/
structure Ent where
  sched : Bool
  stamp : Nat
  e : Entry
  deriving DecidableEq, Repr

/-- The entries of an element. -/
def ElemDecl.ents (d : ElemDecl) : List Ent :=
  d.slots.filterMap (fun q => (entryOf q.word).map (fun e => { sched := q.sched, stamp := e.stamp.toNat, e := e }))

/-- The route context of a number: outs by input, 0xFF for none. Of two records of one number the first counts (DESIGN CHOICE, log 89). -/
def ElemDecl.rcx (d : ElemDecl) (n : Nat) : List Nat :=
  ((d.rcxs.find? (fun c => c.n == n)).map (·.outs)).getD [0xFF, 0xFF, 0xFF, 0xFF]

/-- The outputs that a context feeds, and the inputs that it passes. -/
def feeds (l : List Nat) : List Nat := l.filter (· < 4)
def passes (l : List Nat) : List Nat := (l.zipIdx.filter (fun p => p.1 < 4)).map Prod.snd

/-! ## Spans, links and joints (R95, R97 to R99) -/

/-- The element on a side, as (place in the load, x, y): across the page edge in the chained signature. -/
def neighbourOf (l : List Placed) (i x y side : Nat) : Option (Nat × Nat × Nat) :=
  let me := (l[i]?).map (·.decl)
  let ce := (me.map (·.chainE)).getD 0xFFFF
  let cn := (me.map (·.chainN)).getD 0xFFFF
  let id := ((l[i]?).map (·.idx)).getD 0xFFFF
  match side with
  | 0 => if y = 31 then (l.findIdx? (fun q => q.idx == cn)).map (fun j => (j, x, 0)) else some (i, x, y + 1)
  | 1 => if x = 31 then (l.findIdx? (fun q => q.idx == ce)).map (fun j => (j, 0, y)) else some (i, x + 1, y)
  | 2 => if y = 0 then (l.findIdx? (fun q => q.decl.chainN == id)).map (fun j => (j, x, 31)) else some (i, x, y - 1)
  | _ => if x = 0 then (l.findIdx? (fun q => q.decl.chainE == id)).map (fun j => (j, 31, y)) else some (i, x - 1, y)

/-- The declarations of an element of the load. -/
def elemAt (l : List Placed) (i x y : Nat) : ElemDecl :=
  ((l[i]?).map (fun q => q.decl.elem x y)).getD (ElemDecl.none x y)

/-- The span of an element of the load: its place and its declaration. -/
def spanOf (l : List Placed) (i x y : Nat) : Option SpanDecl := (l[i]?).bind (fun q => q.decl.spanAt x y)

/-- Whether an element's entries read or write a side, or its contexts feed it or pass a word from it. -/
def ElemDecl.usesSide (d : ElemDecl) (side : Nat) : Bool :=
  d.ents.any (fun q => q.e.instr.sidesIn.contains side || q.e.instr.sidesOut.contains side) ||
  d.rcxs.any (fun c => (feeds c.outs).contains side || (passes c.outs).contains side)

/-- Whether the link of an element on a side crosses between spans. -/
def crosses (l : List Placed) (i x y side : Nat) : Bool :=
  match neighbourOf l i x y side with
  | none => false
  | some (j, x', y') => decide (j ≠ i) || (spanOf l i x y).map (·.n) != (spanOf l j x' y').map (·.n)

/-- Whether a link is live: not at a page edge that leads nowhere, and used where it crosses between spans of a page. -/
def liveLink (l : List Placed) (i x y side : Nat) : Bool :=
  match neighbourOf l i x y side with
  | none => false
  | some (j, x', y') => decide (j ≠ i) || !crosses l i x y side || (elemAt l i x y).usesSide side ||
      (elemAt l j x' y').usesSide ((side + 2) % 4)

/-- Words that an element's entries of a schedule move on a side, per period (R99). -/
def ElemDecl.wordsIn (d : ElemDecl) (sched : Bool) (side : Nat) : Nat :=
  (d.ents.filter (fun q => q.sched == sched && q.e.instr.sidesIn.contains side)).length
def ElemDecl.wordsOut (d : ElemDecl) (sched : Bool) (side : Nat) : Nat :=
  (d.ents.filter (fun q => q.sched == sched && q.e.instr.sidesOut.contains side)).length

/-- An expansion joint: the element, the side, and what lies there. -/
structure Joint where
  i : Nat
  x : Nat
  y : Nat
  side : Nat
  j : Nat
  x' : Nat
  y' : Nat
  deriving DecidableEq, Repr

/-- The page edges that face a chained page, as (x, y, side). -/
def edgeLinks : List (Nat × Nat × Nat) := (List.range 32).flatMap (fun k => [(k, 31, 0), (31, k, 1), (k, 0, 2), (0, k, 3)])

/-- The links of an element inside its page, as (x, y, side), each with the one that comes the other way. -/
def linkPairs (x y : Nat) : List (Nat × Nat × Nat) :=
  (List.range 4).flatMap (fun side => (x, y, side) :: (match side with
    | 0 => if y = 31 then [] else [(x, y + 1, 2)]
    | 1 => if x = 31 then [] else [(x + 1, y, 3)]
    | 2 => if y = 0 then [] else [(x, y - 1, 0)]
    | _ => if x = 0 then [] else [(x - 1, y, 1)]))

/-- The joints of a load, each seen from the element that writes it: those of an element that declares something, in both directions, and
those of chained edges (R98, R99). -/
def joints (l : List Placed) : List Joint :=
  (l.zipIdx).flatMap (fun (p : Placed × Nat) =>
    let inner := p.1.decl.elems.flatMap (fun d => linkPairs d.x d.y)
    (inner ++ edgeLinks).dedup.filterMap (fun q =>
      match neighbourOf l p.2 q.1 q.2.1 q.2.2 with
      | none => none
      | some (j, x', y') =>
        if crosses l p.2 q.1 q.2.1 q.2.2 && liveLink l p.2 q.1 q.2.1 q.2.2 &&
            (spanOf l p.2 q.1 q.2.1).isSome && (spanOf l j x' y').isSome then
          some { i := p.2, x := q.1, y := q.2.1, side := q.2.2, j := j, x' := x', y' := y' }
        else none))

/-- The key of the span of an element of the load. -/
def spanKeyOf (l : List Placed) (i x y : Nat) : Nat := i * 16 + ((spanOf l i x y).map (·.n)).getD 0

/-- The spans joined to a span, by steps along the joints (R99). -/
def joinedSet (edges : List (Nat × Nat)) : Nat → List Nat → List Nat
  | 0, s => s
  | k + 1, s => joinedSet edges k (edges.foldl (fun t q =>
      if t.contains q.1 then insertUniq q.2 t else if t.contains q.2 then insertUniq q.1 t else t) s)

/-- The joints of a load as pairs of spans. -/
def spanEdges (l : List Placed) : List (Nat × Nat) :=
  ((joints l).map (fun q => (spanKeyOf l q.i q.x q.y, spanKeyOf l q.j q.x' q.y'))).dedup

/-- Whether a span can enter schedule B (R99). -/
def SigDecl.entersB (d : SigDecl) (sp : SpanDecl) : Bool :=
  (d.elem sp.x0 sp.y0).ents.any (fun q => match q.e.instr with | .sws f => bitAt f.param 0 | _ => false) ||
  d.handlers.any (fun h => bitAt h.2 31 && bitAt h.2 22 && bitAt h.2 sp.n && bitsOf h.2 24 23 < 2) ||
  d.elems.any (fun e => e.ents.any (fun q => match q.e.instr with | .handl _ => true | _ => false))

/-- The words per period of a schedule, for each schedule that a span can enter. -/
def scheds (l : List Placed) (i x y : Nat) : List Bool :=
  match l[i]?, spanOf l i x y with
  | some q, some sp => if q.decl.entersB sp then [false, true] else [false]
  | _, _ => [false]

/-- What R99 asks of a joint in its direction from the first element to the second. -/
def Joint.balanced (l : List Placed) (q : Joint) : Bool :=
  let d := elemAt l q.i q.x q.y
  let d' := elemAt l q.j q.x' q.y'
  let o := (q.side + 2) % 4
  let w := (scheds l q.i q.x q.y).map (fun b => d.wordsOut b q.side)
  let r := (scheds l q.j q.x' q.y').map (fun b => d'.wordsIn b o)
  (w ++ r).all (fun v => some v == w.head?) &&
  !(d.ents.any (fun k => (k.e.pred != 0#3 || k.e.pn != 0#1) &&
    (k.e.instr.sidesOut.contains q.side || k.e.instr.sidesIn.contains q.side)))

/-- The period and the round length of the two spans of a joint agree (R99). -/
def Joint.paced (l : List Placed) (q : Joint) : Bool :=
  match spanOf l q.i q.x q.y, spanOf l q.j q.x' q.y' with
  | some a, some b => a.period == b.period && a.roundLen == b.roundLen
  | _, _ => true

/-! ## Matrix hazards (R398) -/

/-- What a matrix entry occupies: kind 0 node, 1 slot write, 2 slot read, 3 accumulator use, 4 side, 5 rank read. -/
structure MEvent where
  kind : Nat
  sched : Bool
  lo : Nat
  hi : Nat
  slots : List Nat
  accs : List Nat
  last : Nat
  side : Nat
  sort : Bool
  deriving DecidableEq, Repr

/-- The events of an entry. `last` is the stamp up to which its accumulators, or the sort buffer, are out of use. -/
def Ent.mevents (mfa : Nat) (q : Ent) : List MEvent :=
  let s := q.stamp
  let ev : Nat → Nat → List Nat → List Nat → Nat → Nat → Bool → MEvent := fun k hi slots accs last side sort =>
    { kind := k, sched := q.sched, lo := s, hi := hi, slots := slots, accs := accs, last := last, side := side, sort := sort }
  match q.e.instr with
  | .mma f | .mmas f => [ev 0 (s + 63) [f.asl.toNat, f.bsl.toNat] [f.acc.toNat] (s + 67) 9 false,
      ev 2 s [f.asl.toNat, f.bsl.toNat] [] 0 9 false]
  | .folm f => [ev 0 (s + 63) [f.asl.toNat] [f.acc.toNat] (s + 67) 9 false, ev 2 s [f.asl.toNat] [] 0 9 false]
  | .mctr f =>
    let sl := f.asl.toNat :: (List.range (if mfa = 4 then 4 else 2)).map (f.bsl.toNat + ·)
    [ev 0 (s + 255) sl [f.acc.toNat, f.acc.toNat + 1] (s + 259) 9 false, ev 2 s sl [] 0 9 false]
  | .msrt f => [ev 0 (s + 63) [f.asl.toNat] [] (s + 67) 9 true, ev 2 s [f.asl.toNat] [] 0 9 false]
  | .mld f => [ev 1 (s + 8) [f.asl.toNat] [] 0 9 false, ev 4 (s + 8) [] [] 0 (bitsOf f.opt 1 0) false]
  | .mst f => [ev 1 (s + 4) [f.asl.toNat] [] 0 9 false, ev 3 s [] [f.acc.toNat] 0 9 false]
  | .mtrn f => [ev 1 (s + 8) [f.asl.toNat] [] 0 9 false, ev 2 s [f.bsl.toNat] [] 0 9 false]
  | .mclm f | .mrel f => [ev 1 s (slotRange f) [] 0 9 false]
  | .mzro f | .macc f => [ev 3 s [] [f.acc.toNat] 0 9 false]
  | .mout f => [ev 3 s [] [f.acc.toNat] 0 9 false, ev 4 (s + 16) [] [] 0 (bitsOf f.opt 1 0) false]
  | .mkey _ => [ev 5 s [] [] 0 9 true]
  | _ => []

/-- Whether [alo, ahi] of one event meets [blo, bhi] of another, in one period of one schedule or carried across wraps
into any schedule. -/
def meets (p : Nat) (same : Bool) (sa sb : Bool) (alo ahi blo bhi : Nat) : Bool :=
  (!same && sa == sb && decide (alo ≤ bhi) && decide (blo ≤ ahi)) ||
  (List.range (300 / p + 2)).any (fun k =>
    let d := (k + 1) * p
    (decide (alo ≤ bhi + d) && decide (blo + d ≤ ahi)) || (decide (alo + d ≤ bhi) && decide (blo ≤ ahi + d)))

/-- Whether an event breaks one of the six rules against another. -/
def MEvent.clash (p : Nat) (a b : MEvent) : Bool :=
  let same := a.sched == b.sched && a.lo == b.lo
  let slot := a.slots.any (fun s => b.slots.contains s)
  let m := fun alo ahi blo bhi => meets p same a.sched b.sched alo ahi blo bhi
  (a.kind == 0 && b.kind == 0 && m a.lo a.hi b.lo b.hi) ||
  (a.kind == 1 && b.kind == 0 && slot && m a.lo a.hi b.lo b.hi) ||
  (a.kind == 1 && b.kind == 2 && slot && decide (a.lo < a.hi) && m (a.lo + 1) a.hi b.lo b.hi) ||
  (a.kind == 1 && b.kind == 1 && slot && m a.lo a.hi b.lo b.hi) ||
  (a.kind == 3 && b.kind == 0 && a.accs.any (fun x => b.accs.contains x) && m a.lo a.hi b.lo b.last) ||
  (a.kind == 5 && b.kind == 0 && b.sort && m a.lo a.hi b.lo b.last) ||
  (a.kind == 4 && b.kind == 4 && a.side == b.side && m a.lo a.hi b.lo b.hi)

/-- Whether an entry of an element with period p breaks a rule of R398. -/
def ElemDecl.hazard (d : ElemDecl) (p : Nat) (q : Ent) : Bool :=
  let mfa := cfMfa d.cfmt
  let all := d.ents.flatMap (Ent.mevents mfa)
  (q.mevents mfa).any (fun a => all.any (fun b => a.clash p b))

/-! ## Folios and local ranges (R127, R128, R213, R280) -/

/-- The lowest-numbered operand-store group of an element. -/
def ElemDecl.firstStore (d : ElemDecl) : Option GroupDecl :=
  (sortBy (fun (a b : GroupDecl) => decide (a.i < b.i)) (d.groups.filter (fun g => g.mode == GroupMode.store))).head?

/-- The absolute offset at which the state of folio fx of a signature begins. -/
def SigDecl.folioAt (d : SigDecl) (fx : Nat) : Nat :=
  match d.folios[fx]? with
  | .none => 0
  | .some f =>
    (((d.elem f.hx f.hy).firstStore.map GroupDecl.base).getD 0) +
      (((d.folios.take fx).filter (fun g => g.hx == f.hx && g.hy == f.hy)).map FolioDecl.bytes).sum

/-- Whether a range of an ME meets the state of one of its folios. -/
def SigDecl.meetsFolio (d : SigDecl) (x y a n : Nat) : Bool :=
  (d.folios.zipIdx).any (fun p => p.1.hx == x && p.1.hy == y && decide (a < d.folioAt p.2 + p.1.bytes) &&
    decide (d.folioAt p.2 < a + n))

/-- Whether a constant local range lies in the first buffer of an operand-store group with distance j below n, or in a
FIFO at distance 0 where one may. -/
def ElemDecl.localOk (d : ElemDecl) (off j n : Nat) (fifo : Bool) : Bool :=
  d.groups.any (fun g => match g.mode with
    | .store => decide (g.base ≤ off) && decide (off + n ≤ g.base + g.bufBytes) && decide (j < g.n)
    | .fifo => fifo && j == 0 && decide (g.base ≤ off) && decide (off < g.base + g.bytes)
    | .line => false)

/-! ## One entry (R304 steps 8 and 9) -/

/-- The partner of an element (R292). -/
def partnerX (d : ElemDecl) : Nat := if d.kind = .ce then d.x else if d.x = 0 then 1 else d.x - 1

/-- Windows open in cycle c of a schedule. -/
def ElemDecl.openAt (d : ElemDecl) (sched : Bool) (c : Nat) : Nat :=
  (d.ents.filter (fun q => q.sched == sched && (match q.e.instr.window with
    | .some (w, _) => decide (q.stamp < c) && decide (c ≤ q.stamp + w)
    | .none => false))).length

/-- The destinations that an entry writes, each with its stamp: in its step, or at its own close. -/
def Ent.writesAt (q : Ent) : List (Nat × Nat) :=
  (q.e.instr.dsts.map (fun c => (c, q.stamp))) ++ (match q.e.instr.window with
    | some (w, some c) => [(c, q.stamp + w)]
    | _ => [])

/-- Whether some writes fall on the destination of a window while it is open. -/
def Ent.opens (k : Ent) (at_ : List (Nat × Nat)) : Bool :=
  match k.e.instr.window with
  | some (w, some c) => c != 72 && at_.any (fun p => p.1 == c && decide (k.stamp < p.2) && decide (p.2 ≤ k.stamp + w))
  | _ => false

/-- Whether an entry writes the destination of a window of its element while it is open (R112). -/
def ElemDecl.writesOpen (d : ElemDecl) (q : Ent) : Bool :=
  d.ents.any (fun k => k.sched == q.sched && k.stamp != q.stamp && k.opens q.writesAt)

/-- Whether an entry writes a predicate that is the destination of an open window of another element with the same partner (R112,
R292). -/
def SigDecl.predOpen (d : SigDecl) (me : ElemDecl) (q : Ent) : Bool :=
  let preds := q.writesAt.filter (fun p => 96 ≤ p.1 && p.1 < 104)
  d.elems.any (fun o => (o.x != me.x || o.y != me.y) && o.y == me.y && partnerX o == partnerX me &&
    o.ents.any (fun k => k.sched == q.sched && k.opens preds))

/-- The context in force in an element at a stamp of a schedule (R108). -/
def ElemDecl.ctxAt (d : ElemDecl) (sched : Bool) (c : Nat) : List Nat :=
  d.rcx (((d.ents.find? (fun k => k.sched == sched && k.stamp == c)).map (fun k => k.e.rcx.toNat)).getD 0)

/-- Whether a LATCH reads its input in a cycle of its window in which the context in force passes that input (R108, R335). -/
def ElemDecl.latchPassed (d : ElemDecl) (q : Ent) : Bool :=
  match q.e.instr with
  | .latch f => (List.range f.win.toNat).any (fun i => (passes (d.ctxAt q.sched (q.stamp + 1 + i))).contains (bitsOf f.b 1 0))
  | _ => false

/-- Whether another element of the signature writes a predicate that an entry writes, at the same stamp (R292). -/
def SigDecl.otherWriter (d : SigDecl) (me : ElemDecl) (q : Ent) : Bool :=
  q.e.instr.predsOut.any (fun j => d.elems.any (fun o => (o.x != me.x || o.y != me.y) && o.y == me.y &&
    partnerX o == partnerX me && o.ents.any (fun k => k.sched == q.sched && k.stamp == q.stamp && k.e.instr.predsOut.contains j)))

/-- Whether the barrier of an entry breaks R365: an id used at two levels, or waited on with no BARA. -/
def barrierBad (l : List Placed) (d : SigDecl) (i : Instr) : Bool :=
  match i.barrierOf with
  | none => false
  | some b =>
    let levels := (d.elems.flatMap (·.baras)).filter (fun p => p.1 == b)
    match i with
    | .bara f => levels.any (fun p => p.2 != bitsOf f.param 5 4)
    | _ => levels == [] && !(l.any (fun q => q.decl.elems.any (fun e => e.baras.contains (b, 2))))

/-- Step 8: the schedule (R95, R100, R104, R108, R112, R292, R365, R368, R398). -/
def step8 (l : List Placed) (i : Nat) (d : SigDecl) (me : ElemDecl) (sp : SpanDecl) (pos : Nat) (q : Ent) : Bool :=
  let ins := q.e.instr
  let ctx := me.rcx q.e.rcx.toNat
  let before := (if q.sched then me.schedB else me.schedA).take pos
  decide (sp.period ≤ q.stamp) || decide (128 ≤ pos) ||
  before.any (fun w => (w.extractLsb' 52 12).toNat == q.stamp) ||
  (feeds ctx).any (fun o => ins.sidesOut.contains o) || (passes ctx).any (fun o => ins.sidesIn.contains o) ||
  (match ins.window with
    | some (w, _) => decide (sp.period < q.stamp + w + 1) || decide (8 < me.openAt q.sched (q.stamp + 1))
    | none => false) ||
  me.writesOpen q || d.predOpen me q || me.latchPassed q ||
  (ins.sidesIn ++ ins.sidesOut ++ ins.sidesTest).any (fun side => !liveLink l i me.x me.y side) ||
  d.otherWriter me q || barrierBad l d ins ||
  (match ins with
    | .keyw f =>
      (match neighbourOf l i (if bitsOf f.b 1 0 = 1 then 31 else 0) (if bitsOf f.b 1 0 = 0 then 31 else 0) (bitsOf f.b 1 0) with
      | none => true
      | some _ => false)
    | .lbrd f => (match me.groups.find? (fun g => g.i == f.mode.toNat && g.mode == .line) with
      | some g => (!bitAt f.off 20 && decide (g.n ≤ f.strm.toNat)) || (!bitAt f.off 19 && decide (g.wd ≤ bitsOf f.off 14 0))
      | none => false)
    | _ => false) ||
  me.hazard sp.period q

/-- Whether a code lies within the declared registers of an element; predicates are the partner's (R125, R285). -/
def codeDeclared (me partner : ElemDecl) (c : Nat) : Bool :=
  if c < 32 then decide (c < me.g)
  else if c < 64 then decide (c - 32 < me.k)
  else if 80 ≤ c ∧ c < 88 then decide (c - 80 < me.c)
  else if 97 ≤ c ∧ c < 104 then decide (c - 96 < partner.p)
  else true

/-- The stream that an entry names is declared with a kind it accepts (R236, R338). -/
def streamOk (d : SigDecl) (me : ElemDecl) (ins : Instr) (u : Nat × List Nat × List Nat) : Bool :=
  match d.streams.find? (fun k => k.x == me.x && k.y == me.y && k.sn == u.1) with
  | none => false
  | some k => (if k.endpoint then u.2.2 else u.2.1).contains k.kind && (match ins with
    | .stke _ => (match me.dctx with | some c => k.idx == c.embed | none => false)
    | _ => true)

/-- The declaration checks on folio entries (R213, R219, R402, R403). -/
def folioOk (d : SigDecl) (me : ElemDecl) (ins : Instr) : Bool :=
  (match ins.folioOf with
    | none => true
    | some fx => (match d.folios[fx]? with
      | some f => f.hx == me.x && f.hy == me.y
      | none => false)) &&
  (match ins with
    | .folm f => (d.folios.filter (fun k => k.mx == me.x && k.my == me.y)).all (fun k =>
        sideXY me.x me.y (bitsOf f.opt 1 0) == (k.hx, k.hy)) && cfMfb me.cfmt == 1 && (cfMfa me.cfmt == 1 || cfMfa me.cfmt == 2)
    | .fold f => (match d.folios[bitsOf f.mode 1 0]? with
      | some k =>
        let a := bitsOf f.off 17 0
        let n := 36 * (k.n / 32)
        a % 4 == 0 && me.localOk a 0 n false && !d.meetsFolio me.x me.y a n
      | none => false)
    | _ => true)

/-- Whether an entry that names tokens, or reads their texts, finds a vocabulary declared (R285). -/
def vocabOk (me : ElemDecl) (ins : Instr) : Bool :=
  let has : Bool := match me.dctx with | some c => c.vocab != 0xFFFF | none => false
  match ins with
  | .vtxt _ | .collapse _ | .stkm _ | .stka _ | .stke _ | .gmsk _ => has
  | .gstp f => bitAt f.param 0 || has
  | _ => true

/-- Step 9: the declarations (R125, R292, R293, R323, R328, R329, R338, R365, R390, R401, R408). `alone` says that the
span forms a joined set by itself. -/
def step9 (d : SigDecl) (me : ElemDecl) (sp : SpanDecl) (alone : Bool) (q : Ent) : Bool :=
  let ins := q.e.instr
  let partner := d.elem (partnerX me) me.y
  let preds := ins.codes.filter (fun c => 97 ≤ c && c < 104)
  let here := (d.spanAt (partnerX me) me.y).map (·.n) == some sp.n
  !(ins.codes.all (codeDeclared me partner) && (q.e.pred == 0#3 || decide (q.e.pred.toNat < partner.p)) &&
    (me.kind == .ce || here || (q.e.pred == 0#3 && q.e.pn == 0#1 && preds == [] && !(ins.codes.contains 96))) &&
    (q.e.rcx == 0#5 || me.rcxs.any (fun c => c.n == q.e.rcx.toNat)) &&
    (ins.window.isNone || decide (me.openAt q.sched (q.stamp + 1) ≤ me.win)) &&
    ins.streams.all (streamOk d me ins) &&
    (match ins.group with
      | some (g, m) => me.groups.any (fun k => k.i == g && k.mode == m)
      | none => true) &&
    (match ins.barrierOf with | some b => decide (b < d.barriers) | none => true) &&
    ins.toksOut.all (fun t => d.tokens.testBit t) && ins.toksIn.all (fun t => d.tokens.testBit t && me.recv.testBit t) &&
    ins.counters.all (fun c => decide (c < me.c)) &&
    (match ins with | .handl f => d.handlers.any (fun h => h.1 == bitsOf f.param 3 0) | _ => true) &&
    (match ins.rowOf with | some h => decide (h < d.rows.length) | none => true) &&
    (match ins.sideOf with
      | some side =>
        let n := sideXY me.x me.y side
        (side != 2 || decide (0 < me.y)) && (side != 3 || decide (0 < me.x)) && (d.spanAt n.1 n.2).map (·.n) == some sp.n
      | none => true) &&
    (match ins with
      | .halts => alone
      | .endp => alone && me.x == sp.x0 && me.y == sp.y0
      | _ => true) &&
    (!ins.isSoft || me.dctx.isSome) &&
    (match ins with
      | .plog _ | .collapse _ | .phsh _ | .prpl _ => (match me.dctx with | some c => c.log != 0xFFFF | none => false)
      | _ => true) &&
    (ins.locals ((me.dctx.map (·.edim)).getD 0)).all (fun r => me.localOk r.1 r.2.1 r.2.2.1 r.2.2.2) && folioOk d me ins && vocabOk me ins)

/-- Step 2's part that needs the signature: lead, keystone, home and matrix elements (R304). A home is one of any folio: that it is the home
of the folio which the entry names is for R213 to check (DEDUCED, log 19). -/
def roleBad (d : SigDecl) (me : ElemDecl) (sp : Option SpanDecl) (ins : Instr) : Bool :=
  match ins with
  | .sws _ => (match sp with | some p => !(me.x == p.x0 && me.y == p.y0) | none => true)
  | .keys => !(me.x == d.kx && me.y == d.ky)
  | .folm _ => !(d.folios.any (fun f => f.mx == me.x && f.my == me.y))
  | _ => match ins.folioOf with
    | none => false
    | some _ => !(d.folios.any (fun f => f.hx == me.x && f.hy == me.y))

/-- The code with which a word is refused, if it is (R304) (DEDUCED, log 19). -/
def wordFate (l : List Placed) (edges : List (Nat × Nat)) (i : Nat) (d : SigDecl) (me : ElemDecl) (s : Slot) : Option Nat :=
  match entryOf s.word with
  | none => some 0x11
  | some e =>
    let sp := d.spanAt me.x me.y
    if (e.instr.bad me.kind me.cfmt).isSome || roleBad d me sp e.instr then some 0x11
    else match sp with
      | none => some 0x10
      | some p =>
        let q : Ent := { sched := s.sched, stamp := e.stamp.toNat, e := e }
        if step8 l i d me p s.pos q then some 0x11
        else if step9 d me p (joinedSet edges (16 * l.length) [i * 16 + p.n] == [i * 16 + p.n]) q then some 0x10
        else none

/-! ## Declarations (R97, R117, R118, R125 to R136, R178, R209, R213, R241, R283, R284, R402) -/

/-- A CFMT that R209 accepts. -/
def cfmtOk (cf : Word) : Bool :=
  bitsOf cf 31 16 == 0 && decide (cfMfa cf ≤ 4) && decide (cfMfb cf ≤ 4) && cfCvf cf != 7 && decide (cfRnd cf ≤ 4) &&
  (cfMfa cf == cfMfb cf || ((cfMfa cf == 1 || cfMfa cf == 2) && (cfMfb cf == 1 || cfMfb cf == 2)))

/-- Whether a format word suits an entry: R390's two conditions, which belong to the check of R209. -/
def formatOk (cf : Word) (ins : Instr) : Bool :=
  match ins with
  | .mmas _ => decide (cfMfa cf < 3)
  | .mctr _ => cfMfa cf == 3 || cfMfa cf == 4
  | _ => true

/-- A bank group of a shape that R127 to R130 allow. -/
def GroupDecl.ok (g : GroupDecl) : Bool :=
  decide (g.i < 16) && decide (g.lo ≤ g.hi) && decide (g.hi < 16) && (match g.mode with
    | .store => decide (2 ≤ g.n) && decide (g.n ≤ 4)
    | .fifo => g.lo == g.hi && decide (1 ≤ g.n) && decide (g.n ≤ 3072)
    | .line => decide (2 ≤ g.n) && decide (g.n ≤ 8) && decide (1 ≤ g.wd) && decide (g.n * g.wd * 4 ≤ g.bytes))

/-- A decoding context whose declared values are in range; a grammar is declared with its three tables, and a log with its payload buffer
(R230, R241, R285). -/
def DctxDecl.ok (img : Image) (c : DctxDecl) : Bool :=
  (c.vocab == 0xFFFF || decide (1 ≤ c.v)) && decide (c.v < 2 ^ 24) && (c.embed == 0xFFFF || (decide (16 ≤ c.edim) && decide (c.edim ≤ 16384) && c.edim % 16 == 0)) &&
  decide (c.efmt < 3) && [c.vocab, c.embed, c.log, c.pay, c.gram, c.mask, c.trans].all (fun b => b == 0xFFFF || decide (b < img.bufs.length)) &&
  (!c.gon || (c.gram != 0xFFFF && c.mask != 0xFFFF && c.trans != 0xFFFF && (decide (c.start < c.nstate) || c.start == 0xFFFFFFFF))) &&
  (c.log == 0xFFFF || c.pay != 0xFFFF)

/-- An element's declarations (R97, R108, R125, R127, R209, R285, R390). -/
def ElemDecl.ok (img : Image) (d : SigDecl) (e : ElemDecl) : Bool :=
  let ce := e.kind == .ce
  decide (e.x < 32) && decide (e.y < 32) && e.kind == kindAt e.x e.y &&
  decide (e.g ≤ if ce then 32 else 16) && decide (e.k ≤ if ce then 32 else 0) && decide (e.p ≤ if ce then 8 else 0) &&
  decide (e.c ≤ if ce then 8 else 0) && decide (e.win ≤ 8) && (!ce || (cfmtOk e.cfmt && e.ents.all (fun q => formatOk e.cfmt q.e.instr))) &&
  (!ce || e.groups == []) && e.groups.all GroupDecl.ok &&
  e.groups.all (fun g => (e.groups.filter (fun k => k.i == g.i || (decide (k.lo ≤ g.hi) && decide (g.lo ≤ k.hi)))).length == 1) &&
  (e.rcxs == [] || (d.spanAt e.x e.y).isSome) &&
  (List.range 64).all (fun t => !e.recv.testBit t || d.tokens.testBit t) &&
  (match e.dctx with | some c => !ce && c.ok img | .none => true)

/-- Whether a context sends two inputs to one output (R108). -/
def RcxDecl.clash (c : RcxDecl) : Bool := (feeds c.outs).length != (feeds c.outs).dedup.length

/-- A span's rectangle and figures (R97, R100, R120). -/
def SpanDecl.ok (p : SpanDecl) : Bool :=
  decide (p.n < 16) && p.x0 % 4 == 0 && p.y0 % 4 == 0 && p.x1 % 4 == 3 && p.y1 % 4 == 3 && decide (p.x0 < p.x1) && decide (p.y0 < p.y1) &&
  decide (p.x1 < 32) && decide (p.y1 < 32) && decide (1 ≤ p.period) && decide (p.period ≤ 4096) && decide (p.round ≤ 4096)

/-- Whether two spans share an element. -/
def SpanDecl.meets (a b : SpanDecl) : Bool :=
  decide (a.x0 ≤ b.x1) && decide (b.x0 ≤ a.x1) && decide (a.y0 ≤ b.y1) && decide (b.y0 ≤ a.y1)

/-- The size of an image buffer. -/
def Image.bufSize (img : Image) (b : Nat) : Nat := ((img.bufs[b]?).map (·.size)).getD 0

/-- An eviction entry (R134). -/
def evictOk (img : Image) (d : SigDecl) (w : EWord) : Bool :=
  let e := d.elem (bitsOf w 63 59) (bitsOf w 58 54)
  let off := 64 * bitsOf w 53 42
  let len := 64 * bitsOf w 41 30
  kindAt e.x e.y == .me && (d.spanAt e.x e.y).isSome && decide (1 ≤ bitsOf w 41 30) && decide (bitsOf w 41 30 ≤ 3072) &&
  e.groups.any (fun g => decide (g.base ≤ off) && decide (off + len ≤ g.base + g.bytes)) &&
  decide (bitsOf w 29 24 < img.bufs.length) && decide (1024 * bitsOf w 23 2 + len ≤ img.bufSize (bitsOf w 29 24)) && bitsOf w 1 0 != 3

/-- A folio (R213, R280). -/
def FolioDecl.ok (img : Image) (d : SigDecl) (f : FolioDecl) (fx : Nat) : Bool :=
  let home := d.elem f.hx f.hy
  let tau := f.tau.toNat
  decide (32 ≤ f.n) && decide (f.n ≤ 16384) && f.n % 32 == 0 && decide (16 ≤ f.m) && decide (f.m ≤ 16384) && f.m % 16 == 0 &&
  decide (f.layer < 65536) && decide (f.nref < 65536) && (decide (tau < 0x7F800000) || tau == 0x80000000) &&
  decide (0 < f.dmax.toNat) && decide (f.dmax.toNat ≤ 0x7F800000) &&
  decide (f.off + f.ext ≤ img.bufSize f.buf) && kindAt f.hx f.hy == .me && (d.spanAt f.hx f.hy).isSome &&
  (List.range 4).any (fun side => sideXY f.hx f.hy side == (f.mx, f.my) && (side != 2 || decide (0 < f.hy)) && (side != 3 || decide (0 < f.hx))) &&
  decide (f.mx < 32) && decide (f.my < 32) &&
  (d.folios.filter (fun k => k.mx == f.mx && k.my == f.my)).length == 1 &&
  (match home.firstStore with
    | .some g => decide (d.folioAt fx + f.bytes ≤ g.base + g.bytes)
    | .none => false)

/-- A carried register's code for an element kind; 0x88 to 0x8B name a CE's accumulators (DEDUCED, log 25). -/
def carryOk (k : Kind) (c : Nat) : Bool :=
  codeG k c || codeK k c || codeC k c || (k == .ce && codeP c) || (k == .me && decide (0x80 ≤ c) && decide (c < 0x88)) ||
  (k == .ce && decide (0x88 ≤ c) && decide (c < 0x8C))

/-- Bytes that a carry counts against the page's carried ME ranges (R89, R283). -/
def CarryDecl.bytes (c : CarryDecl) : Nat :=
  if c.range then c.len
  else (c.codes.map (fun k => if 0x88 ≤ k then 1024 else if 0x80 ≤ k then 256 else 0)).sum

/-- The carries of a signature (R89, R283). -/
def SigDecl.carriesOk (d : SigDecl) : Bool :=
  decide ((d.carries.map CarryDecl.bytes).sum ≤ 65536) &&
  d.carries.all (fun c =>
    if c.range then kindAt c.x c.y == .me && decide (c.off + c.len ≤ 0x30000) && (d.spanAt c.x c.y).isSome
    else c.codes.all (carryOk (kindAt c.x c.y)) && (d.spanAt c.x c.y).isSome &&
      decide (((d.carries.filter (fun q => !q.range && q.x == c.x && q.y == c.y)).flatMap (fun q => q.codes.filter (· < 0x88))).length ≤ 8))

/-- A stream (R284, R339). -/
def StreamDecl.ok (img : Image) (d : SigDecl) (k : StreamDecl) : Bool :=
  kindAt k.x k.y == .me && (d.spanAt k.x k.y).isSome && decide (k.sn < 8) &&
  (d.streams.filter (fun q => q.x == k.x && q.y == k.y && q.sn == k.sn)).length == 1 &&
  (if k.endpoint then (match img.eps.find? (fun e => e.ep == k.idx) with
      | some e => k.kind == (if e.write then 2 else 1)
      | none => false)
    else decide (k.idx < img.bufs.length) && decide (1 ≤ k.kind) && decide (k.kind ≤ 4)) && decide (k.hint < 3)

/-- A link-port adder (R19): no fifth on one port, no other format, a length of 1 to 2^20; the stream that it forwards to is one that
stores (R284). -/
def AdderDecl.ok (d : SigDecl) (a : AdderDecl) : Bool :=
  decide (a.port < 18) && decide (a.adder < 4) && decide (a.fmt < 2) && decide (1 ≤ a.len) && decide (a.len ≤ 2 ^ 20) &&
  (d.adders.filter (fun b => b.port == a.port && b.adder == a.adder)).length == 1 &&
  d.streams.any (fun k => k.x == a.lx && k.y == a.ly && k.sn == a.lsn) &&
  (if a.toPort then decide (a.fx < 18) else d.streams.any (fun k => k.x == a.fx && k.y == a.fy && k.sn == a.fsn &&
    (k.kind == 2 || (!k.endpoint && k.kind == 3))))

/-- A declared row (R281, R406). -/
def RowDecl.ok (img : Image) (r : RowDecl) : Bool :=
  (match img.bufs[r.buf]? with
    | some b => b.cmp == 0 && decide (r.off < b.size)
    | none => false) && r.off % 1024 == 0

/-- A sole writer: an ME of a span, and a range of a declared buffer (R178, R285). -/
def SoleDecl.ok (img : Image) (d : SigDecl) (a : SoleDecl) : Bool :=
  kindAt a.x a.y == .me && (d.spanAt a.x a.y).isSome && decide (a.buf < img.bufs.length) && decide (a.off + a.len ≤ img.bufSize a.buf)

/-- Whether two sole writers are declared for one range (R178). -/
def SoleDecl.meets (a b : SoleDecl) : Bool :=
  a.buf == b.buf && decide (a.off < b.off + b.len) && decide (b.off < a.off + a.len)

/-- The declarations of a signature as a whole. -/
def SigDecl.ok (img : Image) (l : List Placed) (d : SigDecl) : Bool :=
  d.spans != [] && decide (d.spans.length ≤ 16) && d.spans.all SpanDecl.ok &&
  d.spans.all (fun p => (d.spans.filter (fun q => p.n == q.n || p.meets q)).length == 1) &&
  kindAt d.kx d.ky == .ce && (d.spanAt d.kx d.ky).isSome && decide (d.barriers ≤ 16) &&
  [d.chainE, d.chainN].all (fun c => c == 0xFFFF || l.any (fun q => q.idx == c)) &&
  d.handlers.all (fun h => decide (h.1 < 16) && d.tokens.testBit (bitsOf h.2 30 25) &&
    !(d.elems.any (fun e => e.recv.testBit (bitsOf h.2 30 25)))) &&
  decide (d.folios.length ≤ 4) && decide ((d.folios.map FolioDecl.bytes).sum ≤ 65536) &&
  (d.folios.zipIdx).all (fun p => p.1.ok img d p.2) &&
  decide (d.rows.length ≤ 64) && d.rows.all (RowDecl.ok img) && d.carriesOk && d.streams.all (StreamDecl.ok img d) &&
  d.adders.all (AdderDecl.ok d) && d.sends.all (fun q => decide (q.port < 18) && d.streams.any (fun k => k.x == q.x && k.y == q.y && k.sn == q.sn)) &&
  decide (d.evicts.length ≤ 64) && d.evicts.all (evictOk img d) &&
  d.soles.all (SoleDecl.ok img d) && (d.soles.zipIdx).all (fun p => (d.soles.take p.2).all (fun q => !(p.1.meets q)))

/-- The bytes that the stores of a signature could place in one half of its abutment in a round (R121, R135, R235). -/
def SigDecl.roundBytes (d : SigDecl) : Nat :=
  (d.elems.map (fun e =>
    let pay := fun st => maxNat (e.ents.map (fun q => q.e.instr.payloadMax st))
    let per := fun b => ((e.ents.filter (fun q => q.sched == b)).map (fun q => q.e.instr.storeBytes pay)).sum
    Nat.max (per false) (per true) * ((d.spanAt e.x e.y).map SpanDecl.roundLen).getD 0)).sum +
  (let ev := fun w2 => ((d.evicts.filter (fun w => bitsOf w 1 0 == 0 || bitsOf w 1 0 == w2)).map (fun w => 64 * bitsOf w 41 30)).sum
   Nat.max (ev 1) (ev 2))

/-! ## The whole load -/

/-- The adders that a signature declares, by die and port (R19). -/
def SigDecl.adderPorts (d : SigDecl) (page : Nat) : List (Nat × Nat) := d.adders.map (fun a => (dieOfPage page, a.port))

/-- Whether a signature of a load takes part in a fifth declaration on a port; `others` are the adders that are bound already (R19). -/
def fifthAdder (l : List Placed) (others : List (Nat × Nat)) (p : Placed) : Bool :=
  let all := others ++ l.flatMap (fun q => q.decl.adderPorts q.page)
  (p.decl.adderPorts p.page).any (fun a => decide (4 < (all.filter (· == a)).length))

/-- Every refusal of a load, beside the adders that are bound already. One of an expansion joint names the element that writes it
(DESIGN CHOICE, log 110). -/
def bindErrs (img : Image) (others : List (Nat × Nat)) (l : List Placed) : List BindErr :=
  let edges := spanEdges l
  let js := joints l
  (l.zipIdx).flatMap (fun (p : Placed × Nat) =>
    let d := p.1.decl
    let at_ : Nat → Nat → Nat → BindErr := fun code x y => { code := code, page := p.1.page, x := x, y := y, sch := 0xFF, stamp := 0xFFFF }
    (if d.ok img l && decide (d.roundBytes ≤ 65536) && !(fifthAdder l others p.1) then [] else [at_ 0x10 0xFF 0xFF]) ++
    d.elems.flatMap (fun e =>
      (if e.ok img d then [] else [at_ 0x10 e.x e.y]) ++
      (if e.rcxs.any RcxDecl.clash then [at_ 0x11 e.x e.y] else []) ++
      e.slots.filterMap (fun s => (wordFate l edges p.2 d e s).map (fun c =>
        { code := c, page := p.1.page, x := e.x, y := e.y, sch := if s.sched then 1 else 0
          stamp := (s.word.extractLsb' 52 12).toNat }))) ++
    (js.filter (fun q => q.i == p.2 && !(q.balanced l && q.paced l))).map (fun q => at_ 0x10 q.x q.y))

/-- The refusal that a FAULT reports (R305) (DEDUCED, log 19). -/
def bindErr (img : Image) (others : List (Nat × Nat)) (l : List Placed) : Option BindErr := (sortBy BindErr.before (bindErrs img others l)).head?

end Sys2Proof.Machine
end

