-- ==== Sys2Proof/Machine/Image.lean ====
section
/-! DEFINITION. Reading a Mygal image and a firmware bundle from their bytes (R63, R64, R65). -/

namespace Sys2Proof.Machine

open Sys2Proof

/-! ## Bytes -/

/-- Whether every byte is zero. -/
def allZero (l : List Byte) : Bool := l.all (· == 0#8)

/-- A byte, two, four and eight bytes of a record at an offset. -/
def u1 (l : List Byte) (o : Nat) : Nat := leAt l o 1
def u2 (l : List Byte) (o : Nat) : Nat := leAt l o 2
def u4 (l : List Byte) (o : Nat) : Nat := leAt l o 4
def u8 (l : List Byte) (o : Nat) : Nat := leAt l o 8

/-- A list cut into pieces of n bytes; none when it is no whole number of them. -/
def chunks (n : Nat) : Nat → List Byte → Option (List (List Byte))
  | _, [] => some []
  | 0, _ :: _ => none
  | fuel + 1, l => if l.length < n then none else (chunks n fuel (l.drop n)).map (l.take n :: ·)

/-- Every element of a list of options, or none. -/
def allSome {α : Type} : List (Option α) → Option (List α)
  | [] => some []
  | none :: _ => none
  | some a :: t => (allSome t).map (a :: ·)

/-! ## The directory (R63) -/

/-- A section directory entry. -/
structure Section where
  kind : Nat
  count : Nat
  off : Nat
  size : Nat
  deriving DecidableEq, Repr

/-- A directory entry read; none when a rule of R63 is broken. -/
def readSection (nsec len : Nat) (b : List Byte) : Option Section :=
  let s : Section := { kind := u2 b 0, count := u4 b 4, off := u8 b 8, size := u8 b 16 }
  if zeroAt b 2 2 && zeroAt b 24 8 && decide (1 ≤ s.kind) && decide (s.kind ≤ 6) && s.off % 8 == 0 &&
      decide (256 + 32 * nsec ≤ s.off) && decide (s.off + s.size ≤ len - 32768) then some s else none

/-- Whether two sections share a byte. -/
def Section.meets (a b : Section) : Bool :=
  decide (0 < a.size) && decide (0 < b.size) && decide (a.off < b.off + b.size) && decide (b.off < a.off + a.size)

/-- Whether the bytes of an image from offset o up to `fin` that lie in no section are zero; the sections stand in
ascending order (DEDUCED, log 47). -/
def padded (img : List Byte) (fin : Nat) : Nat → List Section → Bool
  | o, [] => zeroAt img o (fin - o)
  | o, s :: t => zeroAt img o (s.off - o) && padded img fin (s.off + s.size) t

/-! ## BUFFERS, DATA, ENDPOINTS, GRAPHS (R64) -/

/-- A BUFFERS record. -/
def readBuf (b : List Byte) : Option BufDecl :=
  let home := u1 b 9
  let fl := u1 b 10
  let size := u8 b 0
  if size % 64 = 0 ∧ size ≤ 2 ^ 40 ∧ 1 ≤ u1 b 8 ∧ u1 b 8 ≤ 3 ∧ (home < 16 ∨ home = 0xFE ∨ home = 0xFF) ∧ fl < 8 then
    if zeroAt b 11 1 && zeroAt b 16 16 then
      some { size := size, acc := u1 b 8, home := home, sparse := fl % 2 == 1, cmp := fl / 2, kib := u4 b 12 }
    else none
  else none

/-- The DATA records of a section. -/
def readData (bufs : List BufDecl) : Nat → List Byte → Option (List DataDecl)
  | _, [] => some []
  | 0, _ :: _ => none
  | fuel + 1, l =>
    let n := u4 l 4
    let pay := if u1 l 2 = 1 then 1 else n
    let total := 16 + alignUp pay 8
    let d : DataDecl := { buf := u2 l 0, fill := u1 l 2 == 1, count := n, off := u8 l 8, bytes := sliceBytes l 16 pay }
    if l.length < total ∨ 1 < u1 l 2 ∨ n = 0 then none
    else if zeroAt l 3 1 && zeroAt l (16 + pay) (total - 16 - pay) &&
        (match bufs[d.buf]? with | some b => decide (d.off + d.count ≤ b.size) | none => false) then
      (readData bufs fuel (l.drop total)).map (d :: ·)
    else none

/-- An ENDPOINTS record. -/
def readEp (b : List Byte) : Option EndpointDecl :=
  if u1 b 0 < 64 ∧ u1 b 1 < 2 ∧ u4 b 4 % 64 = 0 then
    if zeroAt b 2 2 then some { ep := u1 b 0, write := u1 b 1 == 1, min := u4 b 4 } else none
  else none

/-- The place of a signature by its directory index: its number among the signatures. -/
def sigNo (secs : List Section) (i : Nat) : Option Nat :=
  if ((secs[i]?).map (·.kind)) = some 5 then some ((secs.take i).filter (fun s => s.kind == 5)).length else none

/-- The load records of a graph, loads above `lo`, and the bytes after them. -/
def readLoads (secs : List Section) : Nat → Nat → List Byte → Option (List LoadDecl × List Byte)
  | 0, _, l => some ([], l)
  | k + 1, lo, l =>
    let load := u1 l 0
    let np := u1 l 1
    let ns := u2 l 2
    let o := 8 + alignUp np 8
    let total := o + alignUp (4 * ns) 8
    let preds := (List.range np).map (fun i => u1 l (8 + i))
    if l.length < total ∨ ns = 0 ∨ 128 < ns ∨ load < lo then none
    else if zeroAt l 4 4 && zeroAt l (8 + np) (o - 8 - np) && zeroAt l (o + 4 * ns) (total - o - 4 * ns) && preds.all (fun p => decide (p < load)) then
      match allSome ((List.range ns).map (fun i => sigNo secs (u4 l (o + 4 * i)))) with
      | none => none
      | some sigs => (readLoads secs k (load + 1) (l.drop total)).map (fun r => ({ load := load, preds := preds, sigs := sigs } :: r.1, r.2))
    else none

/-- The GRAPHS records of a section. -/
def readGraphs (secs : List Section) : Nat → List Byte → Option (List GraphDecl)
  | _, [] => some []
  | 0, _ :: _ => none
  | fuel + 1, l =>
    let n := u2 l 2
    if l.length < 8 ∨ n = 0 ∨ 256 < n then none
    else if zeroAt l 4 4 then
      match readLoads secs n 0 (l.drop 8) with
      | none => none
      | some (ls, rest) => (readGraphs secs fuel rest).map ({ graph := u2 l 0, loads := ls } :: ·)
    else none

/-! ## SIGNATURE (R64) -/

/-- A record of a signature: its type and its body. -/
structure Record where
  rtype : Nat
  body : List Byte
  deriving DecidableEq, Repr

/-- The records of a SIGNATURE section. -/
def readRecords : Nat → List Byte → Option (List Record)
  | _, [] => some []
  | 0, _ :: _ => none
  | fuel + 1, l =>
    let n := u4 l 4
    if l.length < 8 ∨ n % 8 ≠ 0 ∨ l.length < 8 + n then none
    else if zeroAt l 2 2 then (readRecords fuel (l.drop (8 + n))).map ({ rtype := u2 l 0, body := sliceBytes l 8 n } :: ·)
    else none

/-- The length of a record's body; SCHED's follows its count, and an unknown type has none. -/
def recordLen (r : Record) : Option Nat :=
  match r.rtype with
  | 0x0001 | 0x0002 | 0x0006 | 0x0007 | 0x0008 | 0x0009 | 0x0011 => some 16
  | 0x0003 | 0x0004 | 0x000A | 0x000B | 0x0010 | 0x0012 | 0x0013 | 0x0014 => some 8
  | 0x0005 => some 56
  | 0x000C => some 24
  | 0x0015 => some 40
  | 0x0016 => some (8 + 8 * u2 r.body 2)
  | 0x001F => some 0
  | _ => none

/-- Whether the words of a schedule stand in ascending stamp; the binder refuses a repeated one (R304). -/
def stampsRise (b : List Byte) : Bool :=
  (List.range (u2 b 2 - 1)).all (fun i => decide (bitsOf (BitVec.ofNat 64 (u8 b (8 + 8 * i))) 63 52 ≤ bitsOf (BitVec.ofNat 64 (u8 b (16 + 8 * i))) 63 52))

/-- Whether the bytes that a record does not list are zero, and each field that R64 limits holds one of its listed values. -/
def recordForm (r : Record) : Bool :=
  let b := r.body
  match r.rtype with
  | 0x0001 => (decide (u1 b 0 < 128) || u1 b 0 == 0xFF) && zeroAt b 5 1 && zeroAt b 10 6 && decide (u1 b 4 < 2)
  | 0x0002 => decide (u1 b 5 < 2) && zeroAt b 10 6
  | 0x0004 => zeroAt b 1 3
  | 0x0005 => decide (u1 b 6 < 2) && zeroAt b 7 1 && zeroAt b 18 6 && zeroAt b 50 6
  | 0x0006 => decide (u1 b 2 < 2) && zeroAt b 3 5
  | 0x0007 => zeroAt b 4 4 && (if u1 b 2 = 1 then u1 b 3 == 0 else
      u1 b 2 == 0 && decide (1 ≤ u1 b 3) && decide (u1 b 3 ≤ 8) && zeroAt b (8 + u1 b 3) (8 - u1 b 3))
  | 0x0008 => decide (u1 b 3 < 2)
  | 0x0009 => decide (u1 b 7 < 2) && zeroAt b 11 1 && (u1 b 7 == 0 || u1 b 10 == 0)
  | 0x000A => zeroAt b 5 3
  | 0x000C => zeroAt b 4 4
  | 0x0010 => decide (u1 b 2 < 2) && zeroAt b 3 5
  | 0x0011 => zeroAt b 5 3 && zeroAt b 12 4
  | 0x0012 => decide (u1 b 3 < 3)
  | 0x0013 => decide (u1 b 0 < 32) && [1, 2, 3, 4].all (fun i => decide (u1 b i < 4) || u1 b i == 0xFF) && zeroAt b 5 3
  | 0x0015 => decide (u1 b 11 < 4) && zeroAt b 30 2
  | 0x0016 => decide (u1 b 0 < 2) && zeroAt b 1 1 && zeroAt b 4 4 && stampsRise b
  | _ => true

/-- A folio record. -/
def readFolio (b : List Byte) : FolioDecl :=
  { layer := u2 b 0, hx := u1 b 2, hy := u1 b 3, mx := u1 b 4, my := u1 b 5, keep := u1 b 6 == 0, n := u4 b 8, m := u4 b 12,
    buf := u2 b 16, off := u8 b 24, ext := u8 b 32, tau := BitVec.ofNat 32 (u4 b 40), dmax := BitVec.ofNat 32 (u4 b 44),
    nref := u2 b 48 }

/-- A carry record. -/
def readCarry (b : List Byte) : CarryDecl :=
  if u1 b 2 = 1 then { x := u1 b 0, y := u1 b 1, range := true, codes := [], off := u4 b 8, len := u4 b 12 }
  else { x := u1 b 0, y := u1 b 1, range := false, codes := (List.range (u1 b 3)).map (fun i => u1 b (8 + i)), off := 0, len := 0 }

/-- An adder record. -/
def readAdder (b : List Byte) : AdderDecl :=
  { port := u1 b 0, adder := u1 b 1, chain := u1 b 2, fmt := u1 b 3, lx := u1 b 4, ly := u1 b 5, lsn := u1 b 6,
    toPort := u1 b 7 == 1, fx := u1 b 8, fy := u1 b 9, fsn := u1 b 10, len := u4 b 12 }

/-- A decoding-context record. -/
def readDctx (b : List Byte) : DctxDecl :=
  { v := u4 b 0, vocab := u2 b 4, embed := u2 b 6, edim := u2 b 8, efmt := u1 b 10, gon := u1 b 11 % 2 == 1, evm := u1 b 11 / 2 == 1,
    log := u2 b 12, pay := u2 b 14, posn := u8 b 16, gram := u2 b 24, mask := u2 b 26, trans := u2 b 28, nstate := u4 b 32,
    start := u4 b 36 }

/-- The signature that a chain field names by directory index: 0xFFFF for none, 0xFFFE when it is no signature. -/
def chainNo (secs : List Section) (i : Nat) : Nat := if i = 0xFFFF then 0xFFFF else (sigNo secs i).getD 0xFFFE

/-- The head of a signature. -/
def readSig (secs : List Section) (b : List Byte) : SigDecl :=
  { SigDecl.none with
    pin := u1 b 0, kx := u1 b 1, ky := u1 b 2, barriers := u1 b 3, debug := u1 b 4 == 1, chainE := chainNo secs (u2 b 6)
    chainN := chainNo secs (u2 b 8) }

/-- A signature-level record added. -/
def SigDecl.addRecord (d : SigDecl) (r : Record) : Option SigDecl :=
  let b := r.body
  match r.rtype with
  | 0x0002 => some { d with spans := d.spans ++ [{ n := u1 b 0, x0 := u1 b 1, y0 := u1 b 2, x1 := u1 b 3, y1 := u1 b 4,
                                                   waiting := u1 b 5 == 1, period := u2 b 6, round := u2 b 8 }] }
  | 0x0003 => some { d with tokens := u8 b 0 }
  | 0x0004 => some { d with handlers := d.handlers ++ [(u1 b 0, BitVec.ofNat 32 (u4 b 4))] }
  | 0x0005 => some { d with folios := d.folios ++ [readFolio b] }
  | 0x0006 => some { d with rows := d.rows ++ [{ buf := u2 b 0, reopen := u1 b 2 == 0, off := u8 b 8 }] }
  | 0x0007 => some { d with carries := d.carries ++ [readCarry b] }
  | 0x0008 => some { d with streams := d.streams ++ [{ x := u1 b 0, y := u1 b 1, sn := u1 b 2, endpoint := u1 b 3 == 1,
                                                       idx := u2 b 4, kind := u1 b 6, hint := u1 b 7, off := u8 b 8 }] }
  | 0x0009 => some { d with adders := d.adders ++ [readAdder b] }
  | 0x000A => some { d with sends := d.sends ++ [{ x := u1 b 0, y := u1 b 1, sn := u1 b 2, port := u1 b 3, chain := u1 b 4 }] }
  | 0x000B => some { d with evicts := d.evicts ++ [BitVec.ofNat 64 (u8 b 0)] }
  | 0x000C => some { d with soles := d.soles ++ [{ x := u1 b 0, y := u1 b 1, buf := u2 b 2, off := u8 b 8, len := u8 b 16 }] }
  | _ => .none

/-- The words of a schedule record. They begin at byte 8 of the body, and bytes 4 to 7 are 0, for every other field of R64 is aligned to its
size (DESIGN CHOICE, log 88). -/
def readWords (b : List Byte) : List EWord := (List.range (u2 b 2)).map (fun i => BitVec.ofNat 64 (u8 b (8 + 8 * i)))

/-- An element's record added. -/
def ElemDecl.addRecord (e : ElemDecl) (r : Record) : Option ElemDecl :=
  let b := r.body
  match r.rtype with
  | 0x0011 => some { e with g := u1 b 0, k := u1 b 1, p := u1 b 2, c := u1 b 3, win := u1 b 4, cfmt := BitVec.ofNat 32 (u4 b 8) }
  | 0x0012 => some { e with groups := e.groups ++ [{ i := u1 b 0, lo := u1 b 1, hi := u1 b 2
                                                     mode := match u1 b 3 with | 0 => .store | 1 => .fifo | _ => .line
                                                     n := u2 b 4, wd := u2 b 6 }] }
  | 0x0013 => some { e with rcxs := e.rcxs ++ [{ n := u1 b 0, outs := [u1 b 1, u1 b 2, u1 b 3, u1 b 4] }] }
  | 0x0014 => some { e with recv := u8 b 0 }
  | 0x0015 => if e.dctx.isSome then .none else some { e with dctx := .some (readDctx b) }
  | 0x0016 =>
    if u1 b 0 = 0 then (if e.schedA = [] then some { e with schedA := readWords b } else .none)
    else if e.schedB = [] then some { e with schedB := readWords b } else .none
  | _ => .none

/-- The signature with its last element changed by a record. -/
def SigDecl.addToLast (d : SigDecl) (r : Record) : Option SigDecl :=
  match d.elems.getLast? with
  | .none => .none
  | .some e => (e.addRecord r).map (fun e' => { d with elems := d.elems.dropLast ++ [e'] })

/-- The records after SIG, up to END, which is last. -/
def SigDecl.addAll (d : SigDecl) : List Record → Option SigDecl
  | [] => .none
  | r :: t =>
    if recordLen r ≠ .some r.body.length || !recordForm r then .none
    else if r.rtype = 0x001F then (if t = [] then .some d else .none)
    else if r.rtype = 0x0010 then
      let x := u1 r.body 0
      let y := u1 r.body 1
      if d.elems.any (fun e => e.x == x && e.y == y) then .none
      else
        let k : Kind := if u1 r.body 2 = 0 then .ce else .me
        ({ d with elems := d.elems ++ [{ ElemDecl.none x y with kind := k }] }).addAll t
    else if r.rtype < 0x0010 then
      (if d.elems = [] then (d.addRecord r).bind (fun d' => d'.addAll t) else .none)
    else (d.addToLast r).bind (fun d' => d'.addAll t)

/-- Whether each record that sets fields instead of adding to a list comes at most once: TOKENS, and in each element EDECL and RECV
(DEDUCED, log 47). `seen` are those of the signature or of the element so far. -/
def recordsOnce : List Nat → List Record → Bool
  | _, [] => true
  | seen, r :: t =>
    if r.rtype = 0x0010 then recordsOnce [] t
    else if [0x0003, 0x0011, 0x0014].contains r.rtype then !(seen.contains r.rtype) && recordsOnce (r.rtype :: seen) t
    else recordsOnce seen t

/-- A signature of its section's bytes; the section's COUNT counts its records. -/
def readSignature (secs : List Section) (count : Nat) (b : List Byte) : Option SigDecl :=
  match readRecords b.length b with
  | none => none
  | some [] => none
  | some (r :: t) =>
    if r.rtype = 0x0001 ∧ r.body.length = 16 ∧ count = t.length + 1 then
      if recordForm r && recordsOnce [] t then (readSig secs r.body).addAll t else none
    else none

/-! ## The image (R63) -/

/-- The bytes of a section. -/
def sectionBytes (img : List Byte) (s : Section) : List Byte := sliceBytes img s.off s.size

/-- The one section of a kind: its bytes and its count, none when it is not there. -/
def onlySection (img : List Byte) (secs : List Section) (kind : Nat) : Option (Nat × List Byte) :=
  ((secs.find? (fun s => s.kind == kind)).map (fun s => (s.count, sectionBytes img s)))

/-- An image read from its bytes; none when a rule of R63 or R64 is broken. -/
def readImage (len : Nat) (img : List Byte) : Option Image := do
  let h := img.take 256
  let nsec := u4 h 16
  guard (img.length = len ∧ 36864 ≤ len ∧ len ≤ 2 ^ 30 ∧ len % 4096 = 0)
  guard (u4 h 0 = 0x3147594D ∧ u2 h 4 = 0x0100 ∧ u1 h 6 < 16 ∧ u8 h 8 = len ∧ 1 ≤ nsec ∧ nsec ≤ 4096 ∧
    256 + 32 * nsec ≤ len - 32768 ∧ u4 h 20 ≤ 48 ∧ u4 h 20 % 4 = 0)
  guard (zeroAt h 7 1 && zeroAt h 24 232 && zeroAt img (len - 32768 + 29792) 2976)
  let dir ← chunks 32 nsec (sliceBytes img 256 (32 * nsec))
  let secs ← allSome (dir.map (readSection nsec len))
  let num := fun k => (secs.filter (fun s => s.kind == k)).length
  guard (num 1 = 1 ∧ num 4 = 1 ∧ num 2 ≤ 1 ∧ num 3 ≤ 1)
  guard ((secs.zipIdx).all (fun p => (secs.take p.2).all (fun q => !(p.1.meets q))))
  guard (padded img (len - 32768) (256 + 32 * nsec) (sortBy (fun (a b : Section) => decide (a.off < b.off)) secs))
  let b ← onlySection img secs 1
  let bufs ← (chunks 32 b.1 b.2).bind (fun l => allSome (l.map readBuf))
  guard (bufs.length = b.1)
  let d := (onlySection img secs 2).getD (0, [])
  let datas ← readData bufs d.1 d.2
  guard (datas.length = d.1)
  let e := (onlySection img secs 3).getD (0, [])
  let eps ← (chunks 8 e.1 e.2).bind (fun l => allSome (l.map readEp))
  guard (eps.length = e.1)
  let g ← onlySection img secs 4
  let graphs ← readGraphs secs g.1 g.2
  guard (graphs.length = g.1)
  let sigs ← allSome ((secs.filter (fun s => s.kind == 5)).map (fun s => readSignature secs s.count (sectionBytes img s)))
  pure { key := u1 h 6, pblk := u4 h 20, bufs := bufs, datas := datas, eps := eps, graphs := graphs, sigs := sigs }

/-! ## The firmware bundle (R65) -/

/-- A component: what it is for, its dies, its place, and its digest. -/
structure Component where
  comp : Nat
  dies : Nat
  off : Nat
  size : Nat
  digest : List Byte
  deriving DecidableEq, Repr

/-- A component directory entry. -/
def readComponent (len : Nat) (b : List Byte) : Option Component :=
  let c : Component := { comp := u1 b 0, dies := u1 b 1, off := u8 b 8, size := u8 b 16, digest := sliceBytes b 32 64 }
  if c.comp < 3 ∧ c.off + c.size ≤ len - 32768 then
    if zeroAt b 2 6 && zeroAt b 24 8 then some c else none
  else none

/-- A bundle's version, components and image-key table; none when its format is broken or a digest differs. -/
def readBundle (len : Nat) (b : List Byte) : Option (Word × List Component × List (List Byte)) := do
  let h := b.take 256
  let n := u2 h 6
  let koff := u8 h 20
  guard (b.length = len ∧ len % 4096 = 0 ∧ 36864 ≤ len ∧ len ≤ 2 ^ 26)
  guard (u4 h 0 = 0x4257464B ∧ u2 h 4 = 0x0100 ∧ 1 ≤ n ∧ n ≤ 64 ∧ u8 h 8 = len ∧ koff % 64 = 0 ∧
    256 + 96 * n ≤ koff ∧ koff + 1024 ≤ len - 32768)
  guard (zeroAt h 28 228 && zeroAt b (len - 32768 + 29792) 2976)
  let dir ← chunks 96 n (sliceBytes b 256 (96 * n))
  let cs ← allSome (dir.map (readComponent len))
  let parts : List Section := { kind := 0, count := 0, off := koff, size := 1024 } ::
    cs.map (fun c => { kind := 0, count := 0, off := c.off, size := c.size })
  guard (parts.all (fun s => decide (256 + 96 * n ≤ s.off)) &&
    (parts.zipIdx).all (fun p => (parts.take p.2).all (fun q => !(p.1.meets q))))
  guard (padded b (len - 32768) (256 + 96 * n) (sortBy (fun (a b : Section) => decide (a.off < b.off)) parts))
  guard (cs.all (fun c => shake256 (sliceBytes b c.off c.size) 64 == c.digest))
  let keys := (List.range 16).map (fun k => sliceBytes b (koff + 64 * k) 64)
  pure (BitVec.ofNat 32 (u4 h 16), cs, keys)

/-- The signature of an image or a bundle over the 64-byte digest of what comes before its signature block (R63). -/
def signatureOk (key : List Byte) (len : Nat) (b : List Byte) : Bool :=
  !(allZero key) && Config.slhDsaVerify key (shake256 (b.take (len - 32768)) 64) (sliceBytes b (len - 32768) 29792)

end Sys2Proof.Machine
end

