-- ==== Sys2Proof/Machine/Buffers.lean ====
section
/-! DEFINITION. Where buffers lie in device DRAM and in virtual memory, their tables, and moving them (R79 to R81, R142,
R431, R438). -/

namespace Sys2Proof.Machine

open Sys2Proof

/-! ## Memory contents -/

/-- A memory with `n` bytes from address `a` cleared. -/
def Memory.clear (m : Memory) (a n : Nat) : Memory := m.filter (fun c => decide (c.1 < a) || decide (a + n ≤ c.1))

/-- `n` bytes copied from `src` to `dst`. -/
def Memory.copy (m : Memory) (src dst n : Nat) : Memory :=
  (m.filter (fun c => decide (src ≤ c.1) && decide (c.1 < src + n))).foldl (fun t c => Memory.write t (c.1 - src + dst) c.2) (m.clear dst n)

/-- A device range cleared, in both views of memory; its poison goes, and no block in it is hot any more (R155). -/
def State.clearRange (s : State) (a n : Nat) : State :=
  { s with coh := s.coh.clear a n, dram := s.dram.clear a n
           hot := s.hot.filter (fun p => decide (p.1 < a) || decide (a + n ≤ p.1))
           poison := s.poison.filter (fun q => decide (q * 64 < a) || decide (a + n ≤ q * 64)) }

/-- The L2 lines of a set of device ranges cleaned and invalidated. -/
def State.flushRanges (s : State) (l : List (Nat × Nat)) : State :=
  s.flushLines (fun x => l.any (fun r => decide (r.1 ≤ x.ln * 256) && decide (x.ln * 256 < r.1 + r.2))) true true

/-- A unit's bytes, poison, hot marks and held rows moved to a new place, whose own poison it overwrites (R81, R62, R253). -/
def State.moveUnit (s : State) (src dst : Nat) : State :=
  let at_ := fun a => if src ≤ a ∧ a < src + unitBytes then a - src + dst else a
  { s with
    coh := s.coh.copy src dst unitBytes
    dram := s.coh.copy src dst unitBytes |>.filter (fun c => decide (dst ≤ c.1) && decide (c.1 < dst + unitBytes)) |>.foldl
      (fun t c => Memory.write t c.1 c.2) (s.dram.clear dst unitBytes)
    poison := ((s.poison.filter (fun q => !(decide (dst ≤ q * 64) && decide (q * 64 < dst + unitBytes)))).map (fun q => at_ (q * 64) / 64)).dedup
    hot := s.hot.map (fun (p : Nat × Nat) => (at_ p.1, p.2))
    rows := s.rows.map (fun h => { h with pa := at_ h.pa, lines := if src ≤ h.pa ∧ h.pa < src + unitBytes then [] else h.lines }) }

/-! ## Tables (R138, R139, R142) -/

/-- A block's stored form, or a table entry, written at a device address, without L2 lines. -/
def State.putDram (s : State) (a : Nat) (l : List Byte) : State :=
  { s with coh := s.coh.writeN a l, dram := s.dram.writeN a l }

/-- A 2 MiB leaf entry, and the pointer to the table of the next level. -/
def tableLeaf (pa : Nat) (w : Bool) (cmp : Nat) : BitVec 64 := BitVec.ofNat 64 (pa + cmp * 64 + 4 + (if w then 2 else 0) + 1)
def tablePtr (at_ : Nat) : BitVec 64 := BitVec.ofNat 64 (at_ + 3)

/-- A table entry written by firmware. -/
def State.setEntry (s : State) (pa : Nat) (e : BitVec 64) : State := s.putDram pa (leBytes 8 e.toNat)

/-- A new table of a tenant, every entry not present, in the lowest free page of the firmware's ranges (DESIGN CHOICE, log 16); none
where no page is left. -/
def State.newTable (s : State) (func : Nat) : Option (Nat × State) :=
  (s.areaRoom 4096).map (fun a => (a, (s.clearRange a 4096).modTenant func (fun t => { t with tables := t.tables ++ [a] })))

/-- The table of the level k below the one at `base`, of level l, on the path of address a, made where it is missing. A pointer is the
table's device address plus `off`. -/
def State.descend (s : State) (make : State → Option (Nat × State)) (off a : Nat) : Nat → Nat → Nat → Option (Nat × State)
  | 0, _, base => some (base, s)
  | k + 1, l, base =>
    let e := tableEntry s.coh (entryAddr base l a)
    if e.getLsbD 0 then s.descend make off a k (l + 1) (bitsOf e 51 12 * 0x1000 - off)
    else match make s with
      | none => none
      | some (p, t) => (t.setEntry (entryAddr base l a) (tablePtr (p + off))).descend make off a k (l + 1) p

/-- The table of level 3 on the path of a guest-physical address. -/
def State.hostPath (s : State) (func gpa : Nat) : Option (Nat × State) :=
  let make := fun (t : State) => t.newTable func
  match (s.tenants.find func).map (·.hpt) with
  | none => none
  | some 0 => (make s).bind (fun p => (p.2.modTenant func (fun t => { t with hpt := p.1 })).descend make 0 gpa 2 1 p.1)
  | some root => s.descend make 0 gpa 2 1 root

/-- A 2 MiB page mapped in the host stage. -/
def State.hostLeaf (s : State) (func gpa pa : Nat) : Option State :=
  (s.hostPath func gpa).map (fun p => p.2.setEntry (entryAddr p.1 3 gpa) (tableLeaf pa true 0))

/-- Where a tenant's guest-physical addresses of its tables begin: for function 0 they are device addresses (R139). -/
def tableOff (func : Nat) : Nat := if func = 0 then 0 else tableSpace

/-- A new guest table, which the host stage maps (R139). -/
def State.newGuestTable (s : State) (func : Nat) : Option (Nat × State) :=
  (s.newTable func).bind (fun p =>
    if func = 0 then some p
    else (p.2.hostLeaf func (tableSpace + alignDown p.1 unitBytes) (alignDown p.1 unitBytes)).map (fun t => (p.1, t)))

/-- The table of level 3 on the path of a virtual address. -/
def State.guestPath (s : State) (func va : Nat) : Option (Nat × State) :=
  let make := fun (t : State) => t.newGuestTable func
  let off := tableOff func
  match (s.tenants.find func).map (·.gpt) with
  | none => none
  | some 0 => (make s).bind (fun p => (p.2.modTenant func (fun t => { t with gpt := p.1 + off })).descend make off va 2 1 p.1)
  | some root => s.descend make off va 2 1 (root - off)

/-- The paths to a unit's leaves made in both stages: a buffer's guest-physical addresses equal its virtual ones (DESIGN CHOICE, log 13);
function 0 has no host stage. -/
def State.makePaths (s : State) (b : Buffer) (k : Nat) : Option State :=
  let va := b.va + k * unitBytes
  (s.guestPath b.func va).bind (fun p => if b.func = 0 then some p.2 else (p.2.hostPath b.func va).map Prod.snd)

/-- A unit of a buffer mapped for its tenant. -/
def State.mapBufUnit (s : State) (b : Buffer) (k : Nat) : Option State :=
  let va := b.va + k * unitBytes
  (s.guestPath b.func va).bind (fun p =>
    let leaf := fun (pa : Nat) => p.2.setEntry (entryAddr p.1 3 va) (tableLeaf pa (b.acc != 1) b.cmp)
    if b.func = 0 then some (leaf (b.unitPa k)) else (leaf va).hostLeaf b.func va (b.unitPa k))

/-- A unit's translation removed. -/
def State.unmapBufUnit (s : State) (b : Buffer) (k : Nat) : State :=
  let va := b.va + k * unitBytes
  let t := match s.guestPath b.func va with
    | some p => p.2.setEntry (entryAddr p.1 3 va) 0#64
    | none => s
  if b.func = 0 then t
  else match t.hostPath b.func va with
    | some p => p.2.setEntry (entryAddr p.1 3 va) 0#64
    | none => t

/-- A buffer's translations removed. -/
def State.unmapBuf (s : State) (b : Buffer) : State := (List.range b.nUnits).foldl (fun t k => t.unmapBufUnit b k) s

/-- The dynamic range entries and the nested TLB entries of a tenant flushed, as each change of its tables asks
(R142). -/
def State.flushTables (s : State) (func : Nat) : State :=
  { s with
    ranges := s.ranges.filter (fun p => !(p.2.dyn && p.2.owner == func))
    ntlb := s.ntlb.map (fun (p : Nat × List NTlb) => (p.1, p.2.filter (fun e => e.func != func))) }

/-- A change of tables made for each of some units, while there is room for tables. -/
def overUnits (l : List Nat) (f : State → Nat → Option State) (s : State) : Option State := l.foldl (fun t k => t.bind (fun t => f t k)) (some s)

/-- Every backed unit of a buffer mapped, and the paths of the others made, so that backing one needs no more room; none where there is no
room for the tables. -/
def State.mapBuf (s : State) (b : Buffer) : Option State :=
  let paths := if b.sparse then overUnits (List.range b.nUnits) (fun t k => t.makePaths b k) s else some s
  (paths.bind (overUnits b.unitsBacked (fun t k => t.mapBufUnit b k))).map (fun t => t.flushTables b.func)

/-- The tables of every tenant that has one in some ranges built again elsewhere (R62, R142); none where there is no room for them. -/
def State.moveTables (s : State) (l : List (Nat × Nat)) : Option State :=
  let gone := (s.tenants.filter (fun p => p.2.tables.any (fun a => l.any (rangesMeet (a, 4096))))).map Prod.fst
  gone.foldl (fun (acc : Option State) f => acc.bind (fun t =>
    let t := (t.modTenant f (fun x => { x with gpt := 0, hpt := 0, tables := [] })).flushTables f
    (t.bufs.vals.filter (fun b => b.func == f)).foldl (fun (u : Option State) b => u.bind (fun u => u.mapBuf b)) (some t))) (some s)

/-- The folio slots that lie in some ranges moved elsewhere, with their poison (R62, R214, R253); none where there is no room for one. -/
def State.moveSlots (s : State) (l : List (Nat × Nat)) : Option State :=
  let gone := s.tenants.flatMap (fun p => (p.2.folios.filter (fun q => l.any (rangesMeet (q.pa, q.len)))).map (fun q => (p.1, q)))
  gone.foldl (fun (acc : Option State) p => acc.bind (fun t => (t.areaRoom p.2.len).map (fun a =>
    (t.markSectors a p.2.len (t.badSectors p.2.pa p.2.len)).modTenant p.1 (fun x =>
      { x with folios := x.folios.map (fun q => if q.layer = p.2.layer then { q with pa := a } else q) })))) (some s)

/-! ## Moving buffers (R81) -/

/-- A buffer moved to new places: its L2 lines are cleaned and invalidated, its backed units copied, its tables
retargeted (R81). No weight version advances (R217). -/
def State.moveBuffer (s : State) (n : Nat) (bases : List Nat) (home : Option Nat) : State :=
  match s.bufs.find n with
  | none => s
  | some b =>
    let b' := { b with bases := bases, home := home }
    let t := b.unitsBacked.foldl (fun (t : State) k => if b.unitPa k = b'.unitPa k then t else t.moveUnit (b.unitPa k) (b'.unitPa k))
      (s.flushRanges b.ranges)
    let t := { t with bufs := t.bufs.set n b' }
    (t.mapBuf b').getD t

/-- The uncompressed bytes of a buffer in the first n bytes of its stored form: of a compressible one, as many of each 1,088 B slot as it
holds, and 1,024 at most (R71, R151; DEDUCED, log 98). -/
def Buffer.plainTo (b : Buffer) (n : Nat) : Nat :=
  Nat.min b.size (if b.cmp = 0 then n else n / 1088 * 1024 + Nat.min 1024 (n % 1088))

/-- The uncompressed bytes that a move of unit k copies (R71). -/
def Buffer.plainBytes (b : Buffer) (k : Nat) : Nat := b.plainTo ((k + 1) * unitBytes) - b.plainTo (k * unitBytes)

/-- The uncompressed bytes that a move of a buffer copies (R71). -/
def Buffer.moveBytes (b : Buffer) : Nat := (b.unitsBacked.map b.plainBytes).sum

/-! ## Homes at IMAGE.LOAD (R79, R431) -/

/-- Where a buffer goes: its home and its bases, or the status that ends the load. -/
def State.placeBuf (s : State) (d : BufDecl) : Except Nat (Option Nat × List Nat) :=
  let len := ceilDiv (storedBytes d.cmp d.size) unitBytes * unitBytes
  if d.home < 16 then
    (match if s.stackUp d.home then s.roomAt d.home len else none with
      | some a => .ok (some d.home, [a])
      | none => .error 0x11)
  else if d.home = 0xFE ∨ 2 ^ 34 < d.size then
    let st := s.stacks
    let units := len / unitBytes
    match allSome (st.zipIdx.map (fun p => s.roomAt p.1 (partUnits units st.length p.2 * unitBytes))) with
    | some l => if l = [] then .error 0x04 else .ok (none, l)
    | none => .error 0x04
  else match (s.stacks.filterMap (fun k => (s.roomAt k len).map (fun a => (k, a)))).head? with
    | some (k, a) => .ok (some k, [a])
    | none => .error 0x04

/-- The bytes that a `.data` writes. -/
def DataDecl.content (d : DataDecl) : List Byte := if d.fill then List.replicate d.count ((d.bytes.head?).getD 0#8) else d.bytes

/-- The units in which n bytes from an offset of a buffer are stored: of a compressible one, those of the slots of their blocks (R151). -/
def storedUnits (cmp off n : Nat) : List Nat :=
  let lo := if cmp = 0 then off else off / 1024 * 1088
  let hi := if cmp = 0 then off + n - 1 else (off + n - 1) / 1024 * 1088 + 1087
  if n = 0 then [] else (List.range (hi / unitBytes + 1 - lo / unitBytes)).map (· + lo / unitBytes)

/-- The units of a sparse buffer that `.data` writes (R272). -/
def dataUnits (datas : List DataDecl) (i cmp : Nat) : List Nat :=
  ((datas.filter (fun d => d.buf == i)).flatMap (fun d => storedUnits cmp d.off d.count)).dedup

/-- The headers of the blocks whose slots begin in a unit of a compressible buffer: every block reads as zeros, in the
all-zero mode that a whole write of zeros takes (R152, R153, R272). -/
def State.initBlocks (s : State) (b : Buffer) (k : Nat) : State :=
  if b.cmp = 0 then s
  else
    let lo := ceilDiv (k * unitBytes) 1088
    let hi := Nat.min (ceilDiv ((k + 1) * unitBytes) 1088) (ceilDiv b.size 1024)
    (List.range (hi - lo)).foldl (fun (t : State) i =>
      t.putDram (b.unitPa k + (1088 * (lo + i) - k * unitBytes)) [1#8, 1#8]) s

/-- The initial bytes of a range of a buffer written at load, each block of a compressible buffer in the mode a whole
write gives it (R153). -/
def State.putData (s : State) (b : Buffer) (off : Nat) (l : List Byte) : State :=
  if b.cmp = 0 then
    (List.range ((off + l.length - 1) / unitBytes + 1 - off / unitBytes)).foldl (fun t i =>
      let lo := Nat.max off ((off / unitBytes + i) * unitBytes)
      let hi := Nat.min (off + l.length) ((off / unitBytes + i + 1) * unitBytes)
      t.putDram (b.unitPa (lo / unitBytes) + lo % unitBytes) (sliceBytes l (lo - off) (hi - lo))) s
  else
    (List.range ((off + l.length - 1) / 1024 + 1 - off / 1024)).foldl (fun t i =>
      let k := off / 1024 + i
      let lo := Nat.max off (k * 1024)
      let hi := Nat.min (off + l.length) (k * 1024 + 1024)
      let old := expandBlock (t.peekVa b.func (slotVa b k) 1088)
      let new := old.take (lo - k * 1024) ++ sliceBytes l (lo - off) (hi - lo) ++ old.drop (hi - k * 1024)
      (compressBlock b.cmp new).zipIdx.foldl (fun u p => match u.paOf b.func (slotVa b k + p.2) with
        | some pa => u.putDram pa [p.1]
        | none => u) t) s

/-- One buffer of an image placed, mapped and cleared, or the status that ends the load. -/
def State.loadBuf (s : State) (func : Nat) (datas : List DataDecl) (d : BufDecl) (i : Nat) : Except Nat (Nat × State) :=
  let len := ceilDiv (storedBytes d.cmp d.size) unitBytes * unitBytes
  match s.placeBuf d with
  | .error e => .error e
  | .ok (home, bases) =>
    match s.vaRoom func len with
    | none => .error 0x04
    | some va =>
      let (n, t) := s.fresh
      let b : Buffer := { func := func, va := va, size := d.size, acc := d.acc, sparse := d.sparse, cmp := d.cmp, kib := d.kib
                          pinned := decide (d.home < 16), home := home, placed := decide (d.home < 16) || home.isNone, bases := bases
                          backed := if d.sparse then dataUnits datas i d.cmp else [] }
      let t := b.ranges.foldl (fun (u : State) r => u.clearRange r.1 r.2) ({ t with bufs := t.bufs.set n b })
      match t.mapBuf b with
      | none => .error 0x04
      | some u => .ok (n, b.unitsBacked.foldl (fun (u : State) k => u.initBlocks b k) u)

/-- Every buffer of an image placed, in order; then its `.data` bytes. -/
def State.loadBufs (s : State) (func : Nat) (datas : List DataDecl) : List (BufDecl × Nat) → Except Nat (List Nat × State)
  | [] => .ok ([], s)
  | (d, i) :: rest =>
    match s.loadBuf func datas d i with
    | .error e => .error e
    | .ok (n, t) => (match t.loadBufs func datas rest with
      | .error e => .error e
      | .ok (l, u) => .ok (n :: l, u))

/-- The `.data` bytes of an image written into its buffers. -/
def State.loadDatas (s : State) (bufs : List Nat) (datas : List DataDecl) : State :=
  datas.foldl (fun t d => match (bufs[d.buf]?).bind t.bufs.find with
    | some b => t.putData b d.off d.content
    | none => t) s

/-- A buffer freed: its translations and its L2 lines go, and the times of its hot blocks (R155). -/
def State.dropBuf (s : State) (n : Nat) : State :=
  match s.bufs.find n with
  | none => s
  | some b =>
    let t := ((s.flushRanges b.ranges).unmapBuf b).flushTables b.func
    { t with bufs := t.bufs.del n
             hot := t.hot.filter (fun p => !(b.ranges.any (fun r => decide (r.1 ≤ p.1) && decide (p.1 < r.1 + r.2)))) }

/-! ## Sparse units (R141, R431) -/

/-- SIGNAL with MODE 1 backs the sparse unit of an address with zeroed DRAM at its reserved place; of a compressible buffer, the units in
which the address's block is stored (DEDUCED, log 51). -/
def State.backUnit (s : State) (func va : Nat) : State :=
  match s.bufs.find? (fun p => p.2.func == func && p.2.sparse && p.2.va ≤ va && va < p.2.va + p.2.size) with
  | none => s
  | some (n, b) =>
    ((storedUnits b.cmp (va - b.va) 1).filter (fun k => !(b.backed.contains k))).foldl (fun (s : State) k =>
      let b' := { b with backed := insertUniq k (((s.bufs.find n).map (·.backed)).getD []) }
      let t := s.clearRange (b.unitPa k) unitBytes
      let t := ({ t with bufs := t.bufs.set n b' }).initBlocks b' k
      ((t.mapBufUnit b' k).getD t).flushTables func) s

end Sys2Proof.Machine
end

