-- ==== Sys2Proof/Machine/Bind.lean ====
section
/-! DEFINITION. Binding a fabric load, its start, and the save of a region that yields (R29, R78 to R81, R86 to R93, R102,
R125, R136, R177, R224, R245, R250, R254, R263, R286, R388). -/

namespace Sys2Proof.Machine

open Sys2Proof

/-! ## Homes and migration (R79 to R81) -/

/-- A buffer's part of the score of a placement if its home were stack k. -/
def homeScore (b : Buffer) (pages : List Nat) (k : Nat) : Nat := (pages.map (fun p => b.kib * pageDist p k)).sum

/-- The in-service stack of lowest score that passes a test, the lowest number first. -/
def State.bestStack (s : State) (b : Buffer) (pages : List Nat) (ok : Nat → Bool) : Option Nat :=
  s.stacks.foldl (fun (m : Option Nat) k =>
    if !(ok k) then m
    else match m with
      | none => some k
      | some j => if homeScore b pages k < homeScore b pages j then some k else m) none

/-- Whether a bound signature of any launch uses a buffer (R80): one that it declares (R77). One that its entries reach only through
copy descriptors is not counted as used (DESIGN CHOICE, log 66). -/
def State.bufBound (s : State) (n : Nat) : Bool :=
  s.regions.any (fun p => match s.launchOf p.2.func p.2.ltag with
    | some l => p.2.sigs.any (fun q => !q.passed && (l.declared q.decl).contains n)
    | none => false)

/-- Where a buffer of a load goes before the bind: its home at the first placement of a signature that declares it (R79),
or a better stack (R80); none when it stays. -/
def State.newHome (s : State) (n : Nat) (b : Buffer) (pages : List Nat) (moved : List Nat) : Option Nat :=
  match b.home with
  | none => none
  | some cur =>
    let room := fun k => k == cur || (s.roomAt k (b.nUnits * unitBytes)).isSome
    if b.pinned then none
    else if !b.placed then
      match s.bestStack b pages room with
      | some k => if homeScore b pages k < homeScore b pages cur then some k else none
      | none => none
    else if b.size ≤ 2 ^ 32 ∧ !(moved.contains n) ∧ !(s.bufBound n) ∧ !(s.rows.any (fun h => b.ranges.any (fun r => decide (r.1 ≤ h.pa) && decide (h.pa < r.1 + r.2)))) then
      match s.bestStack b pages (fun _ => true) with
      | some k => if homeScore b pages k < homeScore b pages cur ∧ 4 * homeScore b pages k ≤ 3 * homeScore b pages cur ∧ room k then some k else none
      | none => none
    else none

/-- The pages of a placement whose signatures declare a buffer. -/
def declPages (l : Launch) (at_ : List (SigDecl × Nat)) (n : Nat) : List Nat :=
  (at_.filter (fun p => (l.declared p.1).contains n)).map Prod.snd

/-- The buffers of a load homed and migrated: the state, the bytes moved, and the buffers that have moved (R79 to R81). Where they
compete for a stack's room, the lower buffer number goes first (DESIGN CHOICE, log 67). -/
def State.homeBufs (s : State) (l : Launch) (at_ : List (SigDecl × Nat)) (moved : List Nat) : State × Nat × List Nat :=
  let used := (sortBy (fun (a b : Nat) => decide (a < b)) (at_.flatMap (fun p => l.declared p.1))).dedup
  used.foldl (fun (acc : State × Nat × List Nat) n =>
    match acc.1.bufs.find n with
    | none => acc
    | some b =>
      let pages := declPages l at_ n
      match acc.1.newHome n b pages acc.2.2 with
      | none => ({ acc.1 with bufs := acc.1.bufs.modify n (fun b => { b with placed := true }) }, acc.2)
      | some k =>
        match acc.1.roomAt k (b.nUnits * unitBytes) with
        | none => acc
        | some a =>
          let t := acc.1.moveBuffer n [a] (some k)
          ({ t with bufs := t.bufs.modify n (fun b => { b with placed := true }) }, acc.2.1 + b.moveBytes, acc.2.2 ++ [n]))
    (s, 0, moved)

/-! ## Static range entries (R136, R431, R438) -/

/-- Runs of a buffer's backed units that are contiguous in both spaces: first unit and count. -/
def Buffer.runs (b : Buffer) : List (Nat × Nat) :=
  (sortBy (fun (x y : Nat) => decide (x < y)) b.unitsBacked).foldl (fun (l : List (Nat × Nat)) k =>
    match l.getLast? with
    | some (a, n) => if a + n = k ∧ b.unitPa k = b.unitPa a + n * unitBytes then l.dropLast ++ [(a, n + 1)] else l ++ [(k, 1)]
    | none => [(k, 1)]) []

/-- The range entry of a run. -/
def Buffer.entry (b : Buffer) (r : Nat × Nat) : RangeEntry :=
  { owner := b.func, vbase := (b.va + r.1 * unitBytes) / 4096, pages := r.2 * (unitBytes / 4096), sbase := b.unitPa r.1 / 4096
    w := b.acc != 1, cmp := b.cmp, dyn := false, age := 0 }

/-- The static entries that the binder loads for a signature, while they fit in entries 0 to 23: a buffer that needs more
than remain is left to the walk. -/
def State.staticEntries (s : State) (l : Launch) (d : SigDecl) : List RangeEntry :=
  (l.declared d).foldl (fun (acc : List RangeEntry) n => match s.bufs.find n with
    | none => acc
    | some b => if acc.length + b.runs.length ≤ 24 then acc ++ b.runs.map b.entry else acc) []

/-- The entries loaded at a page's abutment. -/
def State.loadStatic (s : State) (l : Launch) (d : SigDecl) (page : Nat) : State :=
  let a := Config.abutmentOf page * 32
  let kept := s.ranges.filter (fun p => p.2.dyn || p.1 / 32 != Config.abutmentOf page)
  { s with ranges := (s.staticEntries l d).zipIdx.foldl (fun (t : Tbl RangeEntry) p => t.set (a + p.2) p.1) kept }

/-! ## The fabric at bind (R102, R127 to R132, R216, R230, R286, R339) -/

/-- The virtual base of an image buffer, and its size; 0 where none is named. -/
def State.bufBase (s : State) (l : Launch) (i : Nat) : Nat := (((l.bufs[i]?).bind s.bufs.find).map (·.va)).getD 0
def State.bufSize (s : State) (l : Launch) (i : Nat) : Nat := (((l.bufs[i]?).bind s.bufs.find).map (·.size)).getD 0

/-- A declared stream at bind (R339). -/
def State.bindStream (s : State) (l : Launch) (k : StreamDecl) : Stream :=
  let st : Stream := { Stream.none with
    base := if k.endpoint then 0 else s.bufBase l k.idx
    ext := if k.endpoint then ((l.binds.find? (fun b => b.1 == k.idx)).map (fun b => b.2.2)).getD 0 else s.bufSize l k.idx
    pos := k.off, mark := k.off, hint := k.hint }
  st.refetch s.cycle

/-- A decoding context at bind (R230). -/
def State.bindDctx (s : State) (l : Launch) (c : DctxDecl) : Dctx :=
  { Dctx.none with
    v := c.v, vocb := s.bufBase l c.vocab, ebase := s.bufBase l c.embed, edim := c.edim, efmt := c.efmt
    lbase := s.bufBase l c.log, lsize := s.bufSize l c.log, pbase := s.bufBase l c.pay
    psize := s.bufSize l c.pay, posn := c.posn, gon := c.gon, gbase := s.bufBase l c.gram, mbase := s.bufBase l c.mask
    tbase := s.bufBase l c.trans, nstate := c.nstate, start := if c.gon then c.start else 0
    state := BitVec.ofNat 32 (if c.gon then c.start else 0), evm := c.evm, slen := [0, 0, 0, 0] }

/-- The banks of an element's declared groups. -/
def ElemDecl.banks (d : ElemDecl) : List Nat :=
  d.groups.flatMap (fun g => (List.range (g.hi + 1 - g.lo)).map (· + g.lo))

/-- Elements of a signature that hold something at bind. -/
def SigDecl.coordsUsed (d : SigDecl) : List (Nat × Nat) :=
  (d.elems.map (fun e => (e.x, e.y)) ++ d.streams.map (fun k => (k.x, k.y)) ++ d.folios.map (fun f => (f.hx, f.hy))).dedup

/-- The slot of a layer of a tenant. -/
def State.folioSlot (s : State) (func layer : Nat) : Option FolioSlot :=
  ((s.tenants.find func).bind (fun t => t.folios.find? (fun q => q.layer == layer)))

/-- A slot's arrays written at `a` in the memory of an ME: XP, then YP. -/
def FolioSlot.load (q : FolioSlot) (n a : Nat) (m : Memory) : Memory :=
  (m.writeN a (q.xp.flatMap (fun w => leBytes 4 w.toNat))).writeN (a + 4 * n) (q.yp.flatMap (fun w => leBytes 4 w.toNat))

/-- The arrays of the folios of a home ME, loaded from their slots (R216, R280). -/
def State.bindFolios (s : State) (func : Nat) (d : SigDecl) (x y : Nat) (m : Memory) : Memory :=
  (d.folios.zipIdx).foldl (fun (m : Memory) (p : FolioDecl × Nat) =>
    if p.1.hx = x ∧ p.1.hy = y then
      match s.folioSlot func p.1.layer with
      | some q => q.load p.1.n (d.folioAt p.2 + 64) m
      | none => m
    else m) m

/-- The poisoned words that the folios of a home ME bring from the sectors of their slots (R223, R253). -/
def State.folioMarks (s : State) (func : Nat) (d : SigDecl) (x y : Nat) : List Nat :=
  (d.folios.zipIdx.filter (fun p => p.1.hx == x && p.1.hy == y)).flatMap (fun p =>
    ((s.folioSlot func p.1.layer).elim [] (fun q => s.badSectors q.pa p.1.bytes)).flatMap (fun o =>
      (List.range 16).map (fun w => d.folioAt p.2 + o + 4 * w)))

/-- An element of a signature at bind: its banks wake (R29). -/
def State.bindElem (s : State) (func : Nat) (l : Launch) (d : SigDecl) (x y : Nat) : Elem :=
  let e := d.elem x y
  { Elem.fresh (kindAt x y) with
    streams := (d.streams.filter (fun k => k.x == x && k.y == y)).map (fun k => (k.sn, s.bindStream l k))
    dc := (e.dctx.map (s.bindDctx l)).getD Dctx.none
    sram := s.bindFolios func d x y []
    poison := s.folioMarks func d x y
    waking := e.banks }

/-- A folio at bind (R216). -/
def State.bindFolio (s : State) (func : Nat) (d : SigDecl) (fx : Nat) : Folio :=
  let ctl := (((d.folios[fx]?).bind (fun f => s.folioSlot func f.layer)).map (·.ctl)).getD Folio.zero
  { ctl with ph := 0, xOff := d.folioAt fx + 64 }

/-- The fabric of a load at bind. -/
def State.bindFabric (s : State) (func : Nat) (l : Launch) (sigs : List SigInst) : Fabric :=
  let ix := sigs.zipIdx
  { Fabric.empty with
    elems := ix.flatMap (fun p => p.1.decl.coordsUsed.map (fun c => (elemKey p.2 c.1 c.2, s.bindElem func l p.1.decl c.1 c.2)))
    spans := ix.flatMap (fun p => p.1.decl.spans.map (fun k =>
      (p.2 * 16 + k.n, Span.fresh (if k.waiting then .idle else .waiting false))))
    handlers := ix.flatMap (fun p => p.1.decl.handlers.map (fun h => (p.2 * 16 + h.1, h.2)))
    folios := ix.flatMap (fun p => (List.range p.1.decl.folios.length).map (fun fx => (folioKey p.2 fx, s.bindFolio func p.1.decl fx)))
    adders := ix.flatMap (fun p => p.1.decl.adders.map (fun a => (p.2 * 128 + a.port * 4 + a.adder, Adder.zero))) }

/-! ## FABRIC_LOAD_BIND (R78, R125) -/

/-- The signatures of an item on the pages of a placement. -/
def placeSigs (sigs : List (Nat × SigDecl)) (pages : List Nat) : List Placed :=
  (sigs.zip pages).map (fun p => { idx := p.1.1, decl := p.1.2, page := p.2 })

/-- The signatures of a saved region on their new pages, in order. -/
def repage : List SigInst → List Nat → List SigInst
  | [], _ => []
  | q :: t, p :: ps => if q.passed then q :: repage t (p :: ps) else { q with page := p } :: repage t ps
  | q :: t, [] => q :: repage t []

/-- The region of an item that begins to bind; a saved one keeps its state. -/
def State.newRegion (s : State) (i : Ready) (l : Launch) (placed : List Placed) (n due moved : Nat) (movedBufs : List Nat) : Region :=
  let fresh : List SigInst := placed.map (fun p => { decl := p.decl, idx := p.idx, page := p.page, passed := false, final := false, done := false })
  let common : Region → Region := fun g => { g with
    mode := .binding due, brk := none, yieldReq := none, stopReq := none, bound := n, commits := 0
    wheel := if s.needsWheel i then s.freeWheel else none
    fwver := s.dies.map (·.fwver), counts := [], staging := [], pageStart := s.cycle, roundBytes := moved, commit := []
    commitOn := false, cyc := 0, limit := 0, moved := movedBufs, fwDie := none }
  match i.saved with
  | some g => common { g with
      sigs := repage g.sigs (placed.map (·.page))
      saved := true }
  | none =>
    let f := s.bindFabric i.func l fresh
    common { Region.empty with
      num := n, func := i.func, ltag := i.ltag, aseq := i.aseq, load := i.load, graph := l.graph, prio := i.prio, rel := i.rel
      sigs := fresh, old := f, now := f, ckpt := f }

/-- A load that the binder refuses: one FAULT, and the launch ends with 0x10 (R125, R250, R305). -/
def State.refuseLoad (s : State) (i : Ready) (e : BindErr) : State :=
  let f : Flt := { code := e.code, page := e.page, x := e.x, y := e.y, sch := e.sch, stamp := e.stamp, win := 0, addr := 0
                   resumable := false, counts := false }
  let (fid, t) := s.takeFid i.func
  ((t.modLaunch i.func i.ltag (fun l => { l with flt := some (f.code, fid) })).faultMsg i.func i.ltag fid f).endLaunch i.func i.ltag 0x10

/-- The link-port adders of the bound signatures, by die and port (R19). -/
def State.boundAdders (s : State) : List (Nat × Nat) :=
  s.regions.vals.flatMap (fun g => (g.sigs.filter (fun q => !q.passed)).flatMap (fun q => q.decl.adderPorts q.page))

/-- The refusal of a region that resumes: a fifth adder on a port, beside those bound meanwhile (R19). -/
def resumeErr (others : List (Nat × Nat)) (l : List Placed) : Option BindErr :=
  (l.find? (fifthAdder l others)).map (fun p => { code := 0x10, page := p.page, x := 0xFF, y := 0xFF, sch := 0xFF, stamp := 0xFFFF })

/-- The bind of the chosen item on the pages of its placement: it takes at most 8,000 cycles, and 10,000 more for a saved region
(R78). -/
def State.bindItem (s : State) (i : Ready) (l : Launch) (pages : List Nat) : State :=
  let placed := placeSigs (s.itemSigs i) pages
  let refusal := if i.saved.isSome then resumeErr s.boundAdders placed else bindErr l.img s.boundAdders placed
  match refusal with
  | some e => s.refuseLoad i e
  | none =>
    let before := ((i.saved.map (·.moved)).getD [])
    let (t, bytes, moved) := s.homeBufs l (placed.map (fun p => (p.decl, p.page))) before
    let t := placed.foldl (fun (u : State) p => u.loadStatic l p.decl p.page) t
    let (n, t) := t.fresh
    let (lat, t) := t.latMost (if i.saved.isSome then 18000 else 8000)
    let g := t.newRegion i l placed n (s.cycle + lat) bytes moved
    let wake : Op := .ev .bankWakeDone { Focus.none with r := g.num }
    let (wlat, t) := t.lat
    { t with
      regions := t.regions.set g.num g
      wheel := match g.wheel with
        | some k => t.wheel.set k g.num
        | none => t.wheel
      items := t.items.filter (fun q => !(q.func == i.func && q.ltag == i.ltag && q.load == i.load))
      left := t.left.filter (fun p => !(pages.contains (p.1 / 1024)))
      chosen := none
      timers := t.timers ++ [(s.cycle + Nat.min 250 wlat, g.num, wake)] }

/-- FABRIC_LOAD_BIND (R78): the chosen item binds, when a placement exists on free pages and, where it declares an RMW
stream, a slot of the wheel is free (R177). A choice follows (DEDUCED, log 27). -/
def execFabricLoadBind (s : State) : Host.Outcome State Fault Refusal :=
  go (match s.chosenItem with
    | none => s
    | some i =>
      match s.launchOf i.func i.ltag, s.placement i s.pageFree with
      | some l, some pages =>
        if s.moving i || (s.needsWheel i && s.freeWheel.isNone) then s else (s.bindItem i l pages).choiceEvent
      | _, _ => s)

/-- BANK_WAKE_DONE (R29, R30): the banks of the region in focus have woken; what waits for them goes on. -/
def execBankWakeDone (s : State) : Host.Outcome State Fault Refusal :=
  let wake : Fabric → Fabric := fun f => { f with elems := f.elems.map (fun (p : Nat × Elem) => (p.1, { p.2 with waking := [] })) }
  go (s.modR (fun g => { g with old := wake g.old, now := wake g.now, ckpt := wake g.ckpt }))

/-! ## BIND_COMPLETE (R90, R92, R102, R254) -/

/-- A row that was saved with REOPEN is held again at once: its lines are cleaned and invalidated at their home slices
(R90, R159). -/
def State.reopenRows (s : State) (r : Nat) : State :=
  s.rows.foldl (fun (t : State) h =>
    if h.r = r ∧ h.st = .saved then
      let lines := (List.range 4).map (fun i => h.pa / 256 + i)
      (t.flushLines (fun l => lines.contains l.ln) true true).modHold h.pa (fun k => { k with st := .held, lines := lines, since := s.cycle })
    else t) s

/-- The engine commands of a signature that are in flight: copies and gathers (R88, R89). -/
def Region.remainders (g : Region) (sg : Nat) : Nat :=
  (g.now.elems.map (fun p => if p.1 / 1024 = sg then
    (p.2.copies.filter (fun c => !c.done)).length + ((p.2.reads.filter (·.gath)).map (fun q => (q.sn, q.seq))).dedup.length
  else 0)).sum

/-- Bytes that a region's save or restore moves, by the figures of R88. -/
def Region.saveBytes (g : Region) : Nat :=
  (List.range g.sigs.length).foldl (fun n sg =>
    let d := (g.sig sg).decl
    if (g.sig sg).passed then n
    else n + 1024 * 16 + 512 * 8 + 16 * d.barriers + 24 * d.streams.length + 192 * (d.elems.filter (fun e => e.dctx.isSome)).length +
      (d.folios.map (fun f => 64 + if f.keep then 4 * (f.n + f.m) else 0)).sum +
      (d.carries.map (fun c => if c.range then c.len else (c.codes.map (fun k => if 0x88 ≤ k then 1024 else if 0x80 ≤ k then 256 else 4)).sum)).sum +
      16 * g.remainders sg) 0

/-- The report of saved state of a signature that cannot be read at resume (R248, R254). -/
def Region.savedFault (g : Region) (sg : Nat) : Flt :=
  { code := 0x71, page := (g.sig sg).page, x := 0xFF, y := 0xFF, sch := 0xFF, stamp := 0xFFFF, win := 0, addr := 0, resumable := false
    counts := false }

/-- The first round of a region that has bound, or the save that a yield request in the meantime asks for: it stands at a round boundary
(R86; DEDUCED, log 85); what it has run up by then is no part of the save (R71, R72). -/
def State.startBound (s : State) (r : Nat) : State :=
  if (s.reg r).yieldReq.isSome then
    let (n, t) := (s.post r).latMost ((s.reg r).saveMost s.cycle)
    t.modReg r (fun g => { g with old := g.now, ckpt := g.now, mode := .saving (s.cycle + n) true })
  else s.beginRound r

/-- BIND_COMPLETE (R102): the bind of the region in focus is complete on every page, and its first round starts. A resumed
region is restored first, and its rows are held again (R90, R92). -/
def execBindComplete (s : State) : Host.Outcome State Fault Refusal :=
  let r := s.focus.r
  let g := s.rg
  if g.saved then
    let t := (s.chargeSave g g.savedOwn 0 g.saveBytes).modR (fun g => { g with saved := false, savedOwn := false })
    match g.savedBad with
    | some sg => go (t.endByFault r (g.savedFault sg) true)
    | none =>
      let t := t.reopenRows r
      let due := fun (f : Fabric) => { f with elems := f.elems.map (fun (p : Nat × Elem) => (p.1, { p.2 with
        streams := p.2.streams.map (fun (q : Nat × Stream) => (q.1, q.2.refetch s.cycle)) })) }
      let u := (t.modR (fun g => { g with
        now := due g.now, commit := g.writeBacks, commitOn := g.writeBacks != [], commitDue := s.cycle, readsTo := 0, writeBacks := [] })).startBound r
      -- a voided round that the yield saved replays with what its first attempt began with (R123)
      go (if g.attempt = 0 then u else u.modReg r (fun n => { n with
        attempt := g.attempt, roundNs := g.roundNs, sigSnap := g.sigSnap, pmFile := g.pmFile, cfgs := g.cfgs }))
  else go (s.startBound r)

/-! ## YIELD_SAVE_DONE (R88 to R91, R224, R245, R367, R388) -/

/-- Whether an element's range lies in a carried range of its. -/
def SigDecl.carriesRange (d : SigDecl) (x y a n : Nat) : Bool :=
  d.carries.any (fun c => c.range && c.x == x && c.y == y && decide (c.off ≤ a) && decide (a + n ≤ c.off + c.len))

/-- A carried register restored into an element at its bind-time values (R89, R245, R283). -/
def Elem.carryCode (d : SigDecl) (x y : Nat) (old e : Elem) (c : Nat) : Elem :=
  if c < 32 then { e with g := e.g.set c (old.g.get 0#32 c) }
  else if c < 64 then { e with k := e.k.set (c - 32) (old.k.get 0#32 (physK old.rot (c - 32))) }
  else if 80 ≤ c ∧ c < 88 then { e with c := e.c.set (c - 80) (old.c.get Counter.zero (c - 80)) }
  else if 97 ≤ c ∧ c < 104 then { e with p := e.p.set (c - 96) (old.p.get false (c - 96)) }
  else if 0x80 ≤ c ∧ c < 0x88 then
    let r := old.st.get Soft.empty (c - 0x80)
    if r.kind = 3 ∧ !(d.carriesRange x y r.haddr (r.hlen * hfSize r.hfmt)) then e
    else { e with st := e.st.set (c - 0x80) r }
  else if 0x88 ≤ c then
    { e with acc := (List.range 256).foldl (fun (t : Tbl Word) i => t.set ((c - 0x88) * 256 + i) (old.acc.get 0#32 ((c - 0x88) * 256 + i))) e.acc }
  else e

/-- What a yield saves of a stream (R89, R339). -/
def Stream.carried (old new : Stream) : Stream :=
  { new with pos := old.pos, stride := old.stride, mark := old.mark, hint := old.hint }

/-- A row of a gather that a yield stopped, issued again (R89). -/
def Read.again (q : Read) : Read := { q with stage := 1, due := 0, after := [], waits := [], bytes := [], bad := none }

/-- A copy that a yield stopped, at the 1 KiB boundary that it had reached (R89, R351). -/
def Copy.again (c : Copy) : Copy := { c with piece := [], bad := [] }

/-- The poison of what an element carries over a yield: of its registers, of its ranges, and of what is saved of its folios (R253). -/
def Elem.carriedMarks (d : SigDecl) (x y : Nat) (old : Elem) : List Nat :=
  let mine := d.carries.filter (fun c => c.x == x && c.y == y)
  let ranges := (mine.filter (·.range)).map (fun c => (c.off, c.len)) ++
    (d.folios.zipIdx.filter (fun p => p.1.hx == x && p.1.hy == y)).map (fun p =>
      (d.folioAt p.2, 64 + if p.1.keep then 4 * (p.1.n + p.1.m) else 0))
  ((mine.filter (fun c => !c.range)).flatMap (·.codes)).flatMap (fun c =>
    if 0x88 ≤ c then ((List.range 256).map (accWord (c - 0x88))).filter old.poison.contains
    else if old.poison.contains (regWord (if 32 ≤ c ∧ c < 64 then 32 + physK old.rot (c - 32) else c)) then [regWord c] else []) ++
  old.poison.filter (fun w => ranges.any (fun r => decide (r.1 ≤ w) && decide (w < r.1 + r.2)))

/-- An element as a resumed region finds it. -/
def Elem.carried (d : SigDecl) (x y : Nat) (old new : Elem) : Elem :=
  let mine := d.carries.filter (fun c => c.x == x && c.y == y)
  let e := (mine.filter (fun c => !c.range)).foldl (fun (e : Elem) c => c.codes.foldl (fun (e : Elem) k => Elem.carryCode d x y old e k) e) new
  let e := (mine.filter (·.range)).foldl (fun (e : Elem) c => { e with sram := e.sram.writeN c.off (old.sram.readN c.off c.len) }) e
  { e with
    gs0 := old.gs0, gs1 := old.gs1, gs2 := old.gs2, gs3 := old.gs3, claimed := old.claimed, dc := old.dc, pha := old.pha
    poison := Elem.carriedMarks d x y old
    copies := old.copies.map Copy.again, waited := old.waited
    reads := (old.reads.filter (·.gath)).map Read.again
    streams := e.streams.map (fun (q : Nat × Stream) => (q.1, (old.streams.get q.2 q.1).carried q.2)) }

/-- The arrays of the folios of an element that KEEP spills and reloads; DROP's read zero (R91, R224). A spill has a place of its own in the
tenant's folio area: the layer's slot keeps its last write-back (R54, R93, R216; DEDUCED, log 86). -/
def SigDecl.keepArrays (d : SigDecl) (x y : Nat) (old : Elem) (m : Memory) : Memory :=
  (d.folios.zipIdx).foldl (fun (m : Memory) (p : FolioDecl × Nat) =>
    if p.1.hx = x ∧ p.1.hy = y then
      let a := d.folioAt p.2 + 64
      let n := 4 * (p.1.n + p.1.m)
      if p.1.keep then m.writeN a (old.sram.readN a n) else if d.carriesRange x y a n then m else m.clear a n
    else m) m

/-- A folio's control fields over a yield (R224). -/
def Folio.carried (d : FolioDecl) (k : Folio) : Folio :=
  if d.keep then k else { k with valid := false, kill := k.kill || k.ph != 0 }

/-- A span over a yield: the schedule in force is kept, and an idle span stays idle (R89). -/
def Span.carried (p : Span) : Span :=
  { Span.fresh (match p.run with | .idle => .idle | _ => .waiting false) with sched := p.sched }

/-- The fabric that a resumed region finds. -/
def Region.savedFabric (g : Region) (bind : Fabric) : Fabric :=
  let f := g.now
  { bind with
    elems := bind.elems.map (fun (p : Nat × Elem) =>
      let d := (g.sig (p.1 / 1024)).decl
      let x := p.1 % 32
      let y := p.1 / 32 % 32
      let old := f.elems.get p.2 p.1
      let e := Elem.carried d x y old p.2
      (p.1, { e with sram := d.keepArrays x y old e.sram }))
    spans := bind.spans.map (fun (p : Nat × Span) => (p.1, (f.spans.get p.2 p.1).carried))
    folios := bind.folios.map (fun (p : Nat × Folio) =>
      (p.1, ((f.folios.get p.2 p.1).carried (((g.sig (p.1 / 4)).decl.folios[p.1 % 4]?).getD FolioDecl.none))))
    bars := f.bars
    adders := f.adders }

/-- The rows of a region at a yield, by their dispositions (R90). -/
def State.saveRows (s : State) (r : Nat) : State :=
  { s with rows := s.rows.filterMap (fun h =>
      if h.r = r ∧ h.st ≠ .saved then (if h.reopen then some { h with st := .saved, lines := [] } else none) else some h) }

/-- The region as it is saved. -/
def State.savedRegion (s : State) (g : Region) (l : Launch) : Region :=
  let f := g.savedFabric (s.bindFabric g.func l g.sigs)
  { g with
    old := f, now := f, ckpt := f, yieldReq := none, savedOwn := g.yieldOwn, yieldOwn := false, wheel := none, counts := [], staging := [], commit := [], brk := none
    mode := match g.fid with | some i => .halted i | none => .running }

/-- A saving region whose pages are given back, after what has landed since its boundary is posted (R71) and folded (R263); with a launch that
goes on it becomes a ready item (R88, R92, R93). -/
def State.finishSave (s : State) (r : Nat) : State :=
  let g := s.reg r
  let t := ((s.foldRound r).post r).chargeSave g g.yieldOwn 0 g.saveBytes
  let t := t.saveRows r
  let kept := t.rows.filter (fun h => h.r == r)
  match g.stopReq, s.launchOf g.func g.ltag with
  | none, some l =>
    let saved := t.savedRegion g l
    let u := t.dropRegion r
    { u with rows := u.rows ++ kept
             items := u.items ++ [{ func := g.func, ltag := g.ltag, aseq := g.aseq, load := g.load, prio := g.prio, rel := g.rel
                                    saved := some saved }] }
  | _, _ => t.dropRegion r

/-- YIELD_SAVE_DONE (R88): the region in focus is halted and saved. A HALT taken meanwhile ends it at its first boundary after it resumes
(R420). A row that is suspended is held again first (R163). -/
def execYieldSaveDone (s : State) : Host.Outcome State Fault Refusal :=
  let g := s.rg
  if g.commitOn || s.suspends s.focus.r then go s
  else
    let t := s.finishSave s.focus.r
    go ((t.creditClear g.func).choiceAfter (t.newPrio s))

end Sys2Proof.Machine
end

