-- ==== Sys2Proof/Machine/Nmp.lean ====
section
/-! DEFINITION. The message layer: acceptance, acknowledgement, sending, snapshots, and recovery (R37 to R44, R48, R56 to
R58). -/

namespace Sys2Proof.Machine

open Sys2Proof

/-! ## Sequence numbers (R38) -/

/-- How far sequence number b lies above a, modulo 2^32. -/
def seqDist (a b : Word) : Nat := (b - a).toNat

/-- What a host SEQ is to the last one accepted (R38). -/
inductive SeqCase where
  | accept
  | duplicate
  | outOfSequence
  | beyond
  deriving DecidableEq, Repr

/-- The case of a host SEQ. -/
def seqCase (hacc seq : Word) : SeqCase :=
  let d := seqDist hacc seq
  if d = 1 then .accept
  else if d = 0 ∨ 2 ^ 32 - 255 ≤ d then .duplicate
  else if d ≤ 256 then .outOfSequence
  else .beyond

/-- An acknowledgement of device messages up to v, which acts when it advances the last one and does not pass what was
issued (R38, R56): kept messages and completed-request records that it covers go (R57). -/
def State.acknowledge (s : State) (v : Word) : State :=
  let n := s.nmp
  let d := seqDist n.dack v
  if d = 0 ∨ seqDist n.dack n.diss < d then s
  else { s with nmp := { n with
    dack := v
    kept := n.kept.filter (fun p => decide (d < seqDist n.dack (BitVec.ofNat 32 p.1)))
    fin := n.fin.filter (fun f => match f.seq with
      | some q => decide (d < seqDist n.dack (BitVec.ofNat 32 q))
      | none => true) } }

/-! ## Taking up a host message (R42 to R44) -/

/-- Whether a management command is under way for a function (R43). -/
def Mgmt.holds (func : Nat) : Mgmt → Bool
  | .imageLoad f _ _ _ _ => f == func
  | .fwStage _ _ _ => func == 0
  | .fwActivate _ _ _ => func == 0
  | .calRun _ _ _ => func == 0
  | .retire _ _ _ _ _ _ => func == 0

/-- The function of a host message. -/
def msgFunc (i : Instr) : Nat := ((i.msgBody.map (fun b => b.1.func.toNat)).getD 64)

/-- The classes and ways of budgets whose ACKs are still to be sent. -/
def Nmp.budgets (n : Nmp) : List Budget := n.queue.filterMap (·.eff)

/-- A class and ways govern the fills from now on (R433). -/
def State.govern (s : State) (b : Budget) : State := s.modTenant b.func (fun t => { t with cls := b.cls, ways := b.ways })

/-- Whether a message of a function waits for the effects of earlier ones: a command of it is under way, a tenant is being
destroyed for function 0, an earlier message of any function waits, or the ACK of a budget is still to be sent (R43, R433) (DEDUCED,
log 6). -/
def State.holdsBack (s : State) (func : Nat) : Bool :=
  s.mgmt.any (Mgmt.holds func) || (func == 0 && s.tenants.any (fun p => p.2.dying.isSome)) ||
  s.nmp.waiting != [] || s.nmp.budgets != []

/-- Whether a function is a tenant that can send: it exists and is not being destroyed (R36, R55). -/
def State.sends (s : State) (func : Nat) : Bool :=
  match s.tenant func with
  | some t => t.dying.isNone
  | none => false

/-- The status of a message: malformed, then a management kind from another function, then no tenant, then the checks of its
kind (R44, R55). -/
def State.msgStatus (s : State) (h : MsgHdr) (mgmt bad : Bool) (check : Nat) : Nat :=
  if h.bad || bad then 0x01
  else if mgmt && h.func != 0#6 then 0x02
  else if !(s.sends h.func.toNat) then 0x03
  else check

/-- A message taken up: its one ACK, and, with status 0, its effect (R42). -/
def State.takeUp (s : State) (h : MsgHdr) (kind : Nat) (mgmt bad : Bool) (check : Nat) (eff : State → State) : State :=
  let st := s.msgStatus h mgmt bad check
  let t := s.ack h kind st
  if st = 0 then eff t else t

/-- The state after a host message has been accepted for sequencing (R38, R39). -/
def State.accept (s : State) (h : MsgHdr) : State :=
  ({ s with nmp := { s.nmp with hacc := h.seq } }).acknowledge h.ackn

/-- The state in which an arriving message, or one that has waited, is taken up. -/
def State.atTake (s : State) (h : MsgHdr) : State := if s.focus.n = 1 then s else s.accept h

/-- A host message arrives, or, with number 1 in focus, one that waited is taken up. A viral or held part and one in a
recovery hold discard what arrives (R24, R34, R58). -/
def State.receive (s : State) (i : Instr) (h : MsgHdr) (kind : Nat) (mgmt bad : Bool) (check : Nat) (eff : State → State) :
    State :=
  if s.focus.n = 1 then s.takeUp h kind mgmt bad check eff
  else if s.viral || s.held || s.nmp.held then s
  else match seqCase s.nmp.hacc h.seq with
    | .duplicate => s
    | .outOfSequence => { s with nmp := { s.nmp with errSeq := true } }
    | .beyond => { s with nmp := { s.nmp with errWin := true } }
    | .accept =>
      let t := s.accept h
      if t.holdsBack h.func.toNat then { t with nmp := { t.nmp with waiting := t.nmp.waiting ++ [i] } }
      else t.takeUp h kind mgmt bad check eff

/-- UNKNOWN_KIND (R44): accepted for sequencing, and refused. -/
def execUnknownKind (h : MsgHdr) (kind : Byte) (s : State) : Host.Outcome State Fault Refusal :=
  go (s.receive (.unknownKind h kind) h kind.toNat false true 0 (fun t => t))

/-! ## Snapshots (R48) -/

/-- A record with its kind and units. -/
structure Rec where
  kind : Nat
  units : Nat
  bytes : List Byte
  deriving DecidableEq, Repr

/-- The bytes of a list, filled with zeros to n. -/
def padTo (n : Nat) (l : List Byte) : List Byte := sliceBytes l 0 n

/-- Regions of a launch, bound. -/
def State.boundOf (s : State) (func : Nat) (tag : Word) : List Region :=
  s.regions.vals.filter (fun g => g.func == func && g.ltag == tag)

/-- Held rows counted against a tenant's ROWS (R84). -/
def State.rowsOf (s : State) (func : Nat) : Nat := (s.rows.filter (fun h => h.func == func)).length

/-- The tenant record. -/
def State.tenantRec (s : State) (f : Nat) (t : Tenant) : Rec :=
  { kind := 0, units := 1
    bytes := leBytes 1 f ++ leBytes 1 t.cls ++ leBytes 2 t.ways ++ leBytes 1 t.pages ++ leBytes 1 t.prio ++ leBytes 2 t.keys ++
      leBytes 4 t.rows ++ leBytes 4 t.quant ++ leBytes 4 t.rate ++ leBytes 8 (BitVec.ofInt 64 t.deficit).toNat ++
      leBytes 1 (s.heldPages f) ++ leBytes 1 (t.queue.filter (·.active)).length ++
      leBytes 2 (t.queue.filter (fun l => !l.active)).length ++ leBytes 4 (s.rowsOf f) ++ leBytes 4 t.nfid }

/-- Bits as a byte, the first bit 0. -/
def maskOf (l : List Bool) : Nat := l.foldr (fun b n => 2 * n + (if b then 1 else 0)) 0

/-- The STATE byte of a launch record. -/
def State.launchState (s : State) (l : Launch) : Nat :=
  let regs := s.boundOf l.func l.tag
  let its := s.items.filter (fun i => i.func == l.func && i.ltag == l.tag)
  let stopped : Region → Bool := fun g => match g.mode with | .halted _ => true | _ => false
  maskOf [!l.active, regs.length != 0, its.any (fun i => i.saved.isNone), its.any (fun i => i.saved.isSome),
    regs.any stopped || its.any Ready.halted, regs.any (fun g => g.brk.isSome)]

/-- The launch record. -/
def State.launchRec (s : State) (l : Launch) : Rec :=
  let pages := (s.boundOf l.func l.tag).flatMap (fun g => (g.sigs.filter (fun q => !q.passed)).map (·.page))
  let ufid := ((s.nmp.flts.find? (fun q => q.func == l.func && q.ltag == l.tag)).map (·.fid)).getD 0
  { kind := 1, units := 2
    bytes := padTo 40 (leBytes 1 l.func ++ leBytes 1 (s.launchState l) ++ leBytes 1 l.prio ++ leBytes 1 l.slot ++
        leBytes 4 l.host.toNat ++ leBytes 4 l.aseq ++ leBytes 2 l.graph ++ leBytes 1 l.set ++ leBytes 1 0 ++ leBytes 8 l.pcyc ++
        leBytes 8 l.bytes ++ leBytes 2 l.passed.length ++ leBytes 2 l.released.length) ++
      (List.range 16).map (fun b => BitVec.ofNat 8 (maskOf ((List.range 8).map (fun k => pages.contains (8 * b + k))))) ++
      leBytes 4 ufid }

/-- The unresolved-fault record. -/
def State.faultRec (s : State) (q : FltRec) : Rec :=
  { kind := 2, units := 1
    bytes := leBytes 1 q.func ++ leBytes 1 q.flt.code ++ leBytes 2 q.flt.page ++ leBytes 4 (s.hostTag q.func q.ltag).toNat ++
      leBytes 4 q.fid ++ leBytes 1 q.flt.x ++ leBytes 1 q.flt.y ++ leBytes 1 q.flt.sch ++ leBytes 1 0 ++ leBytes 2 q.flt.stamp ++
      leBytes 2 q.flt.win ++ leBytes 4 0 ++ leBytes 8 q.flt.addr }

/-- The completed-request record. -/
def finRec (f : FinRec) : Rec :=
  { kind := 3, units := 1
    bytes := leBytes 1 f.func ++ leBytes 1 f.status ++ leBytes 1 f.kind ++ leBytes 1 (if f.flt then 1 else 0) ++
      leBytes 4 f.rtag.toNat ++ leBytes 1 f.fcode ++ leBytes 3 0 ++ leBytes 4 f.ffid ++ leBytes 8 f.pcyc ++ leBytes 8 f.bytes }

/-- The records of some tenants: the tenants, their launches, and their unresolved faults, by FID; two of equal FID, which are two
tenants' own, in the order in which they were raised (R48 does not say; DESIGN CHOICE, log 105). -/
def State.tenantRecs (s : State) (fs : List Nat) : List Rec :=
  fs.filterMap (fun f => (s.tenant f).map (s.tenantRec f)) ++
  fs.flatMap (fun f => match s.tenant f with
    | some t => (sortBy (fun (a b : Launch) => decide (s.seqAge b.aseq < s.seqAge a.aseq)) t.queue).map s.launchRec
    | none => []) ++
  (sortBy (fun (a b : FltRec) => decide (a.fid < b.fid)) (s.nmp.flts.filter (fun q => fs.contains q.func))).map s.faultRec

/-- Every tenant, ascending. -/
def State.tenantNos (s : State) : List Nat := sortBy (fun (a b : Nat) => decide (a < b)) (s.tenants.map Prod.fst)

/-- A full snapshot: every tenant and everything of theirs, and the completed requests. -/
def State.fullRecs (s : State) : List Rec := s.tenantRecs s.tenantNos ++ s.nmp.fin.map finRec

/-- The messages of a SNAPSHOT sequence. -/
def snapMsgs (func : Nat) (rtag : Word) (recs : List Rec) : List DMsg :=
  recs.zipIdx.map (fun p => { kind := 0x85, func := func, tag := 0#32, units := p.1.units
                              payload := leBytes 2 p.2 ++ leBytes 1 (if p.2 + 1 = recs.length then 1 else 0) ++ leBytes 1 p.1.kind ++
                                leBytes 4 rtag.toNat ++ p.1.bytes })

/-- The launch of a function that the host names by TAG: of equal TAGs the one accepted first (DEDUCED, log 31). -/
def State.namedLaunch (s : State) (func : Nat) (host : Word) : Option Launch :=
  match s.tenant func with
  | some t => (sortBy (fun (a b : Launch) => decide (s.seqAge b.aseq < s.seqAge a.aseq)) (t.queue.filter (fun l => l.host == host))).head?
  | none => none

/-- The completed-request record of a launch that the host names by TAG. -/
def State.namedFin (s : State) (func : Nat) (host : Word) : Option FinRec :=
  s.nmp.fin.find? (fun f => f.func == func && f.kind == 0x06 && f.rtag == host)

/-- The records that a QUERY asks for. -/
def State.queryRecs (s : State) (func qs : Nat) (host : Word) : List Rec :=
  if qs = 0 then
    (match s.namedLaunch func host with
    | some l => s.launchRec l :: (s.nmp.flts.filter (fun q => q.func == func && q.ltag == l.tag)).map s.faultRec
    | none => ((s.namedFin func host).map finRec).toList)
  else if qs = 2 ∧ func = 0 then s.fullRecs
  else s.tenantRecs [func]

/-- QUERY (R45, R48). A launch that has ended is known until its COMPLETE is acknowledged, by the QUERY itself too (R41, R48). -/
def execQuery (h : MsgHdr) (sel : Byte) (ltag : Word) (s : State) : Host.Outcome State Fault Refusal :=
  let f := h.func.toNat
  go (s.receive (.query h sel ltag) h 0x09 false (decide (2 < sel.toNat))
    (if sel = 0#8 ∧ (s.atTake h).queryRecs f 0 ltag = [] then 0x03 else 0)
    (fun t => (snapMsgs f h.tag (t.queryRecs f sel.toNat ltag)).foldl State.send t))

/-! ## Sending (R40, R41) -/

/-- The bytes of a device message (R37, R39, R46). -/
def State.wire (s : State) (seq : Word) (m : DMsg) : List Byte :=
  msgBytes { seq := seq, func := BitVec.ofNat 6 m.func, ackn := s.nmp.hacc, tag := m.tag, bad := false } m.kind m.units m.payload

/-- The first completed-request record without a SEQ takes that of its COMPLETE. -/
def stampFin (seq : Nat) : List FinRec → List FinRec
  | [] => []
  | f :: t => if f.seq.isNone then { f with seq := some seq } :: t else f :: stampFin seq t

/-- A message sent under the next SEQ and kept for resend (DESIGN CHOICE, log 9); what its ACK lets govern does from now on (R433). -/
def State.issue (s : State) (m : DMsg) : State :=
  let q := s.nmp.diss + 1#32
  let s := m.eff.elim s s.govern
  { s with nmp := { s.nmp with
      diss := q
      kept := s.nmp.kept ++ [(q.toNat, m)]
      fin := if m.kind = 0x81 then stampFin q.toNat s.nmp.fin else s.nmp.fin
      out := s.nmp.out ++ [s.wire q m] } }

/-- Whether a device message can go out now: none goes in a hold; a message to be sent again goes first; a new one needs room
in the window (DESIGN CHOICE, log 5). -/
def State.canSend (s : State) : Bool :=
  !s.viral && !s.nmp.held &&
  (s.nmp.resending != [] || (!s.nmp.resend && s.nmp.queue != [] && decide (seqDist s.nmp.dack s.nmp.diss < 256)))

/-- DEVICE_MESSAGE_SEND (R40, R41): the next message that is sent again, else the head of the queue when the window has
room. -/
def execDeviceMessageSend (s : State) : Host.Outcome State Fault Refusal :=
  go (if !s.canSend then s
  else match s.nmp.resending, s.nmp.queue with
    | (q, m) :: rest, _ => { s with nmp := { s.nmp with
        resending := rest, resend := rest != [], out := s.nmp.out ++ [s.wire (BitVec.ofNat 32 q) m] } }
    | [], m :: rest => ({ s with nmp := { s.nmp with queue := rest } }).issue m
    | [], [] => s)

/-! ## The sideband's NMP registers (R41, R56 to R58) -/

/-- NMPDACK_WRITE (R56). -/
def execNmpdackWrite (v : Word) (s : State) : Host.Outcome State Fault Refusal := go (s.acknowledge v)

/-- NMPERR_CLEAR (R56): bits 17 and 16 clear on a written 1, the count on 0xFFFF. -/
def execNmperrClear (v : Word) (s : State) : Host.Outcome State Fault Refusal :=
  go { s with nmp := { s.nmp with
    errSeq := s.nmp.errSeq && !(bitAt v 17), errWin := s.nmp.errWin && !(bitAt v 16)
    errCount := if bitsOf v 15 0 = 0xFFFF then 0 else s.nmp.errCount } }

/-- NMPCTL_HOLD_SET (R57). -/
def execNmpctlHoldSet (s : State) : Host.Outcome State Fault Refusal := go { s with nmp := { s.nmp with hold := true } }

/-- HOLD_ESTABLISHED (R57, R58): no message is partly sent or received, so HELD reads 1 from now on. -/
def execHoldEstablished (s : State) : Host.Outcome State Fault Refusal :=
  go (if s.nmp.hold then { s with nmp := { s.nmp with held := true } } else s)

/-- The snapshot that a RESYNC has prepared goes ahead of what is queued; the completed requests that it lists last until the
host acknowledges it (R57, DEDUCED, log 32). -/
def State.sendSnapshot (s : State) : State :=
  if s.viral then { s with nmp := { s.nmp with snap := false, prep := [] } }
  else
    let last := (s.nmp.diss + BitVec.ofNat 32 s.nmp.prep.length).toNat
    { s with nmp := { s.nmp with
        snap := false, prep := [], queue := s.nmp.prep ++ s.nmp.queue
        fin := s.nmp.fin.map (fun f => if f.seq.isSome then { f with seq := some last } else f) } }

/-- What is left of a FAULT that ended a launch which has not completed: no record names it yet (R57). -/
def State.faultLeft (s : State) (m : DMsg) : Option FltRec :=
  let n : Nat → Nat → Nat := fun at_ len => leNat (sliceBytes m.payload at_ len)
  if m.kind ≠ 0x82 ∨ n 1 1 ≠ 0 ∨ s.nmp.flts.any (fun q => q.func == m.func && q.fid == n 8 4) then none
  else ((s.tenant m.func).bind (fun t => t.queue.find? (fun l => l.flt == some (n 0 1, n 8 4)))).map (fun l =>
    { func := m.func, ltag := l.tag, fid := n 8 4
      flt := { code := n 0 1, page := n 2 2, x := n 12 1, y := n 13 1, sch := n 14 1, stamp := n 16 2, win := n 18 2
               addr := n 24 8, resumable := false, counts := false } })

/-- NMPCTL_RESYNC (R57): COMPLETEs and FAULTs that are kept or queued live on as records, EVENTs are counted, the resend store
and the queue are emptied, and the full snapshot is prepared; what ACKs in the queue would let govern does. With no hold set it goes at
once (DEDUCED, log 33). -/
def execNmpctlResync (s : State) : Host.Outcome State Fault Refusal :=
  let n := s.nmp
  let msgs : List DMsg := n.kept.map Prod.snd ++ n.queue
  let t : State := { n.budgets.foldl State.govern s with nmp := { n with
    dack := n.diss, kept := [], queue := [], resend := false, resending := [], snap := true
    errCount := Nat.min 65535 (n.errCount + (msgs.filter (fun m => m.kind == 0x83)).length)
    flts := n.flts ++ msgs.filterMap s.faultLeft
    fin := n.fin.map (fun (f : FinRec) => { f with seq := some (f.seq.getD n.diss.toNat) }) } }
  let t := { t with nmp := { t.nmp with prep := snapMsgs 0 0#32 t.fullRecs } }
  go (if n.hold then t else t.sendSnapshot)

/-- NMPCTL_HOLD_RELEASE (R57): messages are accepted again, and a prepared snapshot goes out. -/
def execNmpctlHoldRelease (s : State) : Host.Outcome State Fault Refusal :=
  let t := { s with nmp := { s.nmp with hold := false, held := false } }
  go (if t.nmp.snap then t.sendSnapshot else t)

/-- NMPCTL_RESEND (R41): ignored in a hold and while a resend or a snapshot is under way. -/
def execNmpctlResend (s : State) : Host.Outcome State Fault Refusal :=
  let n := s.nmp
  go (if n.hold || n.resend || n.resending != [] || n.snap || n.queue.any (fun m => m.kind == 0x85) then s
  else { s with nmp := { n with resend := true } })

/-- RESEND_START (R41): every kept message above NMPDACK is sent again, in order. -/
def execResendStart (s : State) : Host.Outcome State Fault Refusal :=
  let n := s.nmp
  go (if n.resend && n.resending == [] then
    { s with nmp := { n with resend := n.kept != [], resending := n.kept } } else s)

/-- REGISTER_WRITE_IGNORED (R32): a write to a read-only register or to a field that is not there has no effect. -/
def execRegisterWriteIgnored (_off _v : Word) (s : State) : Host.Outcome State Fault Refusal := go s

end Sys2Proof.Machine
end

