-- ==== Sys2Proof/Machine/HostMsg.lean ====
section
/-! DEFINITION. The messages of tenants, images, endpoints and launches (R36, R45, R49 to R55, R162, R214, R238). -/

namespace Sys2Proof.Machine

open Sys2Proof

/-! ## Tenants (R36, R45) -/

/-- Budget fields outside their ranges. -/
def budgetBad (cls : Byte) (ways : BitVec 16) (pages prio : Byte) (rows quant : Word) : Bool :=
  decide (1 < cls.toNat) || ways == 0#16 || decide (pages.toNat < 1) || decide (128 < pages.toNat) || decide (7 < prio.toNat) ||
  decide (65536 < rows.toNat) || quant == 0#32

/-- A tenant's budget fields set, but for those of the cache; its account stays (R73). -/
def Tenant.allot (t : Tenant) (pages prio : Byte) (keys : BitVec 16) (rows quant rate : Word) : Tenant :=
  { t with pages := pages.toNat, prio := prio.toNat, keys := keys.toNat, rows := rows.toNat, quant := quant.toNat, rate := rate.toNat }

/-- A tenant's budget fields set. -/
def Tenant.budget (t : Tenant) (cls : Byte) (ways : BitVec 16) (pages prio : Byte) (keys : BitVec 16) (rows quant rate : Word) :
    Tenant :=
  { t.allot pages prio keys rows quant rate with cls := cls.toNat, ways := ways.toNat }

/-- The ACK queued last carries a class and ways, which govern from the cycle in which it is sent (R433). -/
def State.ackBudget (s : State) (b : Budget) : State :=
  { s with nmp := { s.nmp with queue := s.nmp.queue.zipIdx.map (fun q =>
      if q.2 + 1 = s.nmp.queue.length then { q.1 with eff := some b } else q.1) } }

/-- TENANT_CREATE (R45). -/
def execTenantCreate (h : MsgHdr) (tgt cls : Byte) (ways : BitVec 16) (pages prio : Byte) (keys : BitVec 16)
    (rows quant rate : Word) (s : State) : Host.Outcome State Fault Refusal :=
  let bad := budgetBad cls ways pages prio rows quant || decide (tgt.toNat < 1) || decide (63 < tgt.toNat)
  go (s.receive (.tenantCreate h tgt cls ways pages prio keys rows quant rate) h 0x01 true bad
    (if (s.tenant tgt.toNat).isSome then 0x05 else 0)
    (fun t => { t with tenants := t.tenants.set tgt.toNat (Tenant.zero.budget cls ways pages prio keys rows quant rate) }))

/-- What a TENANT.BUDGET of function 0 may not change (R36). -/
def zeroBudget (cls : Byte) (ways : BitVec 16) (pages prio : Byte) (keys : BitVec 16) (rows : Word) : Bool :=
  cls == 0#8 && ways == 0xFFFF#16 && pages == 128#8 && prio == 7#8 && keys == 0xFFFF#16 && rows == 65536#32

/-- TENANT_BUDGET (R36, R45, R75): the fields are set, WAYS and CLASS with the ACK (R433), and a choice replaces the chosen item. -/
def execTenantBudget (h : MsgHdr) (tgt cls : Byte) (ways : BitVec 16) (pages prio : Byte) (keys : BitVec 16)
    (rows quant rate : Word) (s : State) : Host.Outcome State Fault Refusal :=
  let bad := budgetBad cls ways pages prio rows quant || decide (63 < tgt.toNat) ||
    (tgt == 0#8 && !(zeroBudget cls ways pages prio keys rows))
  go (s.receive (.tenantBudget h tgt cls ways pages prio keys rows quant rate) h 0x02 true bad
    (if s.sends tgt.toNat then 0 else 0x03)
    (fun t =>
      let u := ((t.ackBudget { func := tgt.toNat, cls := cls.toNat, ways := ways.toNat }).modTenant tgt.toNat (fun x =>
        x.allot pages prio keys rows quant rate)).choose
      u.askYields u.chosenItem))

/-! ## Cancelling (R54) -/

/-- A launch cancelled: one that is queued leaves at once; an active one stops at its round boundary. -/
def State.cancelLaunch (s : State) (l : Launch) : State :=
  if l.active then s.endLaunch l.func l.tag 0x06
  else
    ((s.modTenant l.func (fun t => { t with queue := t.queue.filter (fun q => !(q.tag == l.tag)) })).complete l.func 0x06 0x06
      l.host l.pcyc l.bytes l.flt).creditClear l.func

/-- Every launch of a function cancelled, in SEQ order. -/
def State.cancelAll (s : State) (func : Nat) : State :=
  match s.tenant func with
  | none => s
  | some t => (sortBy (fun (a b : Launch) => decide (s.seqAge b.aseq < s.seqAge a.aseq)) t.queue).foldl State.cancelLaunch s

/-- CANCEL (R54). -/
def execCancel (h : MsgHdr) (scope : Byte) (ltag : Word) (s : State) : Host.Outcome State Fault Refusal :=
  let f := h.func.toNat
  go (s.receive (.cancel h scope ltag) h 0x08 false (decide (1 < scope.toNat))
    (if scope = 0#8 ∧ (s.namedLaunch f ltag).isNone then 0x03 else 0)
    (fun t => if scope = 0#8 then
        (match t.namedLaunch f ltag with
        | some l => t.cancelLaunch l
        | none => t)
      else t.cancelAll f))

/-! ## Destroying a tenant (R55) -/

/-- TENANT_DESTROY (R55): every launch is cancelled; from the ACK on the function's messages are refused. -/
def execTenantDestroy (h : MsgHdr) (tgt : Byte) (s : State) : Host.Outcome State Fault Refusal :=
  let f := tgt.toNat
  go (s.receive (.tenantDestroy h tgt) h 0x03 true (decide (f < 1) || decide (63 < f)) (if s.sends f then 0 else 0x03)
    (fun t => (t.modTenant f (fun x => { x with dying := some h.tag })).cancelAll f))

/-- Whether a tenant that is being destroyed has no launch left and no image on its way. -/
def State.destroyReady (s : State) (func : Nat) : Bool :=
  match s.tenant func with
  | some t => t.dying.isSome && t.queue == [] && !(s.regions.any (fun p => p.2.func == func)) &&
      !(s.mgmt.any (fun m => match m with | .imageLoad f _ _ _ _ => f == func | _ => false))
  | none => false

/-- Everything of a tenant that its end frees: rows, buffers, L2 lines, range entries, nested TLB entries, counts, cached
vocabulary lines and faults. -/
def State.freeTenant (s : State) (func : Nat) : State :=
  let t := { s with rows := s.rows.filter (fun r => r.func != func) }
  let t := (t.bufs.map Prod.fst).foldl (fun (u : State) n => if (u.bufs.find n).any (fun b => b.func == func) then u.dropBuf n else u) t
  let t := t.flushLines (fun l => l.owner == func) true true
  { t with
    ranges := t.ranges.filter (fun p => p.2.owner != func)
    ntlb := t.ntlb.map (fun (p : Nat × List NTlb) => (p.1, p.2.filter (fun e => e.func != func)))
    slices := t.slices.filter (fun p => p.1 % 64 != func)
    vcache := t.vcache.filter (fun v => v.func != func)
    nmp := { t.nmp with flts := t.nmp.flts.filter (fun q => q.func != func) }
    tenants := t.tenants.del func }

/-- TENANT_DESTROY_DONE (R55): what the tenant held is freed, and the destroy's COMPLETE follows those of its launches. -/
def execTenantDestroyDone (func : Nat) (s : State) : Host.Outcome State Fault Refusal :=
  go (if s.destroyReady func then
    match (s.tenant func).bind (·.dying) with
    | some tag => (s.freeTenant func).complete 0 0x03 0 tag 0 0 none
    | none => s
  else s)

/-! ## Images (R49, R214) -/

/-- Whether a launch of a slot is queued or running. -/
def State.slotBusy (s : State) (func slot : Nat) : Bool :=
  match s.tenant func with
  | some t => t.queue.any (fun l => l.slot == slot)
  | none => false

/-- IMAGE_LOAD (R49): the pull starts. -/
def execImageLoad (h : MsgHdr) (slot : Byte) (haddr : BitVec 64) (len : Word) (s : State) : Host.Outcome State Fault Refusal :=
  let f := h.func.toNat
  go (s.receive (.imageLoad h slot haddr len) h 0x04 false
    (haddr.toNat % 4096 != 0 || decide (len.toNat < 4096) || decide (2 ^ 30 < len.toNat))
    (if s.slotBusy f slot.toNat then 0x05 else 0)
    (fun t =>
      let (n, t) := t.lat
      { t with mgmt := t.mgmt ++ [.imageLoad f slot.toNat h.tag haddr.toNat len.toNat]
               timers := t.timers ++ [(t.cycle + n, 0, .ev (.imageLoadDone f slot.toNat true) Focus.none)] }))

/-- The layer ids that an image names. -/
def Image.layers (i : Image) : List Nat := (i.sigs.flatMap SigDecl.layers).dedup

/-- The folio declaration of a layer: where two signatures of an image declare one layer with different fields, the first (DESIGN CHOICE,
log 74). -/
def Image.folioOf (i : Image) (layer : Nat) : FolioDecl :=
  ((i.sigs.flatMap (·.folios)).find? (fun f => f.layer == layer)).getD FolioDecl.none

/-- A slot emptied: its buffers, bindings, layer ids and folio slots go. -/
def State.emptySlot (s : State) (func slot : Nat) : State :=
  match (s.tenant func).bind (fun t => t.images.find slot) with
  | none => s.modTenant func (fun t => { t with binds := t.binds.filter (fun b => b.1 != slot) })
  | some im => (im.bufs.foldl State.dropBuf s).modTenant func (fun t => { t with
      images := t.images.del slot
      binds := t.binds.filter (fun b => b.1 != slot)
      folios := t.folios.filter (fun q => q.slot != slot) })

/-- The image key of a number: those of the activated bundle, or of the boot bundle (R65). -/
def State.imageKey (s : State) (k : Nat) : List Byte :=
  match s.bootKeys with
  | some l => (l[k]?).getD []
  | none => Config.bootImageKey k

/-- Whether a folio's weight range lies in a declared buffer. -/
def Image.folioInside (i : Image) (f : FolioDecl) : Bool :=
  match i.bufs[f.buf]? with
  | some b => decide (f.off + f.ext ≤ b.size)
  | .none => false

/-- Whether a tenant may load an image: the status of the checks of its layers. -/
def Tenant.layerStatus (t : Tenant) (i : Image) : Nat :=
  if !(i.sigs.all (fun g => g.folios.all i.folioInside)) || t.folios.any (fun q => i.layers.contains q.layer) then 0x11
  else if 64 < t.folios.length + i.layers.length then 0x04
  else 0

/-- The folio slots of a loaded image (R214, R217): new, invalid, at committed version 1; none where the folio area finds no room.
All else in a new slot, its ranges and its other control fields, is 0 (DESIGN CHOICE, log 111). -/
def State.newFolios (s : State) (func slot : Nat) (i : Image) (bufs : List Nat) : Option State :=
  i.layers.foldl (fun (acc : Option State) y => acc.bind (fun t =>
    let f := i.folioOf y
    let len := alignUp f.bytes 4096
    (t.areaRoom len).map (fun a => (t.markSectors a len []).modTenant func (fun x => { x with folios := x.folios ++ [
      { layer := y, slot := slot, pa := a, len := len, va := (((bufs[f.buf]?).bind s.bufs.find).map (·.va)).getD 0 + f.off, ext := f.ext
        version := 1#32, ctl := Folio.zero, xp := [], yp := [] }] })))) (some s)

/-- An image of sound structure and signature put into a slot, or the status that refuses it. -/
def State.placeImage (s : State) (func slot : Nat) (i : Image) : Except Nat State :=
  match s.tenant func with
  | none => .error 0x03
  | some t =>
    let st := t.layerStatus i
    if st ≠ 0 then .error st
    else match s.loadBufs func i.datas i.bufs.zipIdx with
      | .error e => .error e
      | .ok (bufs, u) =>
        match (u.loadDatas bufs i.datas).newFolios func slot i bufs with
        | none => .error 0x04
        | some v => .ok (v.modTenant func (fun t => { t with images := t.images.set slot { img := i, bufs := bufs } }))

/-- The end of a pull, after the old image has gone: the checks of R49 in their order. -/
def State.loadImage (s : State) (func slot len : Nat) (bytes : List Byte) : Except Nat State :=
  match readImage len bytes with
  | none => .error 0x11
  | some i =>
    if !(((s.tenant func).map (fun t => t.keys.testBit i.key)).getD false) || !(signatureOk (s.imageKey i.key) len bytes) then
      .error 0x10
    else s.placeImage func slot i

/-- IMAGE_LOAD_DONE (R49, R214): the image replaces the old one of its slot, or the slot is left empty (DEDUCED, log 48). -/
def execImageLoadDone (func slot : Nat) (readOk : Bool) (s : State) : Host.Outcome State Fault Refusal :=
  go (match s.mgmt.findSome? (fun m => match m with
      | .imageLoad f k tag ha len => if f = func ∧ k = slot then some (tag, ha, len) else none
      | _ => none) with
    | none => s
    | some (tag, ha, len) =>
      let t := { s with mgmt := s.mgmt.filter (fun m => !(match m with | .imageLoad f k _ _ _ => f == func && k == slot | _ => false)) }
      let t := t.emptySlot func slot
      if !readOk then t.complete func 0x04 0x12 tag 0 0 none
      else match t.loadImage func slot len (t.host.readN ha len) with
        | .ok u => u.complete func 0x04 0 tag 0 0 none
        | .error e => t.complete func 0x04 e tag 0 0 none)

/-! ## Endpoints (R50) -/

/-- The image of a slot. -/
def State.imageOf (s : State) (func slot : Nat) : Option Loaded := (s.tenant func).bind (fun t => t.images.find slot)

/-- The status of an ENDPOINT.BIND. -/
def State.bindStatus (s : State) (func slot ep ext : Nat) : Nat :=
  match (s.imageOf func slot).bind (fun l => l.img.eps.find? (fun e => e.ep == ep)) with
  | none => 0x03
  | some e => if ext < e.min then 0x01 else 0

/-- ENDPOINT_BIND (R45, R50). -/
def execEndpointBind (h : MsgHdr) (slot set ep : Byte) (haddr ext : BitVec 64) (s : State) : Host.Outcome State Fault Refusal :=
  let f := h.func.toNat
  let bad := decide (15 < set.toNat) || decide (63 < ep.toNat) || haddr.toNat % 64 != 0 || ext.toNat % 64 != 0 ||
    decide (ext.toNat < 64) || decide (2 ^ 40 < ext.toNat)
  go (s.receive (.endpointBind h slot set ep haddr ext) h 0x05 false bad (s.bindStatus f slot.toNat ep.toNat ext.toNat)
    (fun t => t.modTenant f (fun x => { x with
      binds := x.binds.filter (fun b => !(b.1 == slot.toNat && b.2.1 == set.toNat && b.2.2.1 == ep.toNat)) ++
        [(slot.toNat, set.toNat, ep.toNat, haddr.toNat, ext.toNat)] })))

/-! ## Launches (R51) -/

/-- The endpoints that a graph uses. -/
def Image.endpointsOf (i : Image) (g : GraphDecl) : List Nat :=
  ((g.loads.flatMap (·.sigs)).flatMap (fun n => match i.sigs[n]? with
    | some d => (d.streams.filter (·.endpoint)).map (·.idx)
    | .none => [])).dedup

/-- The bindings of a slot in a set. -/
def Tenant.bindsOf (t : Tenant) (slot set : Nat) : List (Nat × Nat × Nat) :=
  (t.binds.filter (fun b => b.1 == slot && b.2.1 == set)).map (fun b => (b.2.2.1, b.2.2.2.1, b.2.2.2.2))

/-- The status of a LAUNCH, by the order of R51. -/
def State.launchStatus (s : State) (func slot set graph prio plen : Nat) : Nat :=
  match s.tenant func with
  | none => 0x03
  | some t => match t.images.find slot with
    | none => 0x03
    | some im => match im.img.graphs.find? (fun g => g.graph == graph) with
      | none => 0x03
      | some g =>
        if !((im.img.endpointsOf g).all (fun e => (t.bindsOf slot set).any (fun b => b.1 == e))) then 0x03
        else if t.prio < prio then 0x02
        else if im.img.pblk < plen then 0x01
        else if 256 ≤ t.queue.length then 0x04
        else 0

/-- LAUNCH (R51): the launch is queued with copies of its parameters and bindings. -/
def execLaunch (h : MsgHdr) (slot set : Byte) (graph : BitVec 16) (prio plen : Byte) (param : BitVec 384) (s : State) :
    Host.Outcome State Fault Refusal :=
  let f := h.func.toNat
  go (s.receive (.launch h slot set graph prio plen param) h 0x06 false
    (decide (15 < set.toNat) || decide (7 < prio.toNat) || decide (48 < plen.toNat))
    (s.launchStatus f slot.toNat set.toNat graph.toNat prio.toNat plen.toNat)
    (fun t => match t.imageOf f slot.toNat with
      | none => t
      | some im => t.modTenant f (fun x => { x with queue := x.queue ++ [{ Launch.none with
          func := f, tag := h.seq, host := h.tag, aseq := h.seq.toNat, slot := slot.toNat, set := set.toNat, graph := graph.toNat
          prio := prio.toNat, plen := plen.toNat, param := param, img := im.img, bufs := im.bufs
          binds := x.bindsOf slot.toNat set.toNat }] })))

/-! ## Signals (R53, R257) -/

/-- SIGNAL_VALUE (R53, R257): the value is queued, and a debug break of the launch ends with the cycle. -/
def execSignalValue (h : MsgHdr) (ltag value : Word) (s : State) : Host.Outcome State Fault Refusal :=
  let f := h.func.toNat
  go (s.receive (.signalValue h ltag value) h 0x07 false false
    (match s.namedLaunch f ltag with
      | none => 0x03
      | some l => if 16 ≤ l.signals.length then 0x04 else 0)
    (fun t => match t.namedLaunch f ltag with
      | none => t
      | some l =>
        let u := t.modLaunch f l.tag (fun l => { l with signals := l.signals ++ [value] })
        { u with regions := u.regions.map (fun (p : Nat × Region) => (p.1, if p.2.func = f ∧ p.2.ltag = l.tag then
            { p.2 with brk := p.2.brk.map (fun b => { b with out := true }) } else p.2)) }))

/-- The unresolved resumable fault that a SIGNAL names: one of a launch that goes on. -/
def State.namedFault (s : State) (func : Nat) (ltag fid : Word) : Option FltRec :=
  s.nmp.flts.find? (fun q => q.flt.resumable && q.func == func && q.fid == fid.toNat && s.hostTag q.func q.ltag == ltag &&
    (s.launchOf q.func q.ltag).all (fun l => l.status.isNone))

/-- The region of a resolved fault: a halted one replays its round, or, after its last, drains on; one that is saving, or was saved,
replays it once it is bound again (R53, R86, R251). -/
def Region.resolve (g : Region) (replayAt : Nat) : Region :=
  let g := { g with fid := none, voids := 0 }
  match g.mode with
  | .halted _ => { g with mode := if g.sigs.all (fun q => q.passed || q.final) then .draining else .replaying replayAt }
  | _ => g

/-- The region of an unresolved fault of a function goes on, bound or saved, and a choice follows (R53, R75, R141). -/
def State.resumeFault (s : State) (func : Nat) (q : FltRec) : State :=
  let u := { s with nmp := { s.nmp with flts := s.nmp.flts.filter (fun x => !(x.func == func && x.fid == q.fid)) } }
  let u := if q.flt.code = 0x40 then u.backUnit func q.flt.addr else u
  let (n, u) := u.lat
  let mine : Region → Bool := fun g => g.func == func && g.fid == some q.fid
  let at_ := u.cycle + Nat.min n 1000
  let wake : Nat × Region → Nat × Region := fun p => (p.1, if mine p.2 then p.2.resolve at_ else p.2)
  let kept : Region → Region := fun g => if mine g then { g with fid := none, voids := 0, mode := .running } else g
  let t : State := { u with regions := u.regions.map wake, items := u.items.map (fun (i : Ready) => { i with saved := i.saved.map kept }) }
  t.choiceAfter (t.newPrio s)

/-- SIGNAL_RESUME (R53, R141). -/
def execSignalResume (h : MsgHdr) (ltag fid : Word) (s : State) : Host.Outcome State Fault Refusal :=
  let f := h.func.toNat
  go (s.receive (.signalResume h ltag fid) h 0x07 false false (if (s.namedFault f ltag fid).isSome then 0 else 0x03)
    (fun t => match t.namedFault f ltag fid with
      | none => t
      | some q => t.resumeFault f q))

/-- SIGNAL_ABORT (R53): the launch of the fault ends with COMPLETE 0x07. -/
def execSignalAbort (h : MsgHdr) (ltag fid : Word) (s : State) : Host.Outcome State Fault Refusal :=
  let f := h.func.toNat
  go (s.receive (.signalAbort h ltag fid) h 0x07 false false (if (s.namedFault f ltag fid).isSome then 0 else 0x03)
    (fun t => match t.namedFault f ltag fid with
      | none => t
      | some q => t.endLaunch f q.ltag 0x07))

/-! ## What the device does of itself (R162, R238) -/

/-- HOST_WRITE_FAILED (R162): the launch of an endpoint whose host write failed ends with COMPLETE 0x12. -/
def execHostWriteFailed (func : Nat) (ltag : Word) (s : State) : Host.Outcome State Fault Refusal :=
  go (if (s.launchOf func ltag).isSome then s.endLaunch func ltag 0x12 else s)

/-- PREFIX_ENTRY_RECLAIM (R238): an entry with REF 0 that no round holds, and that is not sticky, goes. -/
def execPrefixEntryReclaim (func idx : Nat) (s : State) : Host.Outcome State Fault Refusal :=
  go (s.modTenant func (fun t => match t.prefixes[idx]? with
    | some e => if e.ref = 0 ∧ e.holds = [] ∧ !e.sticky then { t with prefixes := t.prefixes.eraseIdx idx } else t
    | none => t))

end Sys2Proof.Machine
end

