-- ==== Sys2Proof/Machine/Links.lean ====
section
/-! DEFINITION. The viral state, and the link layer of the viaducts and ports (R6, R7, R10 to R17, R23 to R25, R166). -/

namespace Sys2Proof.Machine

open Sys2Proof

/-! ## The viral state (R23 to R25, R256) -/

/-- Every store that waits in a commit buffer of a region discarded. -/
def Region.discard (g : Region) : Region :=
  let f : Fabric → Fabric := fun x => { x with staged := [] }
  { g with commit := [], commitOn := false, old := f g.old, now := f g.now }

/-- What a viral part still does: what comes from outside it, and resets (R24, R25). Host messages come, and are discarded. -/
def viralRuns : Instr → Bool
  | .resetSequence _ _ _ _ | .rstctlWarmReset | .rstctlColdReset | .powerOn | .firmwareInitiatedReset => true
  | .droopDetect _ | .droopRecover _ | .thermalLimit _ | .thermalRecover _ | .thermalTrip | .droopCountClear _ => true
  | .eccCountClear _ | .registerWriteIgnored _ _ | .nmpdackWrite _ | .nmperrClear _ | .nmpctlHoldSet | .nmpctlResync => true
  | .nmpctlHoldRelease | .nmpctlResend | .softError _ _ _ | .scrubPass _ | .hostLinkModuleLoss _ | .firmwareFatal => true
  | .laneEyeFail _ _ | .portRetrainDone _ _ _ | .flitReceive _ _ | .replayRequest _ | .portRead _ _ _ | .portWrite _ _ _ => true
  | _ => false

/-- Whether an operation that stood ready is still done when the part has become viral. -/
def Op.outlives : Op → Bool
  | .fire _ _ _ _ => false
  | .ev i _ => viralRuns i
  | _ => true

/-- THE PART ENTERS THE VIRAL STATE: every span and every operation that stood ready stops at once; commits stop, and what they
held is discarded; the off-package ports send the link-level indication to their far ends (R25); while a host-link module is up
one VIRAL message goes out, and nothing after it (R24): past a window that is full and past the queue that HELD keeps, which R38, R40
and R57 leave open (DESIGN CHOICE, log 106). A part that is viral stays as it is. -/
def State.goViral (s : State) (cause : Nat) : State :=
  if s.viral then s
  else
    let t := { s with viral := true, viralCause := BitVec.ofNat 8 cause
                      ready := s.ready.filter Op.outlives
                      ports := s.ports.map (fun (p : Nat × Port) =>
                        (p.1, if 10 ≤ p.1 && p.2.st == .active then { p.2 with viralInd := true } else p.2))
                      regions := s.regions.map (fun (p : Nat × Region) => (p.1, p.2.discard)) }
    if s.hlmod.any id then
      t.issue { kind := 0x84, func := 0, tag := 0#32, units := 1, payload := [BitVec.ofNat 8 cause] }
    else t

/-- THERMAL_TRIP (R28): a junction reaches 115 degrees. -/
def execThermalTrip (s : State) : Host.Outcome State Fault Refusal := go (s.goViral 5)

/-- FIRMWARE_FATAL (R23). -/
def execFirmwareFatal (s : State) : Host.Outcome State Fault Refusal := go (s.goViral 6)

/-- HOST_LINK_MODULE_LOSS (R10): the link goes on with the modules that are left; without one the part is viral. -/
def execHostLinkModuleLoss (module : Nat) (s : State) : Host.Outcome State Fault Refusal :=
  let t := { s with hlmod := s.hlmod.set module false }
  go (if t.hlmod.any id then t else t.goViral 3)

/-! ## Ports (R7, R11 to R17) -/

/-- How far 12-bit sequence number b lies above a, modulo 4,096. -/
def linkDist (a b : Nat) : Nat := (b % 4096 + 4096 - a % 4096) % 4096

/-- A port begins to retrain (R14, R15): it sends nothing until it is done. -/
def State.retrain (s : State) (p : Nat) : State :=
  if (s.port p).st = .active then
    let (n, s) := s.lat
    { s.modPort p (fun q => { q with st := .retraining, rtcnt := Nat.min 65535 (q.rtcnt + 1), errs := [], flits := 0 }) with
      timers := s.timers ++ [(s.cycle + Nat.min n 2500, 0, .ev (.portRetrainDone p ((s.port p).bad) (BitVec.ofNat 12 (s.port p).txAck)) Focus.none)] }
  else s

/-- LANE_EYE_FAIL (R14): a lane fails its eye monitor; no calibration mends it. -/
def execLaneEyeFail (port lane : Nat) (s : State) : Host.Outcome State Fault Refusal :=
  go ((s.modPort port (fun q => { q with bad := insertUniq lane q.bad, prior := q.prior.map (fun c => (insertUniq lane c.1, c.2)) })).retrain
    port)

/-- What an acknowledgement frees of the replay buffer (R12). -/
def Port.ackTo (p : Port) (a : Nat) : Port :=
  let d := linkDist p.txAck a
  if d ≤ linkDist (p.txAck + 1) p.txSeq then
    { p with txAck := a, replay := p.replay.filter (fun f => decide (d < linkDist p.txAck f.seq.toNat)) }
  else p

/-- A CRC error: the flit is discarded and a replay is wanted; more than 8 within 65,536 flits make the port retrain
(R11, R14). -/
def Port.crcError (p : Port) : Port :=
  { p with wants := true, errs := (p.errs.filter (fun k => decide (p.flits < k + 65536))) ++ [p.flits] }

/-- What a port does with a flit that is whole (R12): its acknowledgement frees flits; it is accepted in sequence, is a
duplicate, or calls for a replay. -/
def Port.take (p : Port) (f : Flit) : Port :=
  let q := if f.av then p.ackTo f.ack.toNat else p
  if f.cls = 3#2 then q
  else
    let d := linkDist q.rxSeq f.seq.toNat
    if d = 1 then { q with rxSeq := f.seq.toNat, got := q.got ++ [(f.cls.toNat, f.payload)], wants := false }
    else if linkDist f.seq.toNat q.rxSeq < 512 then q
    else { q with wants := true }

/-- The adder of a bound region that takes elements of chain c at an off-package port: how many it has added at the round's start
and now. -/
def State.chainTaken (s : State) (port c : Nat) : Option Nat :=
  s.regions.vals.findSome? (fun g => (List.range g.sigs.length).findSome? (fun sg =>
    ((g.sig sg).decl.adders.find? (fun a => a.port == port && a.chain == c)).map (fun a =>
      (g.now.adders.get Adder.zero (sg * 128 + a.port * 4 + a.adder)).i)))

/-- Whether a flit of the request class has to wait on the link: the adder of its chain still has as many elements before it as a
replay buffer holds (R20; DEDUCED, log 49). The other classes pass it: a sender without credit for requests gives the next SEQ to a
flit of another class (R12, R13), and a port takes such a flit whatever waits. -/
def State.linkHeld (s : State) (port : Nat) (f : Flit) : Bool :=
  f.cls == 0#2 && match s.chainTaken port (leAt f.payload 0 4) with
    | some i => decide (i + 512 ≤ ((s.port port).got.filter (fun q => q.1 == 0 && leAt q.2 0 4 == leAt f.payload 0 4)).length)
    | none => false

/-- FLIT_RECEIVE (R11, R12, R14): a port that is not active takes nothing (DEDUCED, log 49). -/
def execFlitReceive (port : Nat) (f : Flit) (s : State) : Host.Outcome State Fault Refusal :=
  let p := s.port port
  go (if p.st ≠ .active ∨ (s.ports.find port).isNone then s
  else if !f.crcOk then
    let t := s.modPort port (fun q => { q.crcError with flits := q.flits + 1 })
    if 8 < (t.port port).errs.length then t.retrain port else t
  else if f.rsv ≠ 0#5 then s.modPort port (fun q => { q with flits := q.flits + 1, wants := true })
  else if s.linkHeld port f && linkDist p.rxSeq f.seq.toNat == 1 then
    -- the flit stays with its sender, which sends it again when a replay is asked for
    s.modPort port (fun q => { (if f.av then q.ackTo f.ack.toNat else q) with flits := q.flits + 1, wants := true })
  else
    let t := (s.modPort port (fun q => { (q.take f) with flits := q.flits + 1 })).pump port
    if f.cls != 3#2 && (t.port port).out == p.out then t.idle port else t)

/-- REPLAY_REQUEST (R12): every flit after the acknowledged SEQ goes again, in its order. -/
def execReplayRequest (port : Nat) (s : State) : Host.Outcome State Fault Refusal :=
  go (if s.viral then s else s.modPort port (fun q => if q.st = .active then { q with out := q.out ++ q.replay } else q))

/-- Whether failures of a group of lanes can be spared. -/
def spared (bad : List Nat) (lo n : Nat) : Bool :=
  decide ((bad.filter (fun k => decide (lo ≤ k) && decide (k < lo + n))).length + (bad.filter (fun k => decide (16 ≤ k) && decide (k < 18))).length ≤ 2)

/-- The width that lanes allow and the spares it uses: x16, or the lowest group of 8 or 4 without an unspared failure; 0 where
none is left (R15, R17). -/
def laneWidth (bad : List Nat) : Nat × Nat :=
  let cnt := fun lo n => (bad.filter (fun k => decide (lo ≤ k) && decide (k < lo + n))).length
  if spared bad 0 16 then (16, cnt 0 16)
  else match [0, 8].find? (fun lo => spared bad lo 8) with
    | some lo => (8, cnt lo 8)
    | none => match [0, 4, 8, 12].find? (fun lo => spared bad lo 4) with
      | some lo => (4, cnt lo 4)
      | none => (0, 0)

/-- Lanes that a port cannot use. -/
def Port.lost (p : Port) : List Nat := (p.bad ++ p.retired).dedup

/-- Whether a port belongs to a die that has left service. -/
def State.portDown (s : State) (p : Nat) : Bool := (portDies p).any (fun d => !(((s.dies[d]?).map (·.service)).getD false))

/-- What stood before an edge that retrained reaches its adders, in order (R15). -/
def Fabric.cross (f : Fabric) (port : Nat) : Fabric :=
  { f with adders := f.adders.map (fun (p : Nat × Adder) =>
      (p.1, if p.1 / 4 % 32 = port then { p.2 with arriving := p.2.arriving ++ p.2.crossing, crossing := [] } else p.2)) }

/-- What a region has sent across an edge has come across it; the rounds' checkpoints too. -/
def Region.cross (g : Region) (port : Nat) : Region :=
  { g with now := g.now.cross port, old := g.old.cross port, ckpt := g.ckpt.cross port }

/-- An edge carries again what the regions send across it, the saved ones too (R13, R15). -/
def State.cross (s : State) (port : Nat) : State :=
  { s with regions := s.regions.map (fun (p : Nat × Region) => (p.1, p.2.cross port))
           items := s.items.map (fun i => { i with saved := i.saved.map (fun g => g.cross port) }) }

/-- PORT_RETRAIN_DONE (R15 to R17): the port is active again at its width, which never grows here, and replays from the far
end's last SEQ; or it has failed, and the part is viral, unless the port's die is out of service. -/
def execPortRetrainDone (port : Nat) (failedLanes : List Nat) (farAcc : BitVec 12) (s : State) : Host.Outcome State Fault Refusal :=
  go (if (s.port port).st ≠ .retraining then s
  else
    -- a lane that has failed its eye since the training began is lost too (R14)
    let t := s.modPort port (fun q => { q with bad := (q.bad ++ failedLanes).dedup })
    let w := laneWidth (t.port port).lost
    if t.portDown port then t.modPort port (fun q => { q with st := .down, width := 0 })
    else if w.1 = 0 then (t.modPort port (fun q => { q with st := .failed, width := 0 })).goViral 2
    else
      let u := t.modPort port (fun q => { (q.ackTo farAcc.toNat) with st := .active, width := Nat.min q.width w.1, spare := w.2 })
      -- the port of a viral part sends the indication alone, once it is active (R25)
      if u.viral then (if 10 ≤ port then u.modPort port (fun q => { q with viralInd := true }) else u)
      else ((u.modPort port (fun q => { q with out := q.out ++ q.replay })).pump port).cross port)

/-! ## Traffic of the off-package ports (R166, R159, R217) -/

/-- Whether a write of `n` stored bytes at a device address touches the weight range of a folio slot. A range of a
compressible buffer is touched through the slots of its blocks (R151). -/
def State.touches (s : State) (pa n : Nat) (func : Nat) (q : FolioSlot) : Bool :=
  let b := s.bufAt func q.va
  let lo := match b with
    | some b => if b.cmp = 0 then q.va else slotVa b (blockOf b q.va)
    | none => q.va
  let hi := match b with
    | some b => if b.cmp = 0 then q.va + q.ext else slotVa b (blockOf b (q.va + q.ext - 1) + 1)
    | none => q.va + q.ext
  (List.range n).any (fun i => match s.virtOf (pa + i) with
    | some (f, va) => f == func && decide (lo ≤ va) && decide (va < hi)
    | none => false)

/-- One port write compared with the watch tables: each layer that it touches advances by one (R217). -/
def State.watchPort (s : State) (pa n : Nat) : State :=
  s.tenants.foldl (fun (t : State) (p : Nat × Tenant) =>
    (p.2.folios.filter (fun q => s.touches pa n p.1 q)).foldl (fun u q => u.advanceVersion p.1 q.layer) t) s

/-- A port write at the home slice of one line: dirty sectors that it covers in part are written back, and every sector that
it touches is invalidated (R166). -/
def State.portLine (s : State) (pa n : Nat) : State :=
  let touch := sectorMask pa n
  let whole := wholeMask pa n
  let key := setKey pa
  match (s.l2.get [] key).find? (fun l => l.ln == pa / 256) with
  | none => s
  | some l =>
    let t := s.cleanSectors l.ln (maskMinus (maskAnd l.dirty touch) whole)
    { t with l2 := t.l2.set key ((t.l2.get [] key).filterMap (fun x =>
        if x.ln = l.ln then
          (if maskMinus x.valid touch = 0 then none
          else some { x with valid := maskMinus x.valid touch, dirty := maskMinus x.dirty touch })
        else some x)) }

/-- PORT_WRITE (R166): the write is performed at each line it touches, in the row buffer for a held line (R159). -/
def execPortWrite (_port pa : Nat) (data : List Byte) (s : State) : Host.Outcome State Fault Refusal :=
  go (if s.viral || data.isEmpty then s
  else
    let t := (linePieces pa data.length).foldl (fun (u : State) q => if (u.heldAt q.1).isSome then u else u.portLine q.1 q.2) s
    let t := { t with coh := t.coh.writeN pa data, dram := t.dram.writeN pa data
                      poison := t.poison.filter (fun q => !(decide (pa ≤ q * 64) && decide (q * 64 + 64 ≤ pa + data.length))) }
    t.watchPort pa data.length)

/-- PORT_READ (R166): DRAM is read directly, and the data goes back in the response class. -/
def execPortRead (port pa n : Nat) (s : State) : Host.Outcome State Fault Refusal :=
  let data := s.dram.readN pa n
  go ((List.range (ceilDiv n 120)).foldl (fun (t : State) i => t.portSend port 1 (sliceBytes data (120 * i) (Nat.min 120 (n - 120 * i)))) s)

end Sys2Proof.Machine
end

