-- ==== Sys2Proof/Machine/Manage.lean ====
section
/-! DEFINITION. Live firmware, calibration and retirement (R45, R59 to R62, R65). -/

namespace Sys2Proof.Machine

open Sys2Proof

/-! ## FW.STAGE (R59) -/

/-- The command of function 0 ends with its COMPLETE, whose page-cycles and bytes are 0 whatever the command was charged with: R46 names
a launch's totals only (DESIGN CHOICE, log 104). -/
def State.mgmtDone (s : State) (kind status : Nat) (tag : Word) : State :=
  ({ s with mgmt := s.mgmt.filter (fun m => match m with | .imageLoad _ _ _ _ _ => true | _ => false) }).complete 0 kind status tag 0 0 none

/-- FW_STAGE (R45, R59): the pull starts. -/
def execFwStage (h : MsgHdr) (haddr : BitVec 64) (len : Word) (s : State) : Host.Outcome State Fault Refusal :=
  go (s.receive (.fwStage h haddr len) h 0x10 true (haddr.toNat % 4096 != 0 || decide (2 ^ 26 < len.toNat)) 0
    (fun t =>
      let (n, t) := t.lat
      { t with mgmt := t.mgmt ++ [.fwStage h.tag haddr.toNat len.toNat]
               timers := t.timers ++ [(t.cycle + n, 0, .ev (.fwStageDone true) Focus.none)] }))

/-- The status of a pulled bundle: its format and digests, then its signature. -/
def bundleStatus (len : Nat) (b : List Byte) : Nat :=
  if (readBundle len b).isNone then 0x11 else if !(signatureOk Config.rootKey len b) then 0x10 else 0

/-- FW_STAGE_DONE (R59): a sound bundle replaces the staged one. -/
def execFwStageDone (readOk : Bool) (s : State) : Host.Outcome State Fault Refusal :=
  go (match s.mgmtHead with
    | some (.fwStage tag ha len) =>
      let b := s.host.readN ha len
      let st := if readOk then bundleStatus len b else 0x12
      ({ s with bundle := if st = 0 then b else s.bundle }).mgmtDone 0x10 st tag
    | _ => s)

/-! ## FW.ACTIVATE (R60) -/

/-- Whether a region holds a page that passes a test. -/
def Region.holdsPage (g : Region) (p : Nat → Bool) : Bool := g.sigs.any (fun q => !q.passed && p q.page)

/-- A die's activation begins: nothing more binds there, and every region with a page of it is asked to yield, whichever component
is new; the link controllers of COMP 2 also make their ports retrain, and COMP 1 also makes accesses late (R60). -/
def State.startDie (s : State) (comp d : Nat) : State :=
  let t := { s with dies := s.dies.modify d (fun x => { x with excluded := true }) }
  let t := t.regions.foldl (fun (u : State) (p : Nat × Region) =>
    if p.2.holdsPage (fun k => dieOfPage k == d) then (u.askYield p.1 false).modReg p.1 (fun g => { g with fwDie := some d }) else u) t
  if comp = 2 then ((List.range 18).filter (fun p => (portDies p).contains d)).foldl State.retrain t else t

/-- FW_ACTIVATE (R45, R60): the first die begins. With no bundle staged the activation fails (DESIGN CHOICE, log 35). -/
def execFwActivate (h : MsgHdr) (dies comp : Byte) (s : State) : Host.Outcome State Fault Refusal :=
  let l := (List.range 8).filter (fun d => dies.getLsbD d)
  go (s.receive (.fwActivate h dies comp) h 0x11 true (dies == 0#8 || decide (2 < comp.toNat)) 0
    (fun t => if t.bundle = [] then t.complete 0 0x11 0x13 h.tag 0 0 none
      else ({ t with mgmt := t.mgmt ++ [Mgmt.fwActivate h.tag l comp.toNat] }).startDie comp.toNat ((l.head?).getD 0)))

/-- Whether the die whose turn it is can start its firmware. -/
def State.dieVacant (s : State) (d : Nat) : Bool :=
  !(s.regions.any (fun p => p.2.holdsPage (fun k => dieOfPage k == d)))

/-- The staged bundle's version and keys. -/
def State.staged (s : State) : Word × List (List Byte) :=
  match readBundle s.bundle.length s.bundle with
  | some b => (b.1, b.2.2)
  | none => (0#32, [])

/-- The regions that a die's activation has pre-empted wait for it no more (R60). -/
def State.dieFreed (s : State) (d : Nat) : State :=
  let free : Region → Region := fun g => if g.fwDie = some d then { g with fwDie := none } else g
  { s with regions := s.regions.map (fun (p : Nat × Region) => (p.1, free p.2))
           items := s.items.map (fun i => { i with saved := i.saved.map free }) }

/-- FW_ACTIVATE_DIE_DONE (R60, R65): the die runs the new firmware, and the next die's turn comes; or it runs the old one, and
the activation ends with 0x13 (DEDUCED, log 56). A component or a die for which the staged bundle holds nothing is activated all the
same (DESIGN CHOICE, log 102). -/
def execFwActivateDieDone (ok : Bool) (s : State) : Host.Outcome State Fault Refusal :=
  go (match s.mgmtHead with
    | some (.fwActivate tag (d :: rest) comp) =>
      if !(s.dieVacant d) then s
      else
        let t := { s.dieFreed d with dies := s.dies.modify d (fun x => { x with excluded := false }), choicePend := true }
        if !ok then t.mgmtDone 0x11 0x13 tag
        else
          let t := { t with dies := t.dies.modify d (fun x => { x with fwver := s.staged.1 })
                            bootKeys := if d = 0 then some s.staged.2 else t.bootKeys }
          match rest with
          | [] => t.mgmtDone 0x11 0 tag
          | e :: _ =>
            let next := fun (m : Mgmt) => match m with
              | .fwActivate _ _ _ => Mgmt.fwActivate tag rest comp
              | x => x
            ({ t with mgmt := t.mgmt.map next }).startDie comp e
    | _ => s)

/-! ## CAL.RUN (R61) -/

/-- How many targets a kind of CAL.RUN has. -/
def calTargets (tkind : Nat) : Nat :=
  match tkind with
  | 0 => 18
  | 1 => 4
  | 2 => 16
  | 3 => 8
  | _ => 0

/-- The lanes of a port that retrains are examined anew for a calibration: the training says which of them fail (R16); what stood before is
kept beside them (R61). -/
def Port.calibrate (p : Port) : Port := if p.st = .retraining then { p with bad := [], prior := some (p.bad, p.width) } else p

/-- The calibration before a CAL.RUN that has failed stands again (R61). -/
def Port.uncalibrate (p : Port) : Port :=
  match p.prior with
  | none => p
  | some (bad, width) =>
    let q := { p with bad := bad, prior := none }
    if q.st = .active then { q with width := Nat.min width (laneWidth q.lost).1, spare := (laneWidth q.lost).2 } else q

/-- CAL_RUN (R45, R61): a port retrains. The others change only timing until they are done. -/
def execCalRun (h : MsgHdr) (tkind index : Byte) (s : State) : Host.Outcome State Fault Refusal :=
  go (s.receive (.calRun h tkind index) h 0x12 true (decide (calTargets tkind.toNat ≤ index.toNat)) 0
    (fun t =>
      let t := { t with mgmt := t.mgmt ++ [Mgmt.calRun h.tag tkind.toNat index.toNat] }
      if tkind = 0#8 then (t.retrain index.toNat).modPort index.toNat Port.calibrate else t))

/-- CAL_RUN_DONE (R16, R61): a port takes the width its lanes allow, a module is trained; a failure keeps what was
(DEDUCED, log 57). -/
def execCalRunDone (ok : Bool) (s : State) : Host.Outcome State Fault Refusal :=
  go (match s.mgmtHead with
    | some (.calRun tag tkind index) =>
      if tkind = 0 ∧ (s.port index).st = .retraining then s
      else if !ok then (if tkind = 0 then s.modPort index Port.uncalibrate else s).mgmtDone 0x12 0x13 tag
      else
        let t := if tkind = 0 then s.modPort index (fun q => if q.st = .active then
              { q with width := (laneWidth q.lost).1, spare := (laneWidth q.lost).2, prior := none } else { q with prior := none })
          else if tkind = 1 then { s with hlmod := s.hlmod.set index true }
          else s
        t.mgmtDone 0x12 0 tag
    | _ => s)

/-! ## RETIRE (R62) -/

/-- Whether the part keeps a die with a host-link module when page p is retired. -/
def State.keepsModule (s : State) (p : Nat) : Bool :=
  [0, 4].any (fun d => ((s.dies[d]?).map (·.service)).getD false && State.dieLives (p :: s.retired) d)

/-- The status of a RETIRE. A region's BASE counts from the start of its stack (DEDUCED, log 36), and may lie at or
beyond its end: R62 gives it no range (DESIGN CHOICE, log 103). -/
def State.retireStatus (s : State) (tkind index base ext : Nat) : Nat :=
  if tkind = 0 then (if s.keepsModule index then 0 else 0x14)
  else if tkind = 1 then
    (if rangesMeet (index * Config.stackBytes + base, ext) (firmwareRange index) then 0x14 else 0)
  else 0

/-- Whether a bound region uses a buffer or holds a row in one of some ranges. -/
def State.usesRanges (s : State) (g : Region) (l : List (Nat × Nat)) : Bool :=
  s.rows.any (fun h => h.r == g.num && h.st != .saved && l.any (rangesMeet (h.pa, 1024))) ||
  (match s.launchOf g.func g.ltag with
  | some x => g.sigs.any (fun q => !q.passed && (x.declared q.decl).any (fun n => (s.bufs.find n).any (fun b => b.inRanges l)))
  | none => false)

/-- Regions asked to yield for a retirement: those on the page, and those that use what moves (R62, R142). -/
def State.askRetire (s : State) (tkind index : Nat) (l : List (Nat × Nat)) : State :=
  s.regions.foldl (fun (u : State) (p : Nat × Region) =>
    if (tkind == 0 && p.2.holdsPage (· == index)) || s.usesRanges p.2 l then u.askYield p.1 false else u) s

/-- What a RETIRE excludes from now on; a chosen item that uses what moves is chosen no more, and a choice follows (R62; DEDUCED,
log 36). -/
def State.exclude (s : State) (tkind index lane base ext : Nat) : State :=
  if tkind = 0 then { s with retired := insertUniq index s.retired, choicePend := true }
  else if tkind = 1 then
    { s with retiredMem := s.retiredMem ++ [(index, index * Config.stackBytes + base, ext)], choicePend := true
             chosen := if s.chosenItem.any s.moving then none else s.chosen }
  else (s.modPort index (fun q => { q with retired := insertUniq lane q.retired })).retrain index

/-- RETIRE (R45, R62): the target is excluded at once, and what uses it is asked to yield. -/
def execRetire (h : MsgHdr) (tkind index lane : Byte) (base ext : BitVec 64) (s : State) : Host.Outcome State Fault Refusal :=
  let k := tkind.toNat
  let i := index.toNat
  let bad := decide (2 < k) || decide ((if k = 0 then 128 else if k = 1 then 16 else 18) ≤ i) || decide (17 < lane.toNat) ||
    base.toNat % 2 ^ 21 != 0 || ext.toNat % 2 ^ 21 != 0
  go (s.receive (.retire h tkind index lane base ext) h 0x13 true bad (s.retireStatus k i base.toNat ext.toNat)
    (fun t =>
      let t := ({ t with mgmt := t.mgmt ++ [Mgmt.retire h.tag k i lane.toNat base.toNat ext.toNat] }).exclude k i lane.toNat base.toNat
        ext.toNat
      t.askRetire k i (t.emptied k i base.toNat ext.toNat)))

/-- A new place for one part of a buffer: the lowest of another stack, else of its own (R62 says to other home stacks; DESIGN CHOICE,
log 62). -/
def State.newPart (s : State) (cur len : Nat) : Option Nat :=
  match (s.stacks.filter (· != stackOf cur)).findSome? (fun k => s.roomAt k len) with
  | some a => some a
  | none => if s.stackUp (stackOf cur) then s.roomAt (stackOf cur) len else none

/-- The parts of a buffer moved out of some ranges; none where no room is left. -/
def State.vacateBuf (s : State) (n : Nat) (l : List (Nat × Nat)) : Option State :=
  match s.bufs.find n with
  | none => some s
  | some b =>
    (List.range b.bases.length).foldl (fun (acc : Option State) j =>
      match acc with
      | none => none
      | some t => match t.bufs.find n with
        | none => some t
        | some c =>
          let at_ := (c.bases[j]?).getD 0
          let len := partUnits c.nUnits c.bases.length j * unitBytes
          if !(l.any (rangesMeet (at_, len))) then some t
          else match t.newPart at_ len with
            | none => none
            | some a =>
              let home := match c.home with | some _ => some (stackOf a) | none => none
              let moved := ((c.unitsBacked.filter (fun k => k % c.bases.length == j)).map c.plainBytes).sum
              some ((t.moveBuffer n (c.bases.set j a) home).modTenant 0 (fun x => x.charge 0 moved))) (some s)

/-- Every buffer, table and folio slot moved out of some ranges (R62); the copy is charged to function 0. -/
def State.vacate (s : State) (l : List (Nat × Nat)) : Option State :=
  ((s.bufs.map Prod.fst).foldl (fun (acc : Option State) n => acc.bind (fun t => t.vacateBuf n l)) (some s)).bind (fun t =>
    (t.moveTables l).bind (fun t => t.moveSlots l))

/-- Whether nothing bound uses a retiring target any more. -/
def State.retireReady (s : State) (tkind index : Nat) (l : List (Nat × Nat)) : Bool :=
  if tkind = 2 then decide ((s.port index).st ≠ .retraining)
  else !(s.regions.any (fun p => (tkind == 0 && p.2.holdsPage (· == index)) || s.usesRanges p.2 l))

/-- A die with every page retired leaves service, and its ports go down (R17, R62) (DESIGN CHOICE, log 2). The host-link modules of
die 0 or 4 stay as trained as they were: R8 says nothing of them (DESIGN CHOICE, log 101). -/
def State.dropDie (s : State) (d : Nat) : State :=
  if State.dieLives s.retired d then s
  else
    let t := { s with dies := s.dies.modify d (fun x => { x with service := false }) }
    ((List.range 18).filter (fun p => (portDies p).contains d)).foldl
      (fun (u : State) p => u.modPort p (fun q => { q with st := .down, width := 0 })) t

/-- A load of a launch, or its saved region, as an item. -/
def State.itemOf (s : State) (l : Launch) (load : Nat) : Ready :=
  (s.items.find? (fun i => i.func == l.func && i.ltag == l.tag && i.load == load)).getD
    { func := l.func, ltag := l.tag, aseq := l.aseq, load := load, prio := l.prio, rel := s.cycle, saved := none }

/-- Whether a load of a launch still has to bind and no longer can (R62). -/
def State.stranded (s : State) (l : Launch) : Bool :=
  l.status.isNone && l.loads.any (fun d => !(l.passed.contains d.load) &&
    !(s.regions.any (fun p => p.2.func == l.func && p.2.ltag == l.tag && p.2.load == d.load)) &&
    (s.placement (s.itemOf l d.load) s.pageUp).isNone)

/-- Launches that can no longer be bound end with 0x04 (R62). -/
def State.endStranded (s : State) : State :=
  (s.tenants.flatMap (fun p => p.2.queue)).foldl (fun (t : State) l => if s.stranded l then t.endLaunch l.func l.tag 0x04 else t) s

/-- What a RETIRE has excluded put back. -/
def State.readmit (s : State) (tkind index base ext : Nat) : State :=
  if tkind = 0 then { s with retired := s.retired.filter (· != index), choicePend := true }
  else { s with retiredMem := s.retiredMem.filter (· != (index, index * Config.stackBytes + base, ext)), choicePend := true }

/-- RETIRE_DONE (R62): what the target held has gone elsewhere, and COMPLETE follows. A RETIRE whose buffers find no room anywhere
fails with status 0x14, and its target stays in use (DESIGN CHOICE, log 62). -/
def execRetireDone (s : State) : Host.Outcome State Fault Refusal :=
  go (match s.mgmtHead with
    | some (.retire tag tkind index _lane base ext) =>
      let l := s.emptied tkind index base ext
      if !(s.retireReady tkind index l) then s
      else
        let t := if tkind = 0 then s.dropDie (dieOfPage index) else s
        match t.vacate l with
        | none => (s.readmit tkind index base ext).mgmtDone 0x13 0x14 tag
        | some u => { (if tkind = 0 then u.endStranded else u).mgmtDone 0x13 0 tag with choicePend := true }
    | _ => s)

end Sys2Proof.Machine
end

