-- ==== Sys2Proof/Machine/Env.lean ====
section
/-! DEFINITION. Clock, cooling, power gating, soft errors, walks, and reset (R26 to R36, R137 to R142, R155, R252 to R256). -/

namespace Sys2Proof.Machine

open Sys2Proof

/-! ## Droop and heat (R26, R28, R32) -/

/-- The state with a die changed. -/
def State.modDie (s : State) (d : Nat) (f : Die → Die) : State := { s with dies := s.dies.modify d f }

/-- A 32-bit count one higher, saturating. -/
def satInc (w : Word) : Word := if w = 0xFFFFFFFF#32 then w else w + 1#32

/-- DROOP_DETECT (R26): the die stretches its clock, and the event is counted. -/
def execDroopDetect (die : Nat) (s : State) : Host.Outcome State Fault Refusal :=
  go (s.modDie die (fun d => { d with droop := true, droops := satInc d.droops }))

/-- DROOP_RECOVER (R26). -/
def execDroopRecover (die : Nat) (s : State) : Host.Outcome State Fault Refusal :=
  go (s.modDie die (fun d => { d with droop := false }))

/-- THERMAL_LIMIT (R28): at 105 degrees the die stretches its clock. -/
def execThermalLimit (die : Nat) (s : State) : Host.Outcome State Fault Refusal :=
  go (s.modDie die (fun d => { d with heat := true }))

/-- THERMAL_RECOVER (R28): below 100 degrees it no longer does. -/
def execThermalRecover (die : Nat) (s : State) : Host.Outcome State Fault Refusal :=
  go (s.modDie die (fun d => { d with heat := false }))

/-- DROOP_COUNT_CLEAR (R32). -/
def execDroopCountClear (die : Nat) (s : State) : Host.Outcome State Fault Refusal :=
  go (s.modDie die (fun d => { d with droops := 0#32 }))

/-- Whether a die runs on a stretched clock (R26, R28). -/
def Die.stretched (d : Die) : Bool := d.droop || d.heat

/-! ## Errors (R252 to R256) -/

/-- ECC_COUNT_CLEAR (R256). -/
def execEccCountClear (uncorrectable : Bool) (s : State) : Host.Outcome State Fault Refusal :=
  go (if uncorrectable then { s with eccu := 0#32 } else { s with eccc := 0#32 })

/-- A place inside a region: region, element and word (DESIGN CHOICE, log 38). -/
structure ErrLoc where
  r : Nat
  key : Nat
  word : Nat
  deriving DecidableEq, Repr

/-- The place that a number names. -/
def errLoc (loc : Nat) : ErrLoc := { r := loc / 2 ^ 44, key := loc / 2 ^ 27 % 2 ^ 17, word := loc % 2 ^ 27 }

/-- The page of a place. -/
def State.errPage (s : State) (l : ErrLoc) : Nat := ((s.reg l.r).sig (l.key / 1024)).page

/-- The word that a place poisons: a soft error of kind 0 strikes the banks, 1 the slots, 7 a register or an accumulator by its
number. -/
def errWord (kind : Nat) (l : ErrLoc) : Nat := if kind = 1 then slotWord l.word else l.word

/-- ECCLOC of an uncorrectable error (R256, DESIGN CHOICE, log 38). -/
def State.eccLoc (s : State) (kind loc : Nat) : Word :=
  let p := s.errPage (errLoc loc)
  match kind with
  | 2 => BitVec.ofNat 32 (2 * 2 ^ 24 + homeDie loc * 2 ^ 16 + loc / 256 % 512)
  | 3 => BitVec.ofNat 32 (3 * 2 ^ 24 + loc % 8 * 2 ^ 16)
  | 4 => BitVec.ofNat 32 (4 * 2 ^ 24 + stackOf loc * 2 ^ 16 + loc / 1024 % 32)
  | 6 => BitVec.ofNat 32 (4 * 2 ^ 24)
  | k => BitVec.ofNat 32 ((if k = 0 ∨ k = 5 then 0 else 1) * 2 ^ 24 + dieOfPage p * 2 ^ 16 + p)

/-- SCRUB_PASS (R255): what it can correct is correct already, and what it cannot is poisoned already, for a soft error takes
its effect as it arises. An uncorrectable error of shared state makes the part viral (R254). -/
def execScrubPass (shared : Bool) (s : State) : Host.Outcome State Fault Refusal :=
  go (if shared then ({ s with eccu := satInc s.eccu, eccloc := s.eccLoc 3 0 }).goViral 4 else s)

/-- The register of an element under a number: a general or physical rotating register, a counter's value, a predicate. -/
def Elem.regAt (e : Elem) (c : Nat) : List Byte :=
  if c < 32 then leBytes 4 (e.g.get 0#32 c).toNat
  else if c < 64 then leBytes 4 (e.k.get 0#32 (c - 32)).toNat
  else if 80 ≤ c ∧ c < 88 then leBytes 4 (e.c.get Counter.zero (c - 80)).value.toNat
  else if 96 ≤ c ∧ c < 104 then leBytes 4 (boolWord (e.p.get false (c - 96))).toNat
  else []

/-- The word of an element that a mark names (R253). -/
def Elem.wordAt (e : Elem) (w : Nat) : List Byte :=
  let c := (w - 2 ^ 24) / 4
  if w < 2 ^ 24 then e.sram.readN w 4
  else if 2 ^ 26 ≤ w then e.slots.readN (w - 2 ^ 26) 4
  else if 2 ^ 25 ≤ w then leBytes 4 (e.acc.get 0#32 ((w - 2 ^ 25) / 4)).toNat
  else if 64 ≤ c ∧ c % 64 < 4 then leBytes 4 (((e.inq.get [] (c % 64))[c / 64 - 1]?).getD 0#32).toNat
  else e.regAt c

/-- A word of an element poisoned, also in the checkpoint where the word is as it was at the round's start. -/
def Region.poisonWord (g : Region) (l : ErrLoc) (w : Nat) : Region :=
  let mark : Fabric → Fabric := fun f => match f.elems.find l.key with
    | some e => { f with elems := f.elems.set l.key { e with poison := insertUniq w e.poison } }
    | none => f
  let bytes : Fabric → List Byte := fun f => ((f.elems.find l.key).map (·.wordAt w)).getD []
  { g with old := mark g.old, now := mark g.now, ckpt := if bytes g.ckpt = bytes g.now then mark g.ckpt else g.ckpt }

/-- What an uncorrectable error does: it poisons its word or sector; one in shared tables makes the part viral; one in a round
shadow or a saved region waits there until it is found (R253, R254). -/
def State.uncorrectable (s : State) (kind loc : Nat) : State :=
  let l := errLoc loc
  let poison := fun (w : Nat) => { s with regions := s.regions.modify l.r (fun g => g.poisonWord l w) }
  match kind with
  | 2 => { s with poison := insertUniq (loc / 64) s.poison }
  | 3 => s.goViral 4
  | 4 => { s with poison := insertUniq (loc / 64) s.poison }
  | 5 => { s with regions := s.regions.modify l.r (fun g =>
      { g with shadowBad := some (s.errPage l, l.key % 32, l.key / 32 % 32, l.word) }) }
  | 6 => { s with items := s.items.map (fun i => { i with saved := i.saved.map (fun g =>
      if g.num = l.r then { g with savedBad := some (l.key / 1024) } else g) }) }
  | k => poison (errWord k l)

/-- SOFT_ERROR (R252 to R254): a correctable one is corrected on every read and only counted (DEDUCED, log 52). -/
def execSoftError (kind loc : Nat) (uncorrectable : Bool) (s : State) : Host.Outcome State Fault Refusal :=
  go (if uncorrectable then
    ({ s with eccu := satInc s.eccu, eccloc := s.eccLoc kind loc }).uncorrectable kind loc
  else
    let t := { s with eccc := satInc s.eccc }
    if kind = 0 ∨ kind = 1 ∨ kind = 5 ∨ kind = 7 then
      { t with regions := t.regions.modify (errLoc loc).r (fun g => g.count 0x0A (s.errPage (errLoc loc)) 1) }
    else t)

/-! ## L2 ways (R31) -/

/-- The die of an L2 set. -/
def dieOfSet (key : Nat) : Nat := key / (512 * 32)

/-- L2_WAY_GATE (R31): a way without a pinned line is cleaned, invalidated and gated; or it wakes with only invalid lines. -/
def execL2WayGate (die way : Nat) (gate : Bool) (s : State) : Host.Outcome State Fault Refusal :=
  go (if s.viral then s
  else if !gate then { s with gatedWays := s.gatedWays.filter (· != (die, way)) }
  else if s.l2.any (fun p => dieOfSet p.1 == die && p.2.any (fun l => l.way == way && l.pin)) then s
  else
    let t := s.flushLines (fun l => homeDie (l.ln * 256) == die && l.way == way) true true
    { t with gatedWays := (die, way) :: t.gatedWays.filter (· != (die, way)) })

/-! ## Hot blocks (R155) -/

/-- HOT_BLOCK_TIMEOUT (R155): the block whose slot lies at a device address loses HOT when 4,096 cycles have passed. -/
def execHotBlockTimeout (block : Nat) (s : State) : Host.Outcome State Fault Refusal :=
  go (match s.hot.find block with
    | none => s
    | some due =>
      if s.cycle < due then s
      else
        let hdr := s.coh.readN block 1
        let b := hdr.map (fun x => x &&& 0xEF#8)
        { s with hot := s.hot.del block, coh := s.coh.writeN block b
                 dram := if s.dram.readN block 1 = hdr then s.dram.writeN block b else s.dram })

/-! ## WALK_COMPLETE (R137 to R141) -/

/-- Whether a walk counts for the ended round: one of its accesses or of a write-back, and any of a region that is in no round while its
commit is under way (R261, R444). -/
def Region.walksLate (g : Region) (w : Walk) : Bool :=
  g.commitOn && (decide (w.id < g.readsTo) || w.stamp == 0xFFFF || !(match g.mode with | .running => true | _ => false))

/-- A change of a region, with the counts of the round that a walk belongs to. -/
def Region.inWalk (g : Region) (late : Bool) (f : Region → Region) : Region := if late then (f g.swapCounts).swapCounts else f g

/-- The next queued walk of an abutment starts when a walker is free (R137). -/
def State.startWalk (s : State) (abut : Nat) : State :=
  if (s.walks.filter (fun w => w.abut == abut && w.running)).length < 2 then
    match s.walks.find? (fun w => w.abut == abut && !w.running) with
    | none => s
    | some w =>
      let (n, t) := s.lat
      { t with
        walks := t.walks.map (fun x => if x.id = w.id then { x with running := true, due := s.cycle + n } else x)
        regions := t.regions.modify w.r (fun g => g.inWalk (g.walksLate w) (fun g => g.count 0x15 (g.sig w.sg).page 1)) }
  else s

/-- The fault that a walk raises, at the entry whose access it serves (R141, R248). -/
def State.walkFault (s : State) (w : Walk) (code : Nat) : State :=
  let sparse := ((s.bufAt w.func w.acc).map (·.sparse)).getD false
  s.raise { s.fltHere code 0 w.acc with resumable := code == 0x40 && sparse }

/-- A walk that finds nothing for an access of the ended round, whose page has gone since its issue: the fault is raised once; the walk is
made again where SIGNAL can back the page, and else a read brings nothing any more (DEDUCED, log 21). -/
def State.lostWalk (s : State) (w : Walk) (code : Nat) : State :=
  let g := s.rg
  let t := if g.over || g.fid.isSome || g.raised != [] then s else s.walkFault w code
  if code == 0x40 && ((s.bufAt w.func w.acc).map (·.sparse)).getD false && !g.saves && !g.over then t.beginWalk w.id w.va w.acc w.write false
  else t.modR (fun g => g.modAll w.sg w.x w.y (fun e => { e with reads := e.reads.filter (fun q => q.id != w.id) }))

/-- The fault of a walk, in the running round or for an access of the ended one. -/
def State.failWalk (s : State) (w : Walk) (code : Nat) : State :=
  if s.rg.isEnded w.id && !w.eng then s.lostWalk w code else s.walkFault w code

/-- A read that waits for its translation goes on, or, where another part of it misses, asks for a further walk (R137, R151). -/
def State.translated (s : State) (id : Nat) : State :=
  match s.nowE.reads.find? (fun r => r.id == id && r.stage == 0) with
  | none => s
  | some r => match s.transMiss r.va r.size with
    | some v => s.beginWalk id v (s.accOf r.va v) false false
    | none =>
      let (n, t) := s.lat
      t.modReads (s.rg.isEnded id) (fun q => if q.id = id ∧ q.stage = 0 then { q with stage := 1, due := s.cycle + n } else q)

/-- The result of a walk: its range is installed and the access goes on, or a fault is raised. -/
def State.endWalk (s : State) (w : Walk) : State :=
  match s.tenants.find w.func with
  | none => s
  | some t => match nestedWalk s.coh w.func t w.va with
    | .notPresent => s.failWalk w 0x40
    | .malformed => s.failWalk w 0x42
    | .ok f size wr cmp =>
      if w.write && !wr then s.failWalk w 0x41
      else
        let base := alignDown w.va size
        let e : RangeEntry := { owner := w.func, vbase := base / 4096, pages := size / 4096, sbase := f / 4096, w := wr, cmp := cmp
                                dyn := true, age := s.cycle }
        (s.installRange w.abut e).translated w.id

/-- WALK_COMPLETE (R137): walk `id` ends, and the next one of its abutment starts. -/
def execWalkComplete (id : Nat) (s : State) : Host.Outcome State Fault Refusal :=
  match s.walks.find? (fun w => w.id == id && w.running) with
  | none => go s
  | some w =>
    let t := { s with walks := s.walks.filter (fun x => x.id != id)
                      focus := { r := w.r, sg := w.sg, x := w.x, y := w.y, n := id, sched := w.sched, stamp := w.stamp } }
    let swap : State → State := fun t => if (s.reg w.r).walksLate w then t.modR Region.swapCounts else t
    let t := swap (((swap t).nestedFill (dieOfPage t.page) w.func w.va).endWalk w)
    go ({ t with focus := s.focus }.startWalk w.abut)

/-! ## Reset (R33 to R36) -/

/-- RSTCTL_WARM_RESET, RSTCTL_COLD_RESET (R33): the reset begins within 1,250 cycles, in every state of the part. A write that comes
while a reset is pending changes its kind, and the reset begins when the first write called for it (DESIGN CHOICE, log 81). -/
def execRstctlWarmReset (s : State) : Host.Outcome State Fault Refusal := go { s with resetPend := some 1#2 }
def execRstctlColdReset (s : State) : Host.Outcome State Fault Refusal := go { s with resetPend := some 0#2 }

/-- POWER_ON (R34): a cold reset. -/
def execPowerOn (s : State) : Host.Outcome State Fault Refusal := go { s with resetPend := some 0#2 }

/-- FIRMWARE_INITIATED_RESET (R33): the same sequence, with cause 10. The viral state lasts until a cold or warm reset (R25), so a
viral part takes none; nor does it take the place of a reset that is pending. -/
def execFirmwareInitiatedReset (s : State) : Host.Outcome State Fault Refusal :=
  go (if s.viral || s.resetPend.isSome then s else { s with resetPend := some 2#2 })

/-- What a reset leaves outside itself: the clock, what is yet to come from outside, host memory, and the messages sent
(DESIGN CHOICE, log 2). -/
def State.afterReset (s : State) (cause : BitVec 2) : State :=
  { State.reset with
    cycle := s.cycle, phase := s.phase, agenda := s.agenda, lats := s.lats, latDefault := s.latDefault, nsPer := s.nsPer
    nextId := s.nextId, rstCause := cause, host := s.host, hostDead := s.hostDead, upsets := s.upsets, nmp := { Nmp.reset with out := s.nmp.out }
    ns := if cause = 2#2 then s.ns else 0, nsTenth := if cause = 2#2 then s.nsTenth else 0 }

/-- Dies after the self-test: out of service when the whole die fails, or when every page of it is retired (R35, R62). -/
def diesAfter (retired badDies : List Nat) : List Die :=
  (List.range 8).map (fun d => { Die.reset with service := !(badDies.contains d) && State.dieLives retired d })

/-- A port after the viaducts have trained: a retired lane stays out of use until a cold reset; a port of a die out of service is
down (R15, R34, R62). -/
def portAfter (dies : List Die) (retired : List Nat) (p : Nat) : Port :=
  let w := laneWidth retired
  if (portDies p).all (fun d => ((dies[d]?).map (·.service)).getD false) then
    { Port.reset with retired := retired, width := w.1, spare := w.2, st := if w.1 = 0 then .failed else .active }
  else { Port.reset with retired := retired, width := 0, st := .down }

/-- RESET_SEQUENCE (R34, R35): the steps in order. A warm reset trains no module, and it and a reset by firmware keep what RETIRE
has excluded (R62, DEDUCED, log 39). Boot firmware that fails its check leaves the part held. A module whose die
failed its self-test is trained like any other (DESIGN CHOICE, log 101). -/
def execResetSequence (fwOk : Bool) (badPages badDies badModules : List Nat) (s : State) : Host.Outcome State Fault Refusal :=
  go (match s.resetPend with
    | none => s
    | some cause =>
      if s.viral && cause == 2#2 then { s with resetPend := none }
      else
      let keep := cause != 0#2
      let mods := if cause = 1#2 then s.hlmod else (List.range 4).map (fun m => !(badModules.contains m))
      let t := { s.afterReset cause with hlmod := mods }
      if !fwOk then { t with held := true, viral := true, viralCause := 1#8, ports := t.ports.map (fun (p : Nat × Port) => (p.1, { p.2 with st := .down, width := 0 })) }
      else
        let retired := ((if keep then s.retired else []) ++ badPages).dedup
        let dies := diesAfter retired badDies
        let t := { t with
          retired := retired, dies := dies, retiredMem := if keep then s.retiredMem else []
          ports := (List.range 18).map (fun p => (p, portAfter dies (if keep then (s.port p).retired else []) p)) }
        -- a retired die's ports are down; a port in service without four lanes has failed (R17)
        if t.ports.any (fun p => p.2.st == .failed) then t.goViral 2
        else if mods.any id then t else t.goViral 3)

end Sys2Proof.Machine
end

