-- ==== Sys2Proof/Machine/Dispatch.lean ====
section
/-! DEFINITION. The meaning of every step, one arm per constructor of `Instr`. -/

namespace Sys2Proof.Machine

open Sys2Proof

/-- What a step does to the machine. -/
def exec (i : Instr) (s : State) : Host.Outcome State Fault Refusal :=
  match i with
  | .tenantCreate h tgt cls ways pages prio keys rows quant rate => Sys2Proof.Machine.execTenantCreate h tgt cls ways pages prio keys rows quant rate s
  | .tenantBudget h tgt cls ways pages prio keys rows quant rate => Sys2Proof.Machine.execTenantBudget h tgt cls ways pages prio keys rows quant rate s
  | .tenantDestroy h tgt => Sys2Proof.Machine.execTenantDestroy h tgt s
  | .tenantDestroyDone func => Sys2Proof.Machine.execTenantDestroyDone func s
  | .imageLoad h slot haddr len => Sys2Proof.Machine.execImageLoad h slot haddr len s
  | .imageLoadDone func slot readOk => Sys2Proof.Machine.execImageLoadDone func slot readOk s
  | .endpointBind h slot set ep haddr ext => Sys2Proof.Machine.execEndpointBind h slot set ep haddr ext s
  | .launch h slot set graph prio plen param => Sys2Proof.Machine.execLaunch h slot set graph prio plen param s
  | .signalValue h ltag value => Sys2Proof.Machine.execSignalValue h ltag value s
  | .signalResume h ltag fid => Sys2Proof.Machine.execSignalResume h ltag fid s
  | .signalAbort h ltag fid => Sys2Proof.Machine.execSignalAbort h ltag fid s
  | .cancel h scope ltag => Sys2Proof.Machine.execCancel h scope ltag s
  | .query h sel ltag => Sys2Proof.Machine.execQuery h sel ltag s
  | .fwStage h haddr len => Sys2Proof.Machine.execFwStage h haddr len s
  | .fwStageDone readOk => Sys2Proof.Machine.execFwStageDone readOk s
  | .fwActivate h dies comp => Sys2Proof.Machine.execFwActivate h dies comp s
  | .fwActivateDieDone ok => Sys2Proof.Machine.execFwActivateDieDone ok s
  | .calRun h tkind index => Sys2Proof.Machine.execCalRun h tkind index s
  | .calRunDone ok => Sys2Proof.Machine.execCalRunDone ok s
  | .retire h tkind index lane base ext => Sys2Proof.Machine.execRetire h tkind index lane base ext s
  | .launchComplete func ltag => Sys2Proof.Machine.execLaunchComplete func ltag s
  | .resetSequence fwOk badPages badDies badModules => Sys2Proof.Machine.execResetSequence fwOk badPages badDies badModules s
  | .droopCountClear die => Sys2Proof.Machine.execDroopCountClear die s
  | .nmpdackWrite v => Sys2Proof.Machine.execNmpdackWrite v s
  | .nmperrClear v => Sys2Proof.Machine.execNmperrClear v s
  | .eccCountClear uncorrectable => Sys2Proof.Machine.execEccCountClear uncorrectable s
  | .registerWriteIgnored off v => Sys2Proof.Machine.execRegisterWriteIgnored off v s
  | .flitReceive port f => Sys2Proof.Machine.execFlitReceive port f s
  | .replayRequest port => Sys2Proof.Machine.execReplayRequest port s
  | .laneEyeFail port lane => Sys2Proof.Machine.execLaneEyeFail port lane s
  | .portRetrainDone port failedLanes farAcc => Sys2Proof.Machine.execPortRetrainDone port failedLanes farAcc s
  | .hostLinkModuleLoss module => Sys2Proof.Machine.execHostLinkModuleLoss module s
  | .portWrite port pa data => Sys2Proof.Machine.execPortWrite port pa data s
  | .portRead port pa n => Sys2Proof.Machine.execPortRead port pa n s
  | .droopDetect die => Sys2Proof.Machine.execDroopDetect die s
  | .droopRecover die => Sys2Proof.Machine.execDroopRecover die s
  | .thermalLimit die => Sys2Proof.Machine.execThermalLimit die s
  | .thermalRecover die => Sys2Proof.Machine.execThermalRecover die s
  | .l2WayGate die way gate => Sys2Proof.Machine.execL2WayGate die way gate s
  | .scrubPass shared => Sys2Proof.Machine.execScrubPass shared s
  | .launchActivate func ltag => Sys2Proof.Machine.execLaunchActivate func ltag s
  | .fabricLoadRelease func ltag load => Sys2Proof.Machine.execFabricLoadRelease func ltag load s
  | .walkComplete id => Sys2Proof.Machine.execWalkComplete id s
  | .holdTakesEffect line => Sys2Proof.Machine.execHoldTakesEffect line s
  | .holdSuspend row => Sys2Proof.Machine.execHoldSuspend row s
  | .holdResume row => Sys2Proof.Machine.execHoldResume row s
  | .hotBlockTimeout block => Sys2Proof.Machine.execHotBlockTimeout block s
  | .mov f => Sys2Proof.Machine.execMov f s
  | .movi f => Sys2Proof.Machine.execMovi f s
  | .movhi f => Sys2Proof.Machine.execMovhi f s
  | .add f => Sys2Proof.Machine.execAdd f s
  | .addi f => Sys2Proof.Machine.execAddi f s
  | .sub f => Sys2Proof.Machine.execSub f s
  | .adds f => Sys2Proof.Machine.execAdds f s
  | .subs f => Sys2Proof.Machine.execSubs f s
  | .neg f => Sys2Proof.Machine.execNeg f s
  | .abs f => Sys2Proof.Machine.execAbs f s
  | .min f => Sys2Proof.Machine.execMin f s
  | .max f => Sys2Proof.Machine.execMax f s
  | .mul f => Sys2Proof.Machine.execMul f s
  | .mulh f => Sys2Proof.Machine.execMulh f s
  | .mad f => Sys2Proof.Machine.execMad f s
  | .div f => Sys2Proof.Machine.execDiv f s
  | .rem f => Sys2Proof.Machine.execRem f s
  | .andW f => Sys2Proof.Machine.execAndW f s
  | .orW f => Sys2Proof.Machine.execOrW f s
  | .xorW f => Sys2Proof.Machine.execXorW f s
  | .andn f => Sys2Proof.Machine.execAndn f s
  | .andi f => Sys2Proof.Machine.execAndi f s
  | .ori f => Sys2Proof.Machine.execOri f s
  | .xori f => Sys2Proof.Machine.execXori f s
  | .shl f => Sys2Proof.Machine.execShl f s
  | .shr f => Sys2Proof.Machine.execShr f s
  | .shra f => Sys2Proof.Machine.execShra f s
  | .rot f => Sys2Proof.Machine.execRot f s
  | .shi f => Sys2Proof.Machine.execShi f s
  | .clz f => Sys2Proof.Machine.execClz f s
  | .popc f => Sys2Proof.Machine.execPopc f s
  | .brev f => Sys2Proof.Machine.execBrev f s
  | .bfx f => Sys2Proof.Machine.execBfx f s
  | .bfi f => Sys2Proof.Machine.execBfi f s
  | .cmp f => Sys2Proof.Machine.execCmp f s
  | .sel f => Sys2Proof.Machine.execSel f s
  | .pset f => Sys2Proof.Machine.execPset f s
  | .lea f => Sys2Proof.Machine.execLea f s
  | .addc f => Sys2Proof.Machine.execAddc f s
  | .pack f => Sys2Proof.Machine.execPack f s
  | .unpk f => Sys2Proof.Machine.execUnpk f s
  | .shuf f => Sys2Proof.Machine.execShuf f s
  | .dot4 f => Sys2Proof.Machine.execDot4 f s
  | .dot2 f => Sys2Proof.Machine.execDot2 f s
  | .cnti f => Sys2Proof.Machine.execCnti f s
  | .cnts f => Sys2Proof.Machine.execCnts f s
  | .cntv f => Sys2Proof.Machine.execCntv f s
  | .cntt f => Sys2Proof.Machine.execCntt f s
  | .sws f => Sys2Proof.Machine.execSws f s
  | .rotb f => Sys2Proof.Machine.execRotb f s
  | .toks f => Sys2Proof.Machine.execToks f s
  | .tokw f => Sys2Proof.Machine.execTokw f s
  | .tokt f => Sys2Proof.Machine.execTokt f s
  | .loopb f => Sys2Proof.Machine.execLoopb f s
  | .loope f => Sys2Proof.Machine.execLoope f s
  | .waitw f => Sys2Proof.Machine.execWaitw f s
  | .latch f => Sys2Proof.Machine.execLatch f s
  | .handl f => Sys2Proof.Machine.execHandl f s
  | .ldl f => Sys2Proof.Machine.execLdl f s
  | .stl f => Sys2Proof.Machine.execStl f s
  | .lds f => Sys2Proof.Machine.execLds f s
  | .sts f => Sys2Proof.Machine.execSts f s
  | .sopen f => Sys2Proof.Machine.execSopen f s
  | .smark f => Sys2Proof.Machine.execSmark f s
  | .srew f => Sys2Proof.Machine.execSrew f s
  | .sclose f => Sys2Proof.Machine.execSclose f s
  | .fpush f => Sys2Proof.Machine.execFpush f s
  | .fpop f => Sys2Proof.Machine.execFpop f s
  | .lbsh f => Sys2Proof.Machine.execLbsh f s
  | .lbrd f => Sys2Proof.Machine.execLbrd f s
  | .cpy f => Sys2Proof.Machine.execCpy f s
  | .cpyw f => Sys2Proof.Machine.execCpyw f s
  | .cpyt f => Sys2Proof.Machine.execCpyt f s
  | .gath f => Sys2Proof.Machine.execGath f s
  | .scat f => Sys2Proof.Machine.execScat f s
  | .rmw f => Sys2Proof.Machine.execRmw f s
  | .red f => Sys2Proof.Machine.execRed f s
  | .cmo f => Sys2Proof.Machine.execCmo f s
  | .retn f => Sys2Proof.Machine.execRetn f s
  | .unpin f => Sys2Proof.Machine.execUnpin f s
  | .hint f => Sys2Proof.Machine.execHint f s
  | .pref f => Sys2Proof.Machine.execPref f s
  | .hepr f => Sys2Proof.Machine.execHepr f s
  | .hepw f => Sys2Proof.Machine.execHepw f s
  | .stag f => Sys2Proof.Machine.execStag f s
  | .bufsw f => Sys2Proof.Machine.execBufsw f s
  | .sbar f => Sys2Proof.Machine.execSbar f s
  | .fence f => Sys2Proof.Machine.execFence f s
  | .bara f => Sys2Proof.Machine.execBara f s
  | .barw f => Sys2Proof.Machine.execBarw f s
  | .bart f => Sys2Proof.Machine.execBart f s
  | .keyw f => Sys2Proof.Machine.execKeyw f s
  | .acq f => Sys2Proof.Machine.execAcq f s
  | .rel f => Sys2Proof.Machine.execRel f s
  | .drain f => Sys2Proof.Machine.execDrain f s
  | .fadd f => Sys2Proof.Machine.execFadd f s
  | .fsub f => Sys2Proof.Machine.execFsub f s
  | .fmul f => Sys2Proof.Machine.execFmul f s
  | .fma f => Sys2Proof.Machine.execFma f s
  | .fmin f => Sys2Proof.Machine.execFmin f s
  | .fmax f => Sys2Proof.Machine.execFmax f s
  | .fabs f => Sys2Proof.Machine.execFabs f s
  | .fneg f => Sys2Proof.Machine.execFneg f s
  | .fcmp f => Sys2Proof.Machine.execFcmp f s
  | .fcls f => Sys2Proof.Machine.execFcls f s
  | .fdiv f => Sys2Proof.Machine.execFdiv f s
  | .fsqrt f => Sys2Proof.Machine.execFsqrt f s
  | .fex2 f => Sys2Proof.Machine.execFex2 f s
  | .flg2 f => Sys2Proof.Machine.execFlg2 f s
  | .frnd f => Sys2Proof.Machine.execFrnd f s
  | .cvt f => Sys2Proof.Machine.execCvt f s
  | .cvti f => Sys2Proof.Machine.execCvti f s
  | .cvtf f => Sys2Proof.Machine.execCvtf f s
  | .qnt f => Sys2Proof.Machine.execQnt f s
  | .dqnt f => Sys2Proof.Machine.execDqnt f s
  | .bsc f => Sys2Proof.Machine.execBsc f s
  | .hdrw f => Sys2Proof.Machine.execHdrw f s
  | .hdrr f => Sys2Proof.Machine.execHdrr f s
  | .bfly f => Sys2Proof.Machine.execBfly f s
  | .fsum f => Sys2Proof.Machine.execFsum f s
  | .fdot f => Sys2Proof.Machine.execFdot f s
  | .fmaxa f => Sys2Proof.Machine.execFmaxa f s
  | .fscl f => Sys2Proof.Machine.execFscl f s
  | .mclm f => Sys2Proof.Machine.execMclm f s
  | .mrel f => Sys2Proof.Machine.execMrel f s
  | .mld f => Sys2Proof.Machine.execMld f s
  | .mst f => Sys2Proof.Machine.execMst f s
  | .mzro f => Sys2Proof.Machine.execMzro f s
  | .mma f => Sys2Proof.Machine.execMma f s
  | .mmas f => Sys2Proof.Machine.execMmas f s
  | .mout f => Sys2Proof.Machine.execMout f s
  | .mtrn f => Sys2Proof.Machine.execMtrn f s
  | .mctr f => Sys2Proof.Machine.execMctr f s
  | .msrt f => Sys2Proof.Machine.execMsrt f s
  | .mkey f => Sys2Proof.Machine.execMkey f s
  | .macc f => Sys2Proof.Machine.execMacc f s
  | .folb f => Sys2Proof.Machine.execFolb f s
  | .folv f => Sys2Proof.Machine.execFolv f s
  | .fold f => Sys2Proof.Machine.execFold f s
  | .folm f => Sys2Proof.Machine.execFolm f s
  | .folc f => Sys2Proof.Machine.execFolc f s
  | .folr f => Sys2Proof.Machine.execFolr f s
  | .foli f => Sys2Proof.Machine.execFoli f s
  | .folq f => Sys2Proof.Machine.execFolq f s
  | .rowopen f => Sys2Proof.Machine.execRowopen f s
  | .rowhold f => Sys2Proof.Machine.execRowhold f s
  | .rowrel f => Sys2Proof.Machine.execRowrel f s
  | .rowrd f => Sys2Proof.Machine.execRowrd f s
  | .rowwr f => Sys2Proof.Machine.execRowwr f s
  | .rowq f => Sys2Proof.Machine.execRowq f s
  | .stkh f => Sys2Proof.Machine.execStkh f s
  | .stkm f => Sys2Proof.Machine.execStkm f s
  | .stka f => Sys2Proof.Machine.execStka f s
  | .stkn f => Sys2Proof.Machine.execStkn f s
  | .stke f => Sys2Proof.Machine.execStke f s
  | .stkq f => Sys2Proof.Machine.execStkq f s
  | .collapse f => Sys2Proof.Machine.execCollapse f s
  | .gmsk f => Sys2Proof.Machine.execGmsk f s
  | .gstp f => Sys2Proof.Machine.execGstp f s
  | .vtxt f => Sys2Proof.Machine.execVtxt f s
  | .stopStr f => Sys2Proof.Machine.execStopStr f s
  | .plog f => Sys2Proof.Machine.execPlog f s
  | .phsh f => Sys2Proof.Machine.execPhsh f s
  | .prpl f => Sys2Proof.Machine.execPrpl f s
  | .trap f => Sys2Proof.Machine.execTrap f s
  | .idnt f => Sys2Proof.Machine.execIdnt f s
  | .time f => Sys2Proof.Machine.execTime f s
  | .pmcf f => Sys2Proof.Machine.execPmcf f s
  | .pmrd f => Sys2Proof.Machine.execPmrd f s
  | .pmwr f => Sys2Proof.Machine.execPmwr f s
  | .rngs f => Sys2Proof.Machine.execRngs f s
  | .cfgr f => Sys2Proof.Machine.execCfgr f s
  | .dbrk f => Sys2Proof.Machine.execDbrk f s
  | .fltm f => Sys2Proof.Machine.execFltm f s
  | .sigq f => Sys2Proof.Machine.execSigq f s
  | .softError kind loc uncorrectable => Sys2Proof.Machine.execSoftError kind loc uncorrectable s
  | .unknownKind h kind => Sys2Proof.Machine.execUnknownKind h kind s
  | .hostWriteFailed func ltag => Sys2Proof.Machine.execHostWriteFailed func ltag s
  | .prefixEntryReclaim func idx => Sys2Proof.Machine.execPrefixEntryReclaim func idx s
  | .retireDone => Sys2Proof.Machine.execRetireDone s
  | .deviceMessageSend => Sys2Proof.Machine.execDeviceMessageSend s
  | .rstctlWarmReset => Sys2Proof.Machine.execRstctlWarmReset s
  | .rstctlColdReset => Sys2Proof.Machine.execRstctlColdReset s
  | .powerOn => Sys2Proof.Machine.execPowerOn s
  | .nmpctlHoldSet => Sys2Proof.Machine.execNmpctlHoldSet s
  | .holdEstablished => Sys2Proof.Machine.execHoldEstablished s
  | .nmpctlResync => Sys2Proof.Machine.execNmpctlResync s
  | .nmpctlHoldRelease => Sys2Proof.Machine.execNmpctlHoldRelease s
  | .nmpctlResend => Sys2Proof.Machine.execNmpctlResend s
  | .resendStart => Sys2Proof.Machine.execResendStart s
  | .adderElement => Sys2Proof.Machine.execAdderElement s
  | .thermalTrip => Sys2Proof.Machine.execThermalTrip s
  | .firmwareFatal => Sys2Proof.Machine.execFirmwareFatal s
  | .bankWakeDone => Sys2Proof.Machine.execBankWakeDone s
  | .fabricLoadBind => Sys2Proof.Machine.execFabricLoadBind s
  | .bindComplete => Sys2Proof.Machine.execBindComplete s
  | .yieldSaveDone => Sys2Proof.Machine.execYieldSaveDone s
  | .spanWrap => Sys2Proof.Machine.execSpanWrap s
  | .scheduleSwitchEnd => Sys2Proof.Machine.execScheduleSwitchEnd s
  | .roundBoundary => Sys2Proof.Machine.execRoundBoundary s
  | .roundStart => Sys2Proof.Machine.execRoundStart s
  | .roundCommit => Sys2Proof.Machine.execRoundCommit s
  | .commitEpochPerform => Sys2Proof.Machine.execCommitEpochPerform s
  | .roundLimitExpiry => Sys2Proof.Machine.execRoundLimitExpiry s
  | .replayStart => Sys2Proof.Machine.execReplayStart s
  | .windowClose => Sys2Proof.Machine.execWindowClose s
  | .freezeBoundExpiry => Sys2Proof.Machine.execFreezeBoundExpiry s
  | .windowedResultArrival => Sys2Proof.Machine.execWindowedResultArrival s
  | .freezeRelease => Sys2Proof.Machine.execFreezeRelease s
  | .tokenArrival => Sys2Proof.Machine.execTokenArrival s
  | .handlerTokenArrival => Sys2Proof.Machine.execHandlerTokenArrival s
  | .handlerWriteEffect => Sys2Proof.Machine.execHandlerWriteEffect s
  | .keystoneArrival => Sys2Proof.Machine.execKeystoneArrival s
  | .keystonePass => Sys2Proof.Machine.execKeystonePass s
  | .barrierArrival => Sys2Proof.Machine.execBarrierArrival s
  | .debugBreakTimeout => Sys2Proof.Machine.execDebugBreakTimeout s
  | .streamReadReply => Sys2Proof.Machine.execStreamReadReply s
  | .heprBeatFetch => Sys2Proof.Machine.execHeprBeatFetch s
  | .rmwPerform => Sys2Proof.Machine.execRmwPerform s
  | .rmwReturn => Sys2Proof.Machine.execRmwReturn s
  | .copyComplete => Sys2Proof.Machine.execCopyComplete s
  | .slotPortEffect => Sys2Proof.Machine.execSlotPortEffect s
  | .nodeOperationLand => Sys2Proof.Machine.execNodeOperationLand s
  | .softTokenComplete => Sys2Proof.Machine.execSoftTokenComplete s
  | .foldComplete => Sys2Proof.Machine.execFoldComplete s
  | .nop => Sys2Proof.Machine.execNop s
  | .halts => Sys2Proof.Machine.execHalts s
  | .endp => Sys2Proof.Machine.execEndp s
  | .keys => Sys2Proof.Machine.execKeys s
  | .halt => Sys2Proof.Machine.execHalt s
  | .firmwareInitiatedReset => Sys2Proof.Machine.execFirmwareInitiatedReset s
  | .passThrough => Sys2Proof.Machine.execPassThrough s

end Sys2Proof.Machine
end

