-- ==== Sys2Proof/Machine/Phases.lean ====
section
/-! DEFINITION. The phases of a cycle: what the part does next, and in which order (R26, R40, R68, R78, R85, R101, R111, R113,
R118 to R124, R165, R171, R249, R336; DESIGN CHOICE, log 7, 8). -/

namespace Sys2Proof.Machine

open Sys2Proof

/-! ## One thing that the part does -/

/-- The next state of an outcome. -/
def outState (s : State) (o : Host.Outcome State Fault Refusal) : State :=
  match o with
  | .next t => t
  | _ => s

/-- A place in a region, with a number. -/
def focusAt (r sg x y n : Nat) : Focus := { r := r, sg := sg, x := x, y := y, n := n, sched := false, stamp := 0 }

/-- A place in a region by the key of an element, with a number. -/
def focusKey (r k n : Nat) : Focus := focusAt r (k / 1024) (k % 32) (k / 32 % 32) n

/-- The focus on an element at its span's counter and schedule in force (R100, R101). -/
def State.atFire (s : State) (r sg x y : Nat) : State :=
  let t := { s with focus := focusAt r sg x y 0 }
  { s with focus := { r := r, sg := sg, x := x, y := y, n := 0, sched := t.oldSpan.sched, stamp := t.oldSpan.counter } }

/-- The entry of the element in focus whose stamp is the counter, in the schedule in force (R100). -/
def State.firing (s : State) : Option Entry :=
  ((if s.focus.sched then s.decl.schedB else s.decl.schedA).filterMap entryOf).find? (fun e => e.stamp.toNat == s.focus.stamp)

/-- An instruction fires in both datapaths: its results are the primary's, and are compared with the shadow's (R210, R211). -/
def State.execBoth (s : State) (i : Instr) : Host.Outcome State Fault Refusal :=
  match exec i s with
  | .next t => go (t.compared s i false)
  | o => o

/-- An entry fires: under a false predicate it is nullified and only counted (R101, R259) (DEDUCED, log 42). -/
def State.runEntry (s : State) (e : Entry) : Host.Outcome State Fault Refusal :=
  match s.predChk e.pred.toNat with
  | .ok => if s.predTrue e.pred.toNat (e.pn == 1#1) then s.execBoth e.instr else go (s.count 0x02)
  | c => go (s.under c (fun t => t))

/-- One thing the part does. -/
def State.runOp (s : State) (op : Op) : Host.Outcome State Fault Refusal :=
  match op with
  | .ev i f => exec i { s with focus := f }
  | .msg bytes => exec (decodeMsg bytes) { s with focus := Focus.none }
  | .sbw off v => go { s with ready := (decodeSbw off v).map (fun i => .ev i Focus.none) ++ s.ready }
  | .flit port bytes => exec (.flitReceive port (decodeFlit bytes)) { s with focus := Focus.none }
  | .fire r sg x y =>
    match (s.atFire r sg x y).firing with
    | some e => (s.atFire r sg x y).runEntry e
    | none => go s

/-! ## Inputs, timers, the host interface, launches and binds -/

/-- Whether a timer acts in this cycle. A viral part only resets and trains its ports (R24, R25); a load is not released while 4,096 messages wait
(R40). -/
def State.timerRuns (s : State) (q : Nat × Nat × Op) : Bool :=
  decide (q.1 ≤ s.cycle) && (match q.2.2 with
    | .ev (.resetSequence _ _ _ _) _ => true
    | .ev (.portRetrainDone _ _ _) _ => true
    | .ev (.fabricLoadRelease _ _ _) _ => !s.viral && decide (s.nmp.queue.length < 4096)
    | _ => !s.viral)

/-- Whether a timer of the management commands is set. -/
def State.timerSet (s : State) (p : Instr → Bool) : Bool :=
  s.timers.any (fun q => match q.2.2 with | .ev i _ => p i | _ => false)

/-- A timer set to act within `most` cycles. -/
def State.setTimer (s : State) (most : Nat) (i : Instr) : State :=
  let (n, t) := s.lat
  { t with timers := t.timers ++ [(s.cycle + Nat.min n most, 0, .ev i Focus.none)] }

/-- The timers of a pending reset (R33) and of the management command under way (R60, R61). -/
def State.startTimers (s : State) : State :=
  let t := if s.resetPend.isSome && !(s.timerSet (fun i => match i with | .resetSequence _ _ _ _ => true | _ => false)) then
      s.setTimer 1249 (.resetSequence true [] [] [])
    else s
  if t.viral then t
  else match t.mgmtHead with
    | some (.fwActivate _ (d :: _) _) =>
      if t.dieVacant d && !(t.timerSet (fun i => match i with | .fwActivateDieDone _ => true | _ => false)) then
        t.setTimer 40000 (.fwActivateDieDone true)
      else t
    | some (.calRun _ tkind index) =>
      if !(tkind == 0 && (t.port index).st == .retraining) && !(t.timerSet (fun i => match i with | .calRunDone _ => true | _ => false)) then
        t.setTimer 40000 (.calRunDone true)
      else t
    | _ => t

/-- Whether the message at the head of a function's waiting ones can be taken up (R43). -/
def State.mayTake (s : State) (func : Nat) : Bool :=
  !(s.mgmt.any (Mgmt.holds func)) && !(func == 0 && s.tenants.any (fun p => p.2.dying.isSome)) && s.nmp.budgets == []

/-- The waiting message to take up now: the one with the oldest SEQ, for messages are taken up in SEQ order (R43). -/
def State.takeWaiting (s : State) : List Instr :=
  match s.nmp.waiting with
  | i :: _ => if s.mayTake (msgFunc i) then [i] else []
  | [] => []

/-- Whether the chosen item can bind now (R78, R177). -/
def State.bindsNow (s : State) : Bool :=
  match s.chosenItem with
  | none => false
  | some i => !(s.moving i) && !(s.needsWheel i && s.freeWheel.isNone) && (s.launchOf i.func i.ltag).isSome && (s.placement i s.pageFree).isSome

/-- What the queues of the tenants call for: a launch becomes active while fewer than 4,096 messages wait (R40, R66), one that is
over completes (R52), a tenant that is destroyed ends (R55). -/
def State.queueOps (s : State) : List Op :=
  s.tenants.flatMap (fun p =>
    (if s.nmp.queue.length < 4096 then (s.nextLaunch p.1).toList.map (fun l => .ev (.launchActivate p.1 l.tag) Focus.none) else []) ++
    (p.2.queue.filter s.launchOver).map (fun l => .ev (.launchComplete p.1 l.tag) Focus.none) ++
    (if s.destroyReady p.1 then [.ev (.tenantDestroyDone p.1) Focus.none] else []))

/-- A RETIRE whose target nothing uses any more (R62). -/
def State.retireOps (s : State) : List Op :=
  match s.mgmtHead with
  | some (.retire _ tkind index _ base ext) =>
    if s.retireReady tkind index (s.emptied tkind index base ext) then [.ev .retireDone Focus.none] else []
  | _ => []

/-- What a port asks of memory: the port, the device address, how many bytes, and whether it writes (R166). -/
def Op.portOp : Op → Option (Nat × Nat × Nat × Bool)
  | .ev (.portWrite p pa d) _ => some (p, pa, d.length, true)
  | .ev (.portRead p pa n) _ => some (p, pa, n, false)
  | _ => none

/-- Whether something that comes from outside is to be taken at the start of the cycle: all that has come, but for the reads and writes of
ports, which reach memory with the other accesses of the cycle (R192). -/
def State.takesInput (s : State) (q : Nat × Op) : Bool := decide (q.1 ≤ s.cycle) && (s.viral || q.2.portOp.isNone)

/-- The first phase of a cycle. -/
def State.early (s : State) : State :=
  let s := s.startTimers
  let due := (s.timers.filter s.timerRuns).map (fun q => q.2.2)
  let now := (s.agenda.filter s.takesInput).map Prod.snd
  let t := { s with timers := s.timers.filter (fun q => !(s.timerRuns q))
                    agenda := s.agenda.filter (fun q => !(s.takesInput q)) }
  if t.viral then { t with ready := now ++ due }
  else
    let wait := t.takeWaiting
    let t := { t with nmp := { t.nmp with waiting := t.nmp.waiting.drop wait.length } }
    let t := if t.choicePend then t.choiceEvent else t
    { t with ready := wait.map (fun i => .ev i { Focus.none with n := 1 }) ++ now ++ due ++
        (if t.nmp.hold && !t.nmp.held then [.ev .holdEstablished Focus.none] else []) ++
        (if t.nmp.resend && t.nmp.resending == [] then [.ev .resendStart Focus.none] else []) ++
        (if t.canSend then [.ev .deviceMessageSend Focus.none] else []) ++
        t.retireOps ++ t.queueOps ++
        (if t.bindsNow then [.ev .fabricLoadBind Focus.none] else []) }

/-! ## Reads served, stores performed, rounds started -/

/-- Whether a read can be served: its address is translated, the reads that it follows have been replied to, no store that it
must observe is still to be performed, and its row is not suspended (R161, R168, R171, R174). -/
def Region.serves (g : Region) (s : State) (k : Nat) (q : Read) : Bool :=
  q.stage == 1 && (g.hurried s.cycle || decide (q.due ≤ s.cycle)) && !(q.after.any g.pendingRead) && !(q.waits.any (s.waitsFor g)) &&
  !(g.commit.any (fun i => elemKey i.sg i.x i.y == k && i.sn == q.sn && (match i.act with
    | .store va b _ _ => decide (va / 64 ≤ (q.va + q.size - 1) / 64) && decide (q.va / 64 ≤ (va + b.length - 1) / 64)
    | .rmw va _ _ _ _ _ _ _ => decide (q.va / 64 ≤ va / 64) && decide (va / 64 ≤ (q.va + q.size - 1) / 64)
    | _ => false))) &&
  !(s.vaBusy g.func q.va q.size)

/-- Whether two reads are rows of one gather, which come in any order (R355). -/
def Read.mates (a b : Read) : Bool := a.gath && b.gath && a.seq == b.seq

/-- Whether a read comes after another in the order of their stream (R168). -/
def Read.follows (b a : Read) : Bool := a.sn == b.sn && !a.rmw && !(a.mates b)

/-- Whether a read belongs to the round whose commit is under way, and is still to be served: it comes before the commit's stores (R168).
The rows of a gather that a yield stops are issued again when the region resumes (R89). -/
def Region.endedRead (g : Region) (q : Read) : Bool :=
  g.isEnded q.id && decide (q.stage < 2) && !q.rmw && !q.late && !(q.gath && g.saves)

/-- Whether reads of the ended round hold its commit up. -/
def Region.readsLeft (g : Region) : Bool := g.now.elems.any (fun p => p.2.reads.any (fun q => g.endedRead q))

/-- Whether stores of the ended round still wait for their walks (R137; DEDUCED, log 21). -/
def Region.walksLeft (g : Region) (s : State) : Bool := s.walks.any (fun w => w.r == g.num && w.write && !w.eng && decide (w.id < g.readsTo))

/-- Whether the commit of a region goes on in this cycle. -/
def Region.commits? (g : Region) (s : State) : Bool :=
  g.commitOn && decide (g.commitDue ≤ s.cycle) && !g.readsLeft && !(g.walksLeft s)

/-- The RMWs at the head of some items that are performed in one cycle of their slot: of one epoch, each at slices of its own, and none in a
suspended row (R161, R177). -/
def State.rmwRun (s : State) (func ep : Nat) : List Nat → List Staged → List Nat
  | _, [] => []
  | used, i :: t =>
    match i.act with
    | .rmw va _ _ _ _ _ _ _ =>
      let ks := (s.linesOf func va 4).map (fun ln => sliceKey (ln * 256))
      if i.epoch == ep && !(s.vaBusy func va 4) && !(ks.any used.contains) then va :: s.rmwRun func ep (used ++ ks) t else []
    | _ => []

/-- Whether a region's slot of the wheel has come, in every slice (R177). -/
def Region.slotNow (g : Region) (s : State) : Bool := decide (s.cycle % 16 = g.wheel.getD (s.cycle % 16))

/-- Whether a commit has so many epochs left that one a cycle, or a slot, would pass the bound of R88 (DEDUCED, log 68). -/
def Region.pressed (g : Region) : Bool :=
  decide (300 ≤ g.commit.length) && decide (300 ≤ epochsOf (g.commit.filter (fun i => i.act.memory)))

/-- The addresses of the RMWs that a commit under way performs now, its slot come. -/
def Region.rmwNow (g : Region) (s : State) : List Nat :=
  if g.commits? s && g.slotNow s && !g.pressed then s.rmwRun g.func ((g.commit.head?).elim 0 (·.epoch)) [] g.commit
  else []

/-- The lines that an item of a commit touches. -/
def State.actLines (s : State) (func : Nat) (a : Act) : List Nat := (a.reach).elim [] (fun q => s.linesOf func q.1 q.2)

/-- Whether two lists have an element in common. -/
def meet (a b : List Nat) : Bool := a.any b.contains

/-- The runs of a pressed commit that are performed in one cycle, in their order: in its slot an RMW at each slice, whose line nothing else
reaches (R171, R177). `ks` are the slices used, `ls` the lines of RMWs, `ms` those of other items. -/
def State.planRuns (s : State) (func : Nat) (slot : Bool) : Nat → List Nat → List Nat → List Nat → List Staged → List (List Staged)
  | 0, _, _, _, _ => []
  | n + 1, ks, ls, ms, l =>
    match l with
    | [] => []
    | i :: t =>
      if i.act.isRmw then
        let mine := s.actLines func i.act
        let at_ := mine.map (fun ln => sliceKey (ln * 256))
        if !slot || meet at_ ks || meet mine ms || i.act.range.any (fun q => s.vaBusy func q.1 q.2) then []
        else [i] :: s.planRuns func slot n (ks ++ at_) (ls ++ mine) ms t
      else
        let h := headRun l
        let mine := h.flatMap (fun j => s.actLines func j.act)
        if h == [] || meet mine ls then [] else h :: s.planRuns func slot n ks ls (ms ++ mine) (l.drop h.length)

/-- What a pressed commit performs now: in its slot all that it can, and else the more epochs the more are left. -/
def Region.planNow (g : Region) (s : State) : List (List Staged) :=
  if g.commits? s && g.pressed then
    s.planRuns g.func (g.slotNow s) (if g.slotNow s then g.commit.length else 1 + epochsOf g.commit / 500) [] [] [] g.commit
  else []

/-- The lines in which an RMW is performed in this cycle: nothing else reaches them (R177, R192). -/
def State.rmwLines (s : State) : List Nat :=
  s.regions.vals.flatMap (fun g =>
    (g.rmwNow s).flatMap (fun va => s.linesOf g.func va 4) ++
    ((g.planNow s).flatten.filter (fun i => i.act.isRmw)).flatMap (fun i => s.actLines g.func i.act))

/-- Whether a tenant's range lies clear of some lines. -/
def State.clearOf (s : State) (lines : List Nat) (func va n : Nat) : Bool :=
  lines == [] || !((s.linesOf func va n).any lines.contains)

/-- Whether a read of the ended round can be served: those that it waits for are, and its row is not suspended. -/
def Region.servesEnded (g : Region) (s : State) (e : Elem) (left : List Read) (q : Read) : Bool :=
  q.stage == 1 && !(q.after.any (fun a => left.any (fun r => r.id == a) || e.reads.any (fun r => r.id == a && r.rmw && decide (r.stage < 2)))) &&
  !(s.vaBusy g.func q.va q.size)

/-- The reads of an element that are served now, each after those that precede it on its stream (R179); those of the ended round at once
(R168). -/
def Region.serveElem (g : Region) (s : State) (lines : List Nat) (k : Nat) (e : Elem) : List Read :=
  ((e.reads.filter (fun q => !q.rmw && decide (q.stage < 2))).foldl (fun (acc : List Read × List Read) q =>
    if (if g.endedRead q then g.servesEnded s e acc.2 q else g.serves s k q) && s.clearOf lines g.func q.va q.size &&
        (q.acq.getD []).all (fun r => s.clearOf lines g.func r.1 r.2) && !(acc.2.any q.follows) then (acc.1 ++ [q], acc.2)
    else (acc.1, acc.2 ++ [q])) ([], [])).1

/-- The reads of a region that are served now. -/
def Region.serveOps (g : Region) (s : State) (lines : List Nat) : List Op :=
  g.now.elems.flatMap (fun p => (g.serveElem s lines p.1 p.2).map (fun q => .ev .streamReadReply (focusKey g.num p.1 q.id)))

/-- Whether a region is in the midst of its rounds. -/
def Region.inRounds (g : Region) : Bool :=
  match g.mode with
  | .running => true
  | .between _ => true
  | .draining => true
  | _ => false

/-- Whether a region's round runs. -/
def Region.runs (g : Region) : Bool := match g.mode with | .running => true | _ => false

/-- The pieces that the copy engines of a region read now (R351). -/
def Region.pieceOps (g : Region) (s : State) (lines : List Nat) : List Op :=
  if g.inRounds then g.now.elems.flatMap (fun p =>
    (p.2.copies.filter (fun c => !c.done && c.piece == [] && decide (c.due ≤ s.cycle) &&
      (c.srcLocal.isSome || s.clearOf lines g.func (c.src + c.prog) c.next))).map (fun c => .ev .copyComplete (focusKey g.num p.1 c.id)))
  else []

/-- The windows of a region in one state or another. -/
def Region.winOps (g : Region) (p : Nat → Nat → Win → Bool) (i : Instr) : List Op :=
  if g.runs then g.now.elems.flatMap (fun q => (q.2.wins.filter (fun w => p q.1 w.1 w.2)).map (fun w => .ev i (focusKey g.num q.1 w.1)))
  else []

/-- The row reads of a region that are served now (R407). -/
def Region.rowOps (g : Region) (s : State) (lines : List Nat) : List Op :=
  g.winOps (fun k _ w => match w.kind with
    | .row pa va ready seq after none => ({ s with focus := focusKey g.num k 0 }).rowReady pa va ready seq after && !(lines.contains (pa / 256))
    | _ => false) .windowedResultArrival

/-- Whether some lines lie clear of what a decoding context reads (R177). -/
def State.ctxClear (s : State) (lines : List Nat) (func : Nat) (dc : Dctx) : Bool :=
  lines == [] || [dc.vocb, dc.mbase, dc.tbase, dc.lbase, dc.pbase].all (fun b =>
    (s.bufAt func b).all (fun q => !(lines.any (s.lineIn func [(q.va, storedBytes q.cmp q.size)]))))

/-- The text that VTXT and the records that PHSH read now (R410, R411). -/
def Region.textOps (g : Region) (s : State) (lines : List Nat) : List Op :=
  g.winOps (fun k _ w =>
    let t := { s with focus := focusKey g.num k 0 }
    let go := fun (due : Nat) => decide (due ≤ s.cycle) && s.ctxClear lines g.func t.nowE.dc
    match w.kind with
    | .text due _ _ none => go due
    | .prefixOp due _ _ _ _ none => go due && !(t.behind 8 0)
    | _ => false) .windowedResultArrival

/-- Whether a PRPL of an element waits: the log stores of earlier rounds are still to be performed (R168, R239). -/
def Region.replayWaits (g : Region) (k : Nat) (o : SoftOp) : Bool :=
  match o.instr with
  | .prpl _ => g.commit.any (fun i => elemKey i.sg i.x i.y == k && i.sn == 8 && i.act.memory)
  | _ => false

/-- The soft-token entries in flight that complete now, with what they read (R229). -/
def Region.softOps (g : Region) (s : State) (lines : List Nat) : List Op :=
  if g.inRounds || g.saves then
    g.now.elems.flatMap (fun p => (p.2.softOps.filter (fun o =>
      (g.hurried s.cycle || decide (o.due ≤ s.cycle)) && !(g.replayWaits p.1 o) && !(p.2.reads.any (fun q => q.soft == some o.id)) &&
      s.ctxClear lines g.func p.2.dc)).map (fun o => .ev .softTokenComplete (focusKey g.num p.1 o.id)))
  else []

/-- Whether what a saving region has pending keeps its commit open (R88, R245). -/
def Region.pendingSave (g : Region) : Bool := g.saves && g.now.elems.any (fun p => p.2.softOps != [])

/-- Whether an item of the commit lies clear of some lines. -/
def State.itemClear (s : State) (lines : List Nat) (func : Nat) (a : Act) : Bool :=
  match a with
  | .through l => !(lines.any (s.lineIn func l))
  | a => (a.reach).all (fun q => s.clearOf lines func q.1 q.2)

/-- What a commit under way does next (R121, R171). -/
def Region.commitOps (g : Region) (s : State) (lines : List Nat) : List Op :=
  let f := focusAt g.num 0 0 0 0
  let late : List Op := if g.pendingSave then [] else [.ev .roundCommit f]
  if g.commits? s then
    if g.pressed then
      ((g.planNow s).takeWhile (fun h => h.any (fun j => j.act.isRmw) || h.all (fun j => s.itemClear lines g.func j.act))).map (fun h =>
        .ev (if h.any (fun j => j.act.isRmw) then .rmwPerform else .commitEpochPerform) f)
    else match g.commit with
    | [] => late
    | i :: _ =>
      if i.act.isRmw then []
      else if !i.act.memory then late
      else if (headRun g.commit).all (fun j => s.itemClear lines g.func j.act) then [.ev .commitEpochPerform f]
      else []
  else []

/-- Whether an adder has added every element. -/
def Region.adderDone (g : Region) (sg : Nat) (a : AdderDecl) : Bool :=
  decide (a.len ≤ (g.now.adders.get Adder.zero (adderKey sg a)).i)

/-- Whether the engines of a signature have nothing left: copies, gathers and link-port adders (R118). -/
def Region.enginesDone (g : Region) (sg : Nat) : Bool :=
  g.now.elems.all (fun p => p.1 / 1024 != sg || (p.2.copies.all (·.done) && p.2.reads.all (fun q => !q.gath) && p.2.node == [] && p.2.softOps == [])) &&
  (g.sig sg).decl.adders.all (g.adderDone sg)

/-- Whether an item that a signature has staged is still to be performed. -/
def Region.stores (g : Region) (sg : Nat) : Bool :=
  (g.commit ++ g.now.staged).any (fun i => i.sg == sg && i.act.memory)

/-- Whether the drain set of a signature is empty: the commit of its last round is complete, its engines have nothing left, and what they
have written since is performed (R118). -/
def Region.drainEmpty (g : Region) (sg : Nat) : Bool :=
  (g.sig sg).final && (g.sig sg).done && !(g.sig sg).passed && !(g.stores sg) && g.enginesDone sg &&
  (g.sig sg).decl.spans.all (fun d => match (g.now.span sg d.n).run with | .idle => true | .waiting _ => true | _ => false) &&
  g.now.elems.all (fun p => p.1 / 1024 != sg || p.2.wins == []) &&
  !(g.now.toks.any (fun k => k.sg == sg)) && !(g.now.heldToks.any (fun k => k.1.sg == sg))

/-- What a region's mode calls for. -/
def Region.modeOps (g : Region) (s : State) : List Op :=
  let f := focusAt g.num 0 0 0 0
  let due := fun (n : Nat) (i : Instr) => if n ≤ s.cycle then [Op.ev i f] else []
  match g.mode with
  | .binding n => due n .bindComplete
  | .between n => due n .roundStart
  | .replaying n => due n .replayStart
  | .saving n _ =>
    if g.commitOn || g.now.staged != [] || g.raised != [] || s.suspends g.num || s.walks.any (fun w => w.r == g.num && !w.eng) ||
      g.now.elems.any (fun p => p.2.reads.any (fun q => !q.gath) || p.2.softOps != []) then []
    else due n .yieldSaveDone
  | _ => []

/-- The keystones of a region that pass now. -/
def Region.passOps (g : Region) : List Op :=
  match g.mode with
  | .binding _ => []
  | .ending => []
  | _ => ((List.range g.sigs.length).filter g.drainEmpty).map (fun sg => .ev .keystonePass (focusAt g.num sg 0 0 0))

/-- The host beats that a region's endpoint read streams fetch now (R345). -/
def Region.beatOps (g : Region) (s : State) : List Op :=
  (List.range g.sigs.length).flatMap (fun sg =>
    ((g.sig sg).decl.streams.filter (fun d => d.endpoint && d.kind == 1)).flatMap (fun d =>
      let st := (g.now.elem sg d.x d.y).streams.get Stream.none d.sn
      if st.due ≤ s.cycle ∧ st.beats.length < 64 ∧ 0 ≤ st.fetch ∧ st.fetch + 64 ≤ (st.ext : Int) ∧ !(g.sig sg).passed ∧
          !(s.withheld g (g.now.elem sg d.x d.y) d.sn) then
        [.ev .heprBeatFetch (focusAt g.num sg d.x d.y d.sn)]
      else []))

/-- The reads and writes of ports that are performed now, and what of the agenda stays: those of one port keep their order, one that meets an
RMW's line comes a cycle later, and so does a read behind a write of its port (R177, R192). -/
def State.portOps (s : State) (lines : List Nat) : List Op × List (Nat × Op) :=
  let r := s.agenda.foldl (fun (a : List (Op × Bool) × List (Nat × Op) × List Nat × List Nat) q =>
    match (if q.1 ≤ s.cycle then q.2.portOp else none) with
    | some (p, pa, n, w) =>
      if a.2.2.1.contains p || (!w && a.2.2.2.contains p) || (linePieces pa n).any (fun k => lines.contains (k.1 / 256)) then
        (a.1, a.2.1 ++ [q], p :: a.2.2.1, a.2.2.2)
      else (a.1 ++ [(q.2, w)], a.2.1, a.2.2.1, if w then p :: a.2.2.2 else a.2.2.2)
    | none => (a.1, a.2.1 ++ [q], a.2.2)) ([], [], [], [])
  ((r.1.filter (fun q => !q.2)).map Prod.fst ++ (r.1.filter (fun q => q.2)).map Prod.fst, r.2.1)

/-- Whether a walk comes to its end: its time has come, or a region that must be done with its save waits behind it (R88; DEDUCED,
log 68). -/
def State.walkEnds (s : State) (w : Walk) : Bool :=
  w.running && (decide (w.due ≤ s.cycle) || s.walks.any (fun k => k.abut == w.abut && (s.reg k.r).hurried s.cycle))

/-- The second phase of a cycle: RMWs in their slots, then every read, and then stores are performed (R192). -/
def State.serve (s : State) : State :=
  if s.viral then s
  else
    let gs := sortBy (fun (a b : Region) => decide (a.lowPage < b.lowPage)) s.regions.vals
    let lines := s.rmwLines
    let ports := s.portOps lines
    { s with agenda := ports.2, ready :=
        gs.flatMap (fun g => (g.rmwNow s).map (fun _ => .ev .rmwPerform (focusAt g.num 0 0 0 0))) ++
        gs.flatMap (fun g => g.serveOps s lines ++ g.pieceOps s lines ++ g.rowOps s lines ++ g.textOps s lines ++ g.beatOps s) ++
        gs.flatMap (fun g => g.softOps s lines) ++ ports.1 ++
        gs.flatMap (fun g => g.commitOps s lines) ++
        (s.walks.filter s.walkEnds).map (fun w => .ev (.walkComplete w.id) Focus.none) ++
        (s.hot.filter (fun p => decide (p.2 ≤ s.cycle))).map (fun p => .ev (.hotBlockTimeout p.1) Focus.none) ++
        gs.flatMap Region.passOps ++ gs.flatMap (fun g => g.modeOps s) }

/-! ## The steps of the spans (R101, R109, R111, R113, R257) -/

/-- Whether an element lies in a span. -/
def SpanDecl.holds (p : SpanDecl) (x y : Nat) : Bool := p.x0 ≤ x && x ≤ p.x1 && p.y0 ≤ y && y ≤ p.y1

/-- What an element does in a step: its entry at the counter, and its pass-throughs under the route context in force (R108). -/
def State.elemOps (s : State) (r sg : Nat) (d : ElemDecl) : List Op :=
  let t := s.atFire r sg d.x d.y
  (if t.firing.isSome then [.fire r sg d.x d.y] else []) ++
  (if d.rcxs = [] then [] else [.ev .passThrough { t.focus with n := (t.firing.map (fun e => e.rcx.toNat)).getD 0 }])

/-- The step of a span, by y and then by x. -/
def State.stepOps (s : State) (r sg : Nat) (p : SpanDecl) : List Op :=
  let es := ((s.reg r).sig sg).decl.elems.filter (fun d => p.holds d.x d.y)
  (sortBy (fun (a b : ElemDecl) => a.y < b.y || (a.y == b.y && a.x < b.x)) es).flatMap (s.elemOps r sg)

/-- Whether a window of a span has closed empty. -/
def Region.gated (g : Region) (sg : Nat) (p : SpanDecl) : Bool :=
  g.now.elems.any (fun q => q.1 / 1024 == sg && p.holds (q.1 % 32) (q.1 / 32 % 32) && q.2.wins.any (fun w => w.2.closed))

/-- One frozen cycle of a span: it is counted, and so are the cycles of its windows that bound the freeze (R113, R114). -/
def Region.freeze (g : Region) (sg : Nat) (p : SpanDecl) : Region :=
  let age : Nat × Win → Nat × Win := fun w =>
    (w.1, if w.2.closed && (w.2.wm == 2 || g.brk.isSome) then { w.2 with frozen := w.2.frozen + 1 } else w.2)
  let f : Fabric := { g.now with elems := g.now.elems.map (fun (q : Nat × Elem) =>
    (q.1, if q.1 / 1024 == sg && p.holds (q.1 % 32) (q.1 / 32 % 32) then { q.2 with wins := q.2.wins.map age } else q.2)) }
  ({ g with now := f.modSpan sg p.n (fun k => { k with stalled := true }) }).count 0x03 (g.sig sg).page 1

/-- The plan of a cycle's steps: the state with the spans that freeze marked, the state as the steps planned so far leave it, and
the steps. -/
structure Plan where
  base : State
  trial : State
  ops : List Op

/-- A change of one region, in both states of a plan. -/
def Plan.both (a : Plan) (r : Nat) (f : Region → Region) : Plan := { a with base := a.base.modReg r f, trial := a.trial.modReg r f }

/-- The step of one span joins the plan. A step that meets a blocking condition takes no effect and freezes its span; one that
raises a fault takes no effect but the fault (R111, R249). -/
def Plan.span (a : Plan) (r sg : Nat) (p : SpanDecl) : Plan :=
  let g := a.base.reg r
  match (g.old.span sg p.n).run with
  | .running =>
    if g.brk.isSome || g.gated sg p then a.both r (fun g => g.freeze sg p)
    else
      let pre := if (g.now.span sg p.n).stalled then [Op.ev .freezeRelease (focusAt r sg 0 0 p.n)] else []
      let ops := pre ++ a.base.stepOps r sg p
      let t := ops.foldl (fun u o => outState u (u.runOp o)) a.trial
      if ((t.reg r).now.span sg p.n).stalled then a.both r (fun g => g.freeze sg p)
      else if (a.trial.reg r).raised.length < (t.reg r).raised.length then
        -- the walks of an access that faults are made (R438)
        let walks := fun (u : State) => ((t.reg r).raised.drop (a.trial.reg r).raised.length).foldl (fun u f =>
          { { u with focus := { u.focus with r := r } }.walksOf sg f with focus := u.focus }) u
        let b := a.both r (fun g => { g with raised := (t.reg r).raised })
        { b with base := walks b.base, trial := walks b.trial }
      else { base := a.base, trial := t, ops := a.ops ++ ops }
  | _ => a

/-- The steps of a region's spans. -/
def Plan.region (a : Plan) (g : Region) : Plan :=
  match g.mode with
  | .running => (List.range g.sigs.length).foldl (fun a sg =>
      if (g.sig sg).passed then a else (g.sig sg).decl.spans.foldl (fun a p => a.span g.num sg p) a) a
  | _ => a

/-- The third phase of a cycle: the steps of the running spans. -/
def State.fires (s : State) : State :=
  if s.viral then s
  else
    let a := s.regions.vals.foldl Plan.region { base := s, trial := s, ops := [] }
    { a.base with ready := a.ops }

/-! ## Arrivals at the end of the cycle -/

/-- What lands in an element: replies and RMW returns in stream order (R357), engine pieces, and, in a round, operations of the node and
the slot port. -/
def Region.landElem (g : Region) (s : State) (k : Nat) (e : Elem) : List Op :=
  let f := focusKey g.num k
  let hurry := g.hurried s.cycle
  let here : Read → Bool := fun q => q.stage == 2 && (hurry || decide (q.due ≤ s.cycle))
  let heads := (e.reads.zipIdx.filter (fun p => !p.1.rmw && !((e.reads.take p.2).any p.1.follows))).map Prod.fst
  (heads.filter here).map (fun q => .ev .streamReadReply (f q.id)) ++
  ((e.reads.zipIdx.filter (fun p => p.1.rmw && here p.1 && !((e.reads.take p.2).any (fun a => a.rmw && a.sn == p.1.sn)))).map
    (fun p => .ev .rmwReturn (f p.1.id))) ++
  (if g.inRounds then (e.copies.filter (fun c => !c.done && c.piece != [] && decide (c.due ≤ s.cycle))).map (fun c => .ev .copyComplete (f c.id)) else []) ++
  (if g.runs then
    (e.node.filter (fun o => decide (o.due ≤ s.cycle))).map (fun o =>
      .ev (if o.tile then .nodeOperationLand else match o.instr with | .fold _ => .foldComplete | _ => .slotPortEffect) (f o.id)) else [])

/-- The tokens of a region that elements receive. -/
def Region.tokenOps (g : Region) (s : State) : List Op :=
  (g.now.toks.filter (fun k => decide (k.due ≤ s.cycle) && (g.sig k.sg).decl.elems.any (fun d => d.recv.testBit k.id))).map (fun k =>
    .ev .tokenArrival (focusAt g.num k.sg 0 0 k.id))

/-- The barriers of a region with arrivals that are counted now. -/
def Region.barOps (g : Region) (s : State) : List Op :=
  (g.now.bars.filter (fun p => p.2.coming.any (fun c => decide (c.2 ≤ s.cycle)))).map (fun p => .ev .barrierArrival (focusAt g.num 0 0 0 p.1))

/-- The link-port adders of a region that have both operands of an element (R20). -/
def Region.adderOps (g : Region) (s : State) : List Op :=
  (List.range g.sigs.length).flatMap (fun sg =>
    let t := { s with focus := focusAt g.num sg 0 0 0 }
    ((g.sig sg).decl.adders.filter (t.adderReady sg)).map (fun a => .ev .adderElement (focusAt g.num sg 0 0 (a.port * 4 + a.adder))))

/-- The fourth phase of a cycle: what lands at its end. -/
def State.lands (s : State) : State :=
  if s.viral then s
  else { s with ready := s.regions.vals.flatMap (fun g =>
    match g.mode with
    | .binding _ => []
    | .ending => []
    | _ => g.now.elems.flatMap (fun p => g.landElem s p.1 p.2) ++
        (if g.runs then g.tokenOps s else []) ++ (if g.inRounds then g.barOps s ++ g.adderOps s else [])) }

/-- Whether the cycle has been a running cycle of a span (R112). -/
def Region.ran (g : Region) (sg n : Nat) : Bool :=
  (match (g.old.span sg n).run with | .running => true | _ => false) && !((g.now.span sg n).stalled)

/-- Whether the cycle has been a running cycle of an element's span. -/
def Region.ranElem (g : Region) (k : Nat) : Bool :=
  match (g.sig (k / 1024)).decl.spanAt (k % 32) (k / 32 % 32) with
  | some p => g.ran (k / 1024) p.n
  | none => false

/-- Whether a window was open before the cycle. -/
def Region.wasOpen (g : Region) (k latch : Nat) : Bool :=
  ((g.old.elems.find k).bind (fun e => e.wins.find latch)).isSome

/-- Whether a window looks at what it waits for in this cycle: one that polls, only in its own running cycles and while it has closed empty
(R331, R334, R335, R337). -/
def Region.looks (g : Region) (k l : Nat) (w : Win) : Bool := !w.kind.polls || w.closed || (g.wasOpen k l && g.ranElem k)

/-- The fifth phase of a cycle: results reach their windows (R113). -/
def State.arrives (s : State) : State :=
  if s.viral then s
  else { s with ready := s.regions.vals.flatMap (fun g =>
    g.winOps (fun k l w => w.res.isNone && g.looks k l w && ({ s with focus := focusKey g.num k 0 }).winReady w) .windowedResultArrival) }

/-- Whether a debug break comes to its bound (R257). -/
def Region.brkOver (g : Region) : Bool := g.brk.any (fun b => decide (65536 ≤ b.age) && !b.out)

/-- The sixth phase of a cycle: windows whose last running cycle has passed close, and bounds of freezes and breaks expire (R113, R114,
R257). A freeze that the end of a break bounds is the break's: its fault names the DBRK entry (R248; DEDUCED, log 100). -/
def State.closes (s : State) : State :=
  if s.viral then s
  else { s with ready := s.regions.vals.flatMap (fun g =>
    g.winOps (fun k l w => !w.closed && w.left == 1 && g.wasOpen k l && g.ranElem k) .windowClose ++
    g.winOps (fun _ _ w => w.closed && ((w.wm == 2 && decide (w.w ≤ w.frozen)) || (w.wm == 0 && !g.brkOver && decide (65536 ≤ w.frozen))))
      .freezeBoundExpiry ++
    (if g.runs && g.brkOver then [.ev .debugBreakTimeout (focusAt g.num 0 0 0 0)] else [])) }

/-! ## Wraps, handlers and keystones -/

/-- Whether a debug break froze the cycle: the cycle of the DBRK itself still counts. -/
def Region.broken (g : Region) : Bool := g.brk.any (fun b => b.age != 0)

/-- A span's counter after a running cycle that ends no period, or whose wrap a window that has closed empty holds up (R113, R114); or a
switch one cycle on (R100, R104). -/
def Region.advanceSpan (g : Region) (sg : Nat) (d : SpanDecl) : Region :=
  match (g.old.span sg d.n).run with
  | .running =>
    if g.ran sg d.n && ((g.now.span sg d.n).counter + 1 < d.period || g.gated sg d) then
      { g with now := g.now.modSpan sg d.n (fun p => { p with counter := p.counter + 1, cyc := p.cyc + 1 }) }
    else g
  | .switching n =>
    if g.broken || n ≤ 1 then g else { g with now := g.now.modSpan sg d.n (fun p => { p with run := .switching (n - 1) }) }
  | _ => g

/-- Whether a keystone has still to reach the spans of its signature (R118). -/
def Region.keyComing (g : Region) (sg : Nat) : Bool := (g.sig sg).decl.spans.any (fun d => !((g.now.span sg d.n).keyed))

/-- The keystones that reach the spans of their signatures (DEDUCED, log 18). -/
def Region.keyOps (g : Region) (s : State) : List Op :=
  (g.now.keyFired.filter (fun k => decide (k.2 ≤ s.cycle) && g.keyComing k.1)).map (fun k => .ev .keystoneArrival (focusAt g.num k.1 0 0 0))

/-- The wraps and the ends of switches of a region; a window that has closed empty holds up the wrap of its span (R114). -/
def Region.wrapOps (g : Region) : List Op :=
  (List.range g.sigs.length).flatMap (fun sg => (g.sig sg).decl.spans.flatMap (fun d =>
    match (g.old.span sg d.n).run with
    | .running =>
      let c := (g.now.span sg d.n).counter
      if !(g.gated sg d) && ((g.ran sg d.n && d.period ≤ c + 1) || d.period ≤ c) then [.ev .spanWrap (focusAt g.num sg 0 0 d.n)] else []
    | .switching n => if n ≤ 1 && !g.broken then [.ev .scheduleSwitchEnd (focusAt g.num sg 0 0 d.n)] else []
    | _ => []))

/-- Every span of a region that does not wrap advanced. -/
def Region.advanceAll (g : Region) : Region :=
  (List.range g.sigs.length).foldl (fun g sg => (g.sig sg).decl.spans.foldl (fun g d => g.advanceSpan sg d) g) g

/-- The seventh phase of a cycle: keystones arrive, and then spans wrap: a keystone that arrives in the cycle of a wrap idles its
spans at that wrap (R118; the spec's own timing of the second schedule at R424 counts on it). -/
def State.wraps (s : State) : State :=
  if s.viral then s
  else { s with
    ready := s.regions.vals.flatMap (fun g => if g.runs then g.keyOps s ++ g.wrapOps else [])
    regions := s.regions.map (fun (p : Nat × Region) => (p.1, if p.2.runs then p.2.advanceAll else p.2)) }

/-- The signatures of a region whose handler table a token has reached (DEDUCED, log 18). -/
def Region.handlerOps (g : Region) (s : State) : List Op :=
  ((g.now.toks.filter (fun k => decide (k.due ≤ s.cycle))).map (·.sg)).dedup.map (fun sg => .ev .handlerTokenArrival (focusAt g.num sg 0 0 0))

/-- The eighth phase of a cycle: handler tokens and handler writes act after the wraps of the cycle, the writes between rounds too (R117,
R120, R124, R336). -/
def State.ctls (s : State) : State :=
  if s.viral then s
  else { s with ready := s.regions.vals.flatMap (fun g =>
    if g.inRounds then
      (if g.runs then g.handlerOps s else []) ++
      ((g.now.hwrites.filter (fun h => decide (h.due ≤ s.cycle))).map (fun h => (h.sg, h.e))).dedup.map (fun p =>
        .ev .handlerWriteEffect (focusAt g.num p.1 0 0 p.2))
    else []) }

/-- The ninth phase of a cycle: handler tokens that a rewrite held back act on the new word in the same cycle (R336). -/
def State.freeds (s : State) : State :=
  if s.viral then s
  else { s with ready := s.regions.vals.flatMap (fun g => if g.runs then g.handlerOps s else []) }

/-! ## Faults, boundaries and limits -/

/-- Whether a region takes a fault at the end of a cycle: in a round and while it saves any, and after its last round those that end it
(DEDUCED, log 17). -/
def Region.takes (g : Region) : Bool :=
  match g.mode with
  | .running => g.raised != []
  | .saving _ _ => g.raised != []
  | .draining => (firstFault g.raised).any (fun f => !f.counts)
  | _ => false

/-- Whether a region's round has reached its boundary (R120): every span waits, no window is open, no token or keystone is in flight, no
operation of a node or slot port is under way, and the commit of the round before is complete. Reads, walks and engines are not waited for:
the commit waits for the first two, the keystone for the last (R118, R168; DEDUCED, log 28). -/
def Region.atBoundary (g : Region) : Bool :=
  g.runs && g.brk.isNone && g.raised == [] && !g.commitOn &&
  g.now.spans.all (fun p => match p.2.run with | .idle => true | .waiting _ => true | _ => false) &&
  g.now.elems.all (fun p => p.2.wins == [] && p.2.node == []) &&
  g.now.toks == [] && g.now.heldToks == [] && g.now.keyFired.all (fun k => !(g.keyComing k.1))

/-- What the end of a cycle calls for in a region. -/
def Region.boundOps (g : Region) : List Op :=
  let f := focusAt g.num 0 0 0 0
  if !g.runs then []
  else match g.brk with
    | some _ => []
    | none => if g.atBoundary then [.ev .roundBoundary f] else if 12500 ≤ g.limit + 1 then [.ev .roundLimitExpiry f] else []

/-- What the engines of a region whose last round has ended have written joins its commit (R118); so does what has been staged since the
boundary at which a region saves (R88). -/
def Region.drains (g : Region) (cycle : Nat) : Region :=
  match g.mode with
  | .draining => if g.now.staged == [] then g else g.append cycle
  | _ => g.joinCommit cycle

/-- The tenth phase of a cycle: faults are taken, breaks that meet a yield request are given up, what these voids post may call for yields,
and then boundaries are reached and limits expire (R85, R124, R249, R257). -/
def State.bounds (s : State) : State :=
  if s.viral then s
  else
    let t := s.regions.foldl (fun (u : State) (p : Nat × Region) => if (u.reg p.1).takes then u.takeFault p.1 else u) s
    let t := t.regions.foldl (fun (u : State) (p : Nat × Region) =>
      if (u.reg p.1).runs && p.2.brk.isSome && p.2.yieldReq.isSome then u.yieldBreak p.1 else u) t
    let t := t.askBudget
    { t with ready := t.regions.vals.flatMap Region.boundOps
             regions := t.regions.map (fun (p : Nat × Region) => (p.1, p.2.drains s.cycle)) }

/-! ## The end of the cycle -/

/-- The windows of an element after a running cycle of its span. -/
def Region.tickWins (g : Region) (k : Nat) (e : Elem) : Elem :=
  if g.ranElem k then
    { e with taken := []
             wins := e.wins.map (fun (w : Nat × Win) => (w.1, if g.wasOpen k w.1 then { w.2 with left := w.2.left - 1 } else w.2)) }
  else { e with taken := [] }

/-- A region at the end of a cycle: what the cycle has written is what the next one reads (R101). The round limit stands still in
a debug break (R257). -/
def Region.tick (g : Region) : Region :=
  if g.runs then
    let f := { g.now with elems := g.now.elems.map (fun (p : Nat × Elem) => (p.1, g.tickWins p.1 p.2)) }
    { g with
      old := f, now := f, cyc := g.cyc + 1, limit := if g.broken then g.limit else g.limit + 1
      brk := (g.brk.filter (fun b => !b.out)).map (fun b => { b with age := b.age + 1 }) }
  else { g with old := g.now }

/-- Cycles of suspended rows counted for their holders (R161, R259). -/
def State.countSuspended (s : State) : State :=
  s.rows.foldl (fun (t : State) h =>
    if h.st == .suspended then t.modReg h.r (fun g => g.count 0x21 (g.sig h.sg).page 1) else t) s

/-- Whether a die in service runs on a stretched clock (R26, R28). -/
def State.stretched (s : State) : Bool := s.dies.any (fun d => d.service && d.stretched)

/-- How long a cycle lasts, in tenths of a nanosecond: 0.8 ns, and on a stretched clock up to twice that (R1, R26; how much: DESIGN CHOICE,
log 10). -/
def State.nsStep (s : State) : Nat :=
  if s.stretched then Nat.max 8 (Nat.min 16 ((s.nsPer.head?).getD 16)) else 8

/-- The end of a cycle. -/
def State.tick (s : State) : State :=
  let t := if s.viral then s else s.countSuspended
  { t with
    regions := if s.viral then t.regions else t.regions.map (fun (p : Nat × Region) => (p.1, p.2.tick))
    ns := s.ns + (s.nsTenth + s.nsStep) / 10, nsTenth := (s.nsTenth + s.nsStep) % 10
    nsPer := if s.stretched then s.nsPer.drop 1 else s.nsPer, cycle := s.cycle + 1 }

/-- The end of a phase: what the next one does becomes ready. -/
def State.nextPhase (s : State) : State :=
  match s.phase with
  | .early => { s.serve with phase := .serve }
  | .serve => { s.fires with phase := .fire }
  | .fire => { s.lands with phase := .land }
  | .land => { s.arrives with phase := .arrive }
  | .arrive => { s.closes with phase := .close }
  | .close => { s.wraps with phase := .wrap }
  | .wrap => { s.ctls with phase := .ctl }
  | .ctl => { s.freeds with phase := .freed }
  | .freed => { s.bounds with phase := .bound }
  | .bound => { s.tick with phase := .tick }
  | .tick => { s.early with phase := .early }

end Sys2Proof.Machine
end

