-- ==== Sys2Proof/Machine/Step.lean ====
section
/-! DEFINITION. One step of the machine, and how an instruction is placed where the next step takes it. -/

namespace Sys2Proof.Machine

open Sys2Proof

/-- One step: the first thing that is ready, or the end of a phase of the cycle. -/
def step (s : State) : Host.Outcome State Fault Refusal :=
  match s.ready with
  | op :: rest => State.runOp { s with ready := rest } op
  | [] => go s.nextPhase

/-- The x of the element that takes an entry where one word is placed: ce(0,0), or me(1,0) for an opcode of MEs alone. -/
def fetchX (i : Instr) : Nat := if i.bad .ce 0#32 = some .kind then 1 else 0

/-- A signature of one tile and one entry word, in schedule A of the element at (x, 0). -/
def fetchSig (x : Nat) (w : EWord) : SigDecl :=
  { SigDecl.none with
    spans := [{ n := 0, x0 := 0, y0 := 0, x1 := 3, y1 := 3, waiting := false, period := 4096, round := 0 }]
    elems := [{ ElemDecl.none x 0 with schedA := [w] }] }

/-- The fabric of that signature: the counter of its span stands at the entry's stamp, and the entry's predicate lets it fire. -/
def fetchFabric (e : Entry) : Fabric :=
  { Fabric.empty with
    elems := [(0, { Elem.fresh .ce with p := [(e.pred.toNat, e.pn == 0#1)] })]
    spans := [(0, { Span.fresh .running with counter := e.stamp.toNat })] }

/-- A region of function 0 that runs that signature on page 0. -/
def fetchRegion (e : Entry) (w : EWord) : Region :=
  { Region.empty with
    sigs := [{ decl := fetchSig (fetchX e.instr) w, idx := 0, page := 0, passed := false, final := false, done := false }]
    old := fetchFabric e
    now := fetchFabric e
    ckpt := fetchFabric e
    mode := .running }

/-- The state in which the next step runs an instruction: an entry word stands in a schedule whose span has reached its
stamp; a host message stands as the next input (DESIGN CHOICE, log 41). -/
def State.withFetchWord (s : State) (nbits w : Nat) : State :=
  if nbits ≤ 64 then
    match entryOf (BitVec.ofNat 64 w) with
    | some e => { s with regions := s.regions.set 0 (fetchRegion e (BitVec.ofNat 64 w)), ready := [.fire 0 0 (fetchX e.instr) 0] }
    | none => s
  else { s with ready := [.msg (leBytes (nbits / 8) w)] }

end Sys2Proof.Machine
end

