-- ==== Sys2Proof/Machine/Regs.lean ====
section
/-! DEFINITION. The sideband registers as the host reads them (R4, R32, R33, R56, R256). -/

namespace Sys2Proof.Machine

open Sys2Proof

/-- Bit i of a register word. -/
def regBit (i : Nat) (b : Bool) : Nat := if b then 2 ^ i else 0

/-- The ST field of LNKST; a port that is down reads as not present (DESIGN CHOICE, log 75). -/
def PortSt.code : PortSt → Nat
  | .active => 0
  | .retraining => 1
  | .failed => 2
  | .down => 3

/-- The WID field of LNKST. -/
def widthCode (w : Nat) : Nat := if w = 16 then 0 else if w = 8 then 1 else if w = 4 then 2 else 3

/-- LNKST (R32): bits [15:8] and [3:2] are reserved. -/
def Port.lnkst (p : Port) : Word :=
  BitVec.ofNat 32 (Nat.min p.rtcnt 65535 * 2 ^ 16 + p.spare % 4 * 2 ^ 6 + widthCode p.width * 2 ^ 4 + p.st.code)

/-- VIRST, DIEMAP, HLMOD (R32). -/
def State.virst (s : State) : Word := BitVec.ofNat 32 (s.viralCause.toNat * 2 ^ 8 + regBit 0 s.viral)
def State.diemap (s : State) : Word := BitVec.ofNat 32 ((s.dies.zipIdx.map (fun p => regBit p.2 p.1.service)).sum)
def State.hlmodWord (s : State) : Word := BitVec.ofNat 32 ((s.hlmod.zipIdx.map (fun p => regBit p.2 p.1)).sum)

/-- NMPCTL: RESYNC and RESEND read as 0 (R56). -/
def Nmp.ctl (n : Nmp) : Word := BitVec.ofNat 32 (regBit 0 n.hold + regBit 2 n.held)

/-- NMPERR (R56). -/
def Nmp.err (n : Nmp) : Word := BitVec.ofNat 32 (Nat.min n.errCount 65535 + regBit 16 n.errWin + regBit 17 n.errSeq)

/-- The register of index i of a group at a base, 4 bytes apart. -/
def regIndex (off base n : Nat) : Option Nat :=
  if base ≤ off ∧ off < base + 4 * n ∧ off % 4 = 0 then some ((off - base) / 4) else none

/-- The 32-bit word that a sideband read of an offset gives (R32, R56, R256). Reserved fields read as zero, and so do RSTCTL, which is
write only (R4), and an offset that names no register (DESIGN CHOICE, log 75). -/
def State.sideband (s : State) (off : Nat) : Word :=
  let die := fun (i : Nat) => (s.dies[i]?).getD Die.reset
  match regIndex off 0x040 8, regIndex off 0x080 18, regIndex off 0x140 8 with
  | some d, _, _ => (die d).droops
  | _, some e, _ => (s.port e).lnkst
  | _, _, some d => (die d).fwver
  | _, _, _ => match off with
    | 0x000 => Config.devid
    | 0x004 => BitVec.ofNat 32 s.rstCause.toNat
    | 0x008 => s.virst
    | 0x00C => s.diemap
    | 0x010 => s.hlmodWord
    | 0x100 => s.nmp.hacc
    | 0x104 => s.nmp.diss
    | 0x108 => s.nmp.dack
    | 0x10C => s.nmp.ctl
    | 0x110 => s.nmp.err
    | 0x180 => s.eccc
    | 0x184 => s.eccu
    | 0x188 => s.eccloc
    | _ => 0#32

end Sys2Proof.Machine
end

