-- ==== Sys2Proof/Safety.lean ====
section
/-! DEFINITION. The terms in which claims speak: what counts as a safe run, the region in focus, how much of the machine a step may
have changed, and the effect of an entry on the state whose link words it has taken. -/

namespace Sys2Proof.Safety

open Sys2Proof Sys2Proof.Machine

/-- A state from which the next step gives a next state: no fault and no refusal. -/
def Goes (s : State) : Prop := ∃ t, step s = .next t

/-- The region in focus is bound. -/
def Bound (s : State) : Prop := (s.regions.find s.focus.r).isSome = true

/-! ## How much has changed -/

/-- Nothing outside the bound regions differs. -/
def OnlyRegions (s t : State) : Prop := t = { s with regions := t.regions }

/-- Nothing outside the region in focus differs. -/
def OnlyRegion (s t : State) : Prop := OnlyRegions s t ∧ ∀ r, r ≠ s.focus.r → t.regions.find r = s.regions.find r

/-- Nothing differs but the running fabric of the region in focus and its event counts. -/
def OnlyFabric (s t : State) : Prop := OnlyRegion s t ∧ t.rg = { s.rg with now := t.rg.now, counts := t.rg.counts }

/-- Nothing differs but elements of the region in focus and its event counts. -/
def OnlyElems (s t : State) : Prop := OnlyFabric s t ∧ t.rg.now = { s.rg.now with elems := t.rg.now.elems }

/-- Nothing differs but the element in focus and the region's event counts. -/
def OnlyElem (s t : State) : Prop :=
  OnlyElems s t ∧ ∀ k, k ≠ elemKey s.focus.sg s.focus.x s.focus.y → t.rg.now.elems.find k = s.rg.now.elems.find k

/-- Every byte of device memory, as coherent agents see it and as it stands in DRAM, and of host memory reads as before. -/
def SameMemory (s t : State) : Prop :=
  ∀ a, t.coh.read a = s.coh.read a ∧ t.dram.read a = s.dram.read a ∧ t.host.read a = s.host.read a

/-! ## The effect of an entry that fires -/

/-- No source of an entry stands in its way: none is an empty or cut link, pending or poisoned. -/
def Readable (s : State) (srcs : List Nat) : Prop := s.srcsChk srcs = .ok

/-- No destination stands in its way: none is a full or cut link, or pending. -/
def Writable (s : State) (dsts : List Nat) : Prop := ∀ d ∈ dsts, s.dstChk d = .ok

/-- The state after an entry that takes its sources' link words, has effect `eff`, and is counted as fired (R101, R259). -/
def fired (s : State) (srcs : List Nat) (eff : State → State) : State := (eff (s.consume srcs)).count 0x01

/-- The entry `i` completes when its sources can be read and its destinations written: it has effect `eff` and no other. -/
def Fires (i : Instr) (s : State) (srcs dsts : List Nat) (eff : State → State) : Prop :=
  Readable s srcs → Writable s dsts → exec i s = .next (fired s srcs eff)

/-- The entry `i` writes `v` to `d` and does nothing else. -/
def Lands (i : Instr) (s : State) (srcs : List Nat) (d : Nat) (v : Word) : Prop :=
  Fires i s srcs [d] (fun t => t.put d v)

/-- A register whose lanes under type `ty` are the lowest bits of the values `g` gives. -/
def LaneWise (ty : Nat) (r : Word) (g : Nat → Int) : Prop :=
  ∀ i, i < 32 / tyWidth ty → lane r (tyWidth ty) i = (nN (tyWidth ty) (g i)).toNat

/-! ## The operands of an entry, as its effect names them (R299, R306, R308) -/

/-- The operands A and B of a format-T entry, and those of a format-F entry. -/
def opA (s : State) (f : FT) : Word := s.srcM f.a.toNat f.am.toNat
def opB (s : State) (f : FT) : Word := s.srcM f.b.toNat f.bm.toNat
def opA3 (s : State) (f : FF) : Word := s.srcM f.a.toNat f.am.toNat
def opB3 (s : State) (f : FF) : Word := s.srcM f.b.toNat f.bm.toNat
def opC3 (s : State) (f : FF) : Word := s.src f.c.toNat

/-- Lanes of A and B: xv and yv, and x and y read unsigned. -/
def xv (s : State) (f : FT) (i : Nat) : Int := laneV f.ty.toNat (opA s f) i
def yv (s : State) (f : FT) (i : Nat) : Int := laneV f.ty.toNat (opB s f) i
def xn (s : State) (f : FT) (i : Nat) : Nat := lane (opA s f) (tyWidth f.ty.toNat) i
def yn (s : State) (f : FT) (i : Nat) : Nat := lane (opB s f) (tyWidth f.ty.toNat) i

/-- The nearest value in a lane's range. -/
def clamp (ty : Nat) (v : Int) : Int :=
  if tySigned ty then Max.max (-(2 ^ (tyWidth ty - 1))) (Min.min (2 ^ (tyWidth ty - 1) - 1) v)
  else Max.max 0 (Min.min (2 ^ tyWidth ty - 1) v)

/-- A lane operation of two sources, or of one, whose lane i is `g i`. -/
def Lane2 (i : Instr) (f : FT) (s : State) (g : Nat → Int) : Prop :=
  ∃ v, Lands i s [f.a.toNat, f.b.toNat] f.d.toNat v ∧ LaneWise f.ty.toNat v g
def Lane1 (i : Instr) (f : FT) (s : State) (g : Nat → Int) : Prop :=
  ∃ v, Lands i s [f.a.toNat] f.d.toNat v ∧ LaneWise f.ty.toNat v g

/-- The lane condition of CMP by SUB[2:0] (R321). -/
def cmpCond (s : State) (f : FT) (i : Nat) : Prop :=
  match f.sub.toNat % 8 with
  | 0 => xv s f i = yv s f i
  | 1 => xv s f i ≠ yv s f i
  | 2 => xv s f i < yv s f i
  | 3 => xv s f i ≥ yv s f i
  | 4 => xv s f i ≤ yv s f i
  | 5 => xv s f i > yv s f i
  | 6 => xn s f i &&& yn s f i ≠ 0
  | _ => xn s f i &&& yn s f i = 0

/-- A float lane operation whose lane i holds the code `g i`. -/
def LaneF2 (i : Instr) (f : FT) (s : State) (g : Nat → Nat) : Prop := Lane2 i f s (fun k => (g k : Int))
def LaneF1 (i : Instr) (f : FT) (s : State) (g : Nat → Nat) : Prop := Lane1 i f s (fun k => (g k : Int))

/-- The three sources of a format-F entry land `v` in D. -/
def Lands3 (i : Instr) (f : FF) (s : State) (v : Word) : Prop := Lands i s [f.a.toNat, f.b.toNat, f.c.toNat] f.d.toNat v

/-- A window is opened in the element in focus, already met where `res` is a value; its destination must not be pending (R401). -/
def OpensWait (i : Instr) (f : FW) (s : State) (srcs : List Nat) (kind : WinKind) (res : Option Word) : Prop :=
  Fires i s srcs [f.d.toNat] (fun t => t.openWin kind f.d.toNat f.win.toNat f.wm.toNat res)

/-- The value of chained counter n as it stood. -/
def ctr (s : State) (n : Nat) : Counter := s.oldE.c.get Counter.zero n

/-- One token of id t taken by the element in focus. -/
def tokenTaken (t : Nat) (s : State) : State :=
  s.modE (fun e => { e with tok := e.tok.set t (e.tok.get 0 t - 1) })

/-- A wait of an entry of format W without sources, met at fire exactly where `p` holds. -/
def WaitsIf (i : Instr) (f : FW) (s : State) (kind : WinKind) (p : Prop) : Prop :=
  ∃ res, OpensWait i f s [] kind res ∧ (res = some 1#32 ∨ res = none) ∧ (res = some 1#32 ↔ p)

/-! ## Places that an entry reads and writes (R131, R133, R229, R253, R338, R340) -/

/-- `n` bytes at local offset `off`, distance `j`, can be read: they stand at `a`, with no pending or poisoned part, and their tags
agree. -/
def LocalReadable (s : State) (off j n a : Nat) : Prop := s.localRead off j n = (.ok, a) ∧ s.poisonChk a n = .ok

/-- `n` bytes at local offset `off`, distance `j`, can be written: they stand at `a` in group `g`. -/
def LocalWritable (s : State) (off j n a g : Nat) : Prop := s.localWrite off j n = (.ok, a, g)

/-- An access of `n` bytes on stream `sn` lies in the stream's extent, at `va`, and neither a range entry that it hits nor the tables
that its walks will find forbid it (R141, R340, R438). -/
def StreamAccess (s : State) (sn n va : Nat) (write : Bool) : Prop :=
  s.streamAt sn n = (.ok, va) ∧ s.issueChk va n write = .ok

/-- No bank of a range of the element in focus is waking. -/
def Awake (s : State) (a n : Nat) : Prop := ∀ b ∈ banksOf a n, s.oldE.waking.contains b = false

/-- The little-endian word of `n` bytes of the element in focus, as they stood. -/
def localWord (s : State) (a n : Nat) : Word := BitVec.ofNat 32 (leNat (s.sramOld a n))

/-- The control fields of folio fx can be read: no FOLD of it is pending, and they hold no poison (R216, R223, R401). -/
def ControlReadable (s : State) (fx : Nat) : Prop := s.folding fx = false ∧ s.ctlChk fx = .ok

/-- The dialogue context can be read and changed: no entry has its fields pending (R229). -/
def ContextFree (s : State) : Prop := s.ctxFree false = .ok ∧ s.ctxFree true = .ok

/-! ## Host messages (R38, R42 to R44) -/

/-- The part takes host messages: it is neither viral nor held, and no recovery hold stands; the message in focus has not waited. -/
def Listens (s : State) : Prop := s.focus.n ≠ 1 ∧ s.viral = false ∧ s.held = false ∧ s.nmp.held = false

/-- A host message with header h is taken up when it arrives: it is the next in sequence, and no effect of an earlier message of its
function is awaited. -/
def Arrives (s : State) (h : MsgHdr) : Prop :=
  Listens s ∧ h.seq = s.nmp.hacc + 1#32 ∧ (s.accept h).holdsBack h.func.toNat = false

/-- The message's header is sound, its kind is one that its function may send, and the function can send. -/
def WellSent (s : State) (h : MsgHdr) (mgmt : Bool) : Prop :=
  h.bad = false ∧ (mgmt = true → h.func = 0#6) ∧ s.sends h.func.toNat = true

/-- The state after a message has been accepted and acknowledged with a status. -/
def acked (s : State) (h : MsgHdr) (kind status : Nat) : State := (s.accept h).ack h kind status

/-- The message i of a kind is taken up: it is acknowledged with status 0 and has effect `eff`. -/
def TakenUp (i : Instr) (s : State) (h : MsgHdr) (kind : Nat) (mgmt : Bool) (eff : State → State) : Prop :=
  Arrives s h → WellSent s h mgmt → exec i s = .next (eff (acked s h kind 0))

/-- The message i of a kind is refused by the check of its kind: it is acknowledged with a status and has no other effect. -/
def RefusedWith (i : Instr) (s : State) (h : MsgHdr) (kind : Nat) (mgmt : Bool) (status : Nat) : Prop :=
  Arrives s h → WellSent s h mgmt → exec i s = .next (acked s h kind status)

/-! ## Tokens (R115, R119) -/

/-- Signature `q` lies `d` abutment faces from signature `a`, over signatures whose keystones have not passed. -/
def Faces (g : Region) (a : Nat) : Nat → Nat → Prop
  | 0, q => q = a
  | d + 1, q => ∃ p side, side < 4 ∧ Faces g a d p ∧ g.chained p side = some q ∧ (g.sig q).passed = false

/-! ## Memory -/

/-- Device memory, as coherent agents see it and as it stands in DRAM, and host memory are in canonical form. -/
def Canonical (s : State) : Prop := s.coh.wf = true ∧ s.dram.wf = true ∧ s.host.wf = true

/-! ## Rounds (R120, R122) -/

/-- A round of the region in focus begins: it runs, every span starts at counter 0, and the checkpoint is what the running fabric holds. -/
def RoundBegins (s t : State) : Prop :=
  OnlyRegion s t ∧ t.rg.mode = .running ∧ t.rg.ckpt = t.rg.now ∧ t.rg.old = t.rg.now ∧ t.rg.limit = 0 ∧ t.rg.attempt = 0 ∧
  t.rg.now = { s.rg.now with spans := t.rg.now.spans } ∧
  t.rg.now.spans = s.rg.now.spans.map (fun (p : Nat × Span) => (p.1, p.2.startRound))

/-- The element (x, y) of the signature in focus, in the running fabric. -/
def elemNow (s : State) (x y : Nat) : Elem := s.rg.now.elem s.focus.sg x y

end Sys2Proof.Safety
end

