-- ==== Sys2Proof/Certificates/Slice0/Obligations.lean ====
section
/-! DEFINITION. The statements for the provers. -/

open Sys2Proof Sys2Proof.Machine Sys2Proof.Safety

/-! ## Integer entries -/

/-- MOV, MOVI, MOVHI, ADDI, ANDI, ORI, XORI, LEA and NOP complete with the effects of R310. -/
def Obligations.MovesAndImmediates : Prop :=
  ∀ (s : State) (t : FT) (f : FI),
    Lands (.mov t) s [t.a.toNat] t.d.toNat (opA s t) ∧
    Lands (.movi f) s [] f.d.toNat (n32 (sextN 21 f.imm.toNat)) ∧
    Lands (.movhi f) s [f.a.toNat] f.d.toNat (BitVec.ofNat 32 ((s.src f.a.toNat).toNat % 2 ^ 11 + f.imm.toNat * 2 ^ 11)) ∧
    Lands (.addi f) s [f.a.toNat] f.d.toNat (n32 ((s.src f.a.toNat).toNat + sextN 21 f.imm.toNat)) ∧
    Lands (.andi f) s [f.a.toNat] f.d.toNat (s.src f.a.toNat &&& n32 (sextN 21 f.imm.toNat)) ∧
    Lands (.ori f) s [f.a.toNat] f.d.toNat (s.src f.a.toNat ||| n32 (sextN 21 f.imm.toNat)) ∧
    Lands (.xori f) s [f.a.toNat] f.d.toNat (s.src f.a.toNat ^^^ n32 (sextN 21 f.imm.toNat)) ∧
    Lands (.lea t) s [t.a.toNat, t.b.toNat] t.d.toNat (BitVec.ofNat 32 ((opA s t).toNat + (opB s t).toNat * 2 ^ t.sub.toNat)) ∧
    Fires .nop s [] [] (fun u => u)

/-- ADD, SUB, ADDS, SUBS, MIN, MAX, MUL, MULH, NEG and ABS complete, each lane with the result of R312. -/
def Obligations.LaneArithmetic : Prop :=
  ∀ (s : State) (f : FT),
    Lane2 (.add f) f s (fun i => xv s f i + yv s f i) ∧
    Lane2 (.sub f) f s (fun i => xv s f i - yv s f i) ∧
    Lane2 (.adds f) f s (fun i => clamp f.ty.toNat (xv s f i + yv s f i)) ∧
    Lane2 (.subs f) f s (fun i => clamp f.ty.toNat (xv s f i - yv s f i)) ∧
    Lane2 (.min f) f s (fun i => Min.min (xv s f i) (yv s f i)) ∧
    Lane2 (.max f) f s (fun i => Max.max (xv s f i) (yv s f i)) ∧
    Lane2 (.mul f) f s (fun i => xv s f i * yv s f i) ∧
    Lane2 (.mulh f) f s (fun i => (xv s f i * yv s f i).fdiv (2 ^ tyWidth f.ty.toNat)) ∧
    Lane1 (.neg f) f s (fun i => if f.sub = 1#4 then clamp f.ty.toNat (-(xv s f i)) else -(xv s f i)) ∧
    Lane1 (.abs f) f s (fun i => if f.sub = 1#4 then clamp f.ty.toNat |xv s f i| else |xv s f i|)

/-- AND, OR, XOR and ANDN complete on all 32 bits; SHL, SHR, SHRA, ROT, CLZ, POPC and BREV lane by lane (R312); SHI as the shift
of its kind by its count (R316). -/
def Obligations.BitsAndShifts : Prop :=
  ∀ (s : State) (f : FT) (g : FI),
    Lands (.andW f) s [f.a.toNat, f.b.toNat] f.d.toNat (opA s f &&& opB s f) ∧
    Lands (.orW f) s [f.a.toNat, f.b.toNat] f.d.toNat (opA s f ||| opB s f) ∧
    Lands (.xorW f) s [f.a.toNat, f.b.toNat] f.d.toNat (opA s f ^^^ opB s f) ∧
    Lands (.andn f) s [f.a.toNat, f.b.toNat] f.d.toNat (opA s f &&& ~~~(opB s f)) ∧
    Lane2 (.shl f) f s (fun i => if yn s f i ≥ tyWidth f.ty.toNat then 0 else xn s f i * 2 ^ yn s f i) ∧
    Lane2 (.shr f) f s (fun i => (xn s f i : Int).fdiv (2 ^ yn s f i)) ∧
    Lane2 (.shra f) f s (fun i =>
      (sextN (tyWidth f.ty.toNat) (xn s f i)).fdiv (2 ^ Min.min (yn s f i) (tyWidth f.ty.toNat - 1))) ∧
    Lane2 (.rot f) f s (fun i =>
      let k := yn s f i % tyWidth f.ty.toNat
      xn s f i * 2 ^ k + (xn s f i : Int).fdiv (2 ^ (tyWidth f.ty.toNat - k))) ∧
    Lane1 (.clz f) f s (fun i =>
      if xn s f i = 0 then tyWidth f.ty.toNat else tyWidth f.ty.toNat - 1 - Nat.log2 (xn s f i)) ∧
    Lane1 (.popc f) f s (fun i => ((List.range (tyWidth f.ty.toNat)).countP (fun j => (xn s f i).testBit j) : Nat)) ∧
    (∃ v, Lands (.brev f) s [f.a.toNat] f.d.toNat v ∧ ∀ i j, i < 32 / tyWidth f.ty.toNat → j < tyWidth f.ty.toNat →
      (lane v (tyWidth f.ty.toNat) i).testBit j = (xn s f i).testBit (tyWidth f.ty.toNat - 1 - j)) ∧
    Lands (.shi g) s [g.a.toNat] g.d.toNat
      (let x := s.src g.a.toNat
       let n := bitsOf g.imm 4 0
       match bitsOf g.imm 6 5 with
       | 0 => x <<< n
       | 1 => x >>> n
       | 2 => x.sshiftRight n
       | _ => x.rotateLeft n)

/-- MAD, SEL, DOT4 and DOT2 complete with the results of R313. ADDC completes: the sum with carry in D, the carry in pq (R314);
BFX, BFI, PACK, UNPK and SHUF complete with the fields, lanes and bytes of R315, R317 and R318. -/
def Obligations.FieldsAndThreeSources : Prop :=
  (∀ (s : State) (f : FF),
      let ty := f.ty3.toNat
      let a := opA3 s f
      let b := opB3 s f
      let c := opC3 s f
      (∃ v, Lands3 (.mad f) f s v ∧ LaneWise ty v (fun i => laneV ty a i * laneV ty b i + laneV ty c i)) ∧
      (codeP f.c.toNat = true → Lands3 (.sel f) f s (if c = 1#32 then a else b)) ∧
      (codeP f.c.toNat = false → ∃ v, Lands3 (.sel f) f s v ∧
        LaneWise ty v (fun i => if lane c (tyWidth ty) i ≠ 0 then lane a (tyWidth ty) i else lane b (tyWidth ty) i)) ∧
      Lands3 (.dot4 f) f s (n32 (laneV ty a 0 * laneV ty b 0 + laneV ty a 1 * laneV ty b 1 + laneV ty a 2 * laneV ty b 2 +
        laneV ty a 3 * laneV ty b 3 + (if tySigned ty then c.toInt else (c.toNat : Int)))) ∧
      Lands3 (.dot2 f) f s (n32 (laneV ty a 0 * laneV ty b 0 + laneV ty a 1 * laneV ty b 1 +
        (if tySigned ty then c.toInt else (c.toNat : Int))))) ∧
  (∀ (s : State) (f : FT) (g : FI),
      let q := f.sub.toNat % 8
      let sum := (opA s f).toNat + (if f.sub.toNat ≥ 8 then 2 ^ 32 - 1 - (opB s f).toNat else (opB s f).toNat) +
        (if s.pred q then 1 else 0)
      let pos := bitsOf g.imm 4 0
      let len := bitsOf g.imm 9 5 + 1
      let x := (s.src g.a.toNat).toNat
      let old := (s.src g.d.toNat).toNat
      let w := tyWidth f.ty.toNat
      let m := 16 / w
      Fires (.addc f) s [f.a.toNat, f.b.toNat] [f.d.toNat, 96 + q]
        (fun t => (t.put f.d.toNat (BitVec.ofNat 32 sum)).setPred q (decide (2 ^ 32 ≤ sum))) ∧
      Lands (.bfx g) s [g.a.toNat] g.d.toNat
        (if bitAt g.imm 10 then n32 (sextN len (x / 2 ^ pos % 2 ^ len)) else BitVec.ofNat 32 (x / 2 ^ pos % 2 ^ len)) ∧
      Lands (.bfi g) s [g.a.toNat] g.d.toNat
        (n32 ((old : Int) - ((old / 2 ^ pos % 2 ^ len) * 2 ^ pos : Nat) + (x % 2 ^ len * 2 ^ pos : Nat))) ∧
      Lane2 (.pack f) f s (fun i =>
        let v := if i < m then sextN (2 * w) (lane (opA s f) (2 * w) i) else sextN (2 * w) (lane (opB s f) (2 * w) (i - m))
        if f.sub = 1#4 then v else clamp f.ty.toNat v) ∧
      (2 ≤ f.ty.toNat → f.ty.toNat ≤ 7 → ∃ v, Lands (.unpk f) s [f.a.toNat] f.d.toNat v ∧ ∀ j, j < m →
        lane v (2 * w) j = (nN (2 * w) (xv s f (j + (if f.sub = 1#4 then m else 0)))).toNat) ∧
      (∃ v, Lands (.shuf g) s [g.a.toNat] g.d.toNat v ∧ ∀ k, k < 4 → bitsOf g.imm (4 * k + 3) (4 * k) < 6 →
        lane v 8 k = match bitsOf g.imm (4 * k + 3) (4 * k) with
          | 4 => 0
          | 5 => 0xFF
          | b => lane (s.src g.a.toNat) 8 b))

/-- DIV and REM complete: operands read at fire, the exact quotient or remainder ready for the latch in the 20th cycle, whatever
the operands (R319, R320). FDIV and FSQRT complete: the rounded quotient or root is ready for the latch in the 24th cycle after
the fire (R377). -/
def Obligations.Divisions : Prop :=
  (∀ (s : State) (f : FW),
      let u : Int := if bitAt f.sub 0 then (s.src f.a.toNat).toNat else (s.src f.a.toNat).toInt
      let v : Int := if bitAt f.sub 0 then (s.src f.b.toNat).toNat else (s.src f.b.toNat).toInt
      OpensWait (.div f) f s [f.a.toNat, f.b.toNat]
        (.result (s.cycle + 20) (if v = 0 then 0xFFFFFFFF#32 else n32 (u.tdiv v))) none ∧
      OpensWait (.rem f) f s [f.a.toNat, f.b.toNat] (.result (s.cycle + 20) (if v = 0 then n32 u else n32 (u.tmod v))) none) ∧
  (∀ (s : State) (f : FW),
      let x := f32 (s.src f.a.toNat)
      OpensWait (.fdiv f) f s [f.a.toNat, f.b.toNat]
        (.result (s.cycle + 24) (BitVec.ofNat 32 (divRound fp32 f.sub.toNat x (f32 (s.src f.b.toNat))))) none ∧
      OpensWait (.fsqrt f) f s [f.a.toNat] (.result (s.cycle + 24) (BitVec.ofNat 32 (sqrtRound fp32 f.sub.toNat x))) none)

/-- CMP completes: 1 where every lane, or with SUB[3] any lane, meets the condition, else 0 (R321). PSET completes: each predicate
of its mask but p0 is set, inverted or copied (R322). FCMP completes: 1 where every lane, or with SUB[3] any lane, meets its
condition, in which NaN makes only `ne` and `un` true, else 0 (R374). -/
def Obligations.ComparesAndPredicates : Prop :=
  (∀ (s : State) (f : FT) (k : FK),
      let n := 32 / tyWidth f.ty.toNat
      let js := [1, 2, 3, 4, 5, 6, 7].filter (fun j => bitAt k.param j)
      let op := bitsOf k.param 17 16
      (∃ v, Lands (.cmp f) s [f.a.toNat, f.b.toNat] f.d.toNat v ∧ (v = 1#32 ∨ v = 0#32) ∧
        (v = 1#32 ↔ if f.sub.toNat < 8 then ∀ i, i < n → cmpCond s f i else ∃ i, i < n ∧ cmpCond s f i)) ∧
      (op ≠ 3 → Fires (.pset k) s (if op = 2 then [k.a.toNat] else []) (js.map (96 + ·)) (fun t =>
        js.foldl (fun u j => u.setPred j (match op with
          | 0 => bitAt k.param (8 + j)
          | 1 => !(s.pred j)
          | _ => bitAt (s.src k.a.toNat) j)) t))) ∧
  (∀ (s : State) (f : FT),
      let x := fun i => laneF f.ty.toNat (opA s f) i
      let y := fun i => laneF f.ty.toNat (opB s f) i
      let nan := fun i => (x i).isNan || (y i).isNan
      let n := 32 / tyWidth f.ty.toNat
      let cond : Nat → Prop := fun i => match f.sub.toNat % 8 with
        | 0 => nan i = false ∧ FV.eq (x i) (y i) = true
        | 1 => nan i = true ∨ FV.eq (x i) (y i) = false
        | 2 => nan i = false ∧ FV.lt (x i) (y i) = true
        | 3 => nan i = false ∧ FV.lt (x i) (y i) = false
        | 4 => nan i = false ∧ FV.lt (y i) (x i) = false
        | 5 => nan i = false ∧ FV.lt (y i) (x i) = true
        | 6 => nan i = true
        | _ => nan i = false
      ∃ v, Lands (.fcmp f) s [f.a.toNat, f.b.toNat] f.d.toNat v ∧ (v = 1#32 ∨ v = 0#32) ∧
        (v = 1#32 ↔ if f.sub.toNat < 8 then ∀ i, i < n → cond i else ∃ i, i < n ∧ cond i))

/-! ## Control, tokens and waits -/

/-- CNTI, CNTS, CNTV and CNTT complete: CNTI sets value, start value and mode and clears RL, CNTS the value or the start value,
CNTV steps the counters of its mask in mode 10 with their cascades, CNTT tests the counter (R324, R325), where no counter that CNTV steps
by its mask, or that CNTT tests, is poisoned (R253). A step from 0 reloads the
start value and sets RL, another subtracts 1 and clears it; a counter is stepped when it is selected, or when it is chained to the
counter below and that one has just reloaded; no other counter changes (R107, R324). SWS, ROTB, HALTS and ENDP complete: the
span's choice, the rotation base, the halt and the end of the round at its next wrap (R326 to R329). -/
def Obligations.CountersAndSchedules : Prop :=
  (∀ (s : State) (f : FK),
      let n := bitsOf f.param 2 0
      let a := s.src f.a.toNat
      Fires (.cnti f) s [f.a.toNat] [] (fun t => t.modE (fun e =>
        { e.unpoison (regWord (80 + n)) 4 with c := e.c.set n { value := a, start := a, mode := f.param.extractLsb' 3 2, rl := false } })) ∧
      Fires (.cnts f) s [f.a.toNat] [] (fun t => t.modE (fun e =>
        if bitAt f.param 3 then { e with c := e.c.set n { e.c.get Counter.zero n with start := a, rl := false } }
        else { e.unpoison (regWord (80 + n)) 4 with c := e.c.set n { e.c.get Counter.zero n with value := a, rl := false } })) ∧
      ((∀ i, i < 8 → bitAt f.param i = true → (ctr s i).mode = 2#2 → s.wordChk (regWord (80 + i)) 4 = .ok) →
        Fires (.cntv f) s [] [] (fun t => t.modE (fun e =>
          { e with c := stepCounters (fun i k => bitAt f.param i && k.mode == 2#2) e.c }))) ∧
      (bitsOf f.param 4 3 ≠ 3 → s.wordChk (regWord (80 + n)) 4 = .ok → Lands (.cntt f) s [] f.d.toNat (boolWord (match bitsOf f.param 4 3 with
        | 0 => decide ((ctr s n).value = 0#32)
        | 1 => decide ((ctr s n).value ≠ 0#32)
        | _ => (ctr s n).rl)))) ∧
  (∀ (sel : Nat → Counter → Bool) (c : Tbl Counter),
      let old := c.get Counter.zero
      ∃ hit : Nat → Bool,
        (hit 0 = sel 0 (old 0)) ∧
        (∀ i, i < 7 → hit (i + 1) =
          (sel (i + 1) (old (i + 1)) || (hit i && (old i).value == 0#32 && (old (i + 1)).mode == 3#2))) ∧
        ∀ i, i < 8 → (stepCounters sel c).get Counter.zero i =
          if hit i then
            if (old i).value = 0#32 then { old i with value := (old i).start, rl := true }
            else { old i with value := (old i).value - 1#32, rl := false }
          else old i) ∧
  (∀ (s : State) (f : FK),
      Fires (.sws f) s [] []
        (fun t => t.modSpan (fun p => { p with choice := some (bitAt f.param 0), swsAt := some s.cycle })) ∧
      Fires (.rotb f) s (if bitAt f.param 5 then [f.a.toNat] else []) [] (fun t => t.modE (fun e => { e with
        rot := BitVec.ofNat 5 (if bitAt f.param 5 then (s.src f.a.toNat).toNat else bitsOf f.param 4 0) })) ∧
      Fires .halts s [] [] (fun t => t.modSpan (fun p => { p with haltAtWrap := true })) ∧
      Fires .endp s [] [] (fun t => t.modSpan (fun p => { p with endp := true })))

/-- TOKS and TOKT complete: a token is sent, and TOKT lands the pending count and consumes nothing (R330). A token sent arrives at the
end of cycle s + 4 on its own page, and 4 cycles later for each face that it crosses on its shortest way, once at each page that takes its
id: the page declares the id or an element of it receives the id; it enters no page whose keystone has passed (R115, R117, R119). -/
def Obligations.Tokens : Prop :=
  (∀ (s : State) (f : FK),
      Fires (.toks f) s [] [] (fun t => t.sendToken (bitsOf f.param 5 0)) ∧
      Lands (.tokt f) s [] f.d.toNat (BitVec.ofNat 32 (s.oldE.tok.get 0 (bitsOf f.param 5 0)))) ∧
  (∀ (s : State) (id : Nat), Bound s → s.rg.sigs ≠ [] →
      let takes : Nat → Prop := fun sg => (s.rg.sig sg).decl.tokens.testBit id = true ∨
        ∃ e ∈ (s.rg.sig sg).decl.elems, e.recv.testBit id = true
      let own : Tok := { sg := s.focus.sg, id := id, due := s.cycle + 4 }
      ∃ far, (takes s.focus.sg → (s.sendToken id).rg.now.toks = s.rg.now.toks ++ own :: far) ∧
        (¬ takes s.focus.sg → (s.sendToken id).rg.now.toks = s.rg.now.toks ++ far) ∧
        (∀ k ∈ far, k.id = id ∧ k.sg ≠ s.focus.sg ∧ takes k.sg ∧ (s.rg.sig k.sg).passed = false ∧
          ∃ d, 1 ≤ d ∧ k.due = s.cycle + 4 + 4 * d ∧ Faces s.rg s.focus.sg d k.sg ∧ ∀ c, c < d → ¬ Faces s.rg s.focus.sg c k.sg) ∧
        (∀ d q, Faces s.rg s.focus.sg d q → q ≠ s.focus.sg → takes q → ∃ k ∈ far, k.sg = q) ∧
        (far.map (·.sg)).Nodup)

/-- LOOPE completes: it reads its counter as it stood at the end of the previous cycle and sends CTOK, XTOK or nothing, as TOKS would send
it; the counters of its element stay as they are (R333). A counter that is poisoned it consumes instead, which raises 0x70 (R253). -/
def Obligations.LoopEnd : Prop :=
  ∀ (s : State) (f : FK),
    let n := (ctr s (bitsOf f.param 14 12)).value
    let send := fun (t : Nat) (u : State) => u.sendToken t
    let sent : State → State :=
      if n ≠ 0#32 then send (bitsOf f.param 5 0) else if bitAt f.param 15 then send (bitsOf f.param 11 6) else fun u => u
    (s.wordChk (regWord (80 + bitsOf f.param 14 12)) 4 = .ok → Fires (.loope f) s [] [] sent) ∧
    (s.wordChk (regWord (80 + bitsOf f.param 14 12)) 4 ≠ .ok → exec (.loope f) s = .next (s.raiseHere 0x70 0)) ∧
    (fired s [] sent).nowE.c = s.nowE.c ∧
    ∀ k : FK, Fires (.toks k) s [] [] (send (bitsOf k.param 5 0))

/-- TOKW and LOOPB complete: with a token pending they take one in their step and the wait is met, with LD the counter is loaded;
else the wait opens unmet (R331, R332). WAITW, LATCH, CPYW, BARW, KEYW and DRAIN complete: each opens its window, met at fire
where its condition held at the end of the previous cycle (R334, R335, R353, R364, R367, R368, R369); LATCH takes a word present at
fire, and a CPYW that is met notes the outside ranges of its copies, which a REL at system scope orders (R173). The cycle in which a
condition is looked at is the model's reading (log 26). -/
def Obligations.Waits : Prop :=
  (∀ (s : State) (f : FW) (k : FK),
      let t := f.b.toNat
      let u := bitsOf k.param 5 0
      let n := bitsOf k.param 8 6
      (s.oldE.tok.get 0 t ≠ 0 → Fires (.tokw f) s [] []
        (fun x => (tokenTaken t x).openWin (.token t none) 72 f.win.toNat f.wm.toNat (some 1#32))) ∧
      (s.oldE.tok.get 0 t = 0 → Fires (.tokw f) s [] []
        (fun x => x.openWin (.token t none) 72 f.win.toNat f.wm.toNat none)) ∧
      (s.oldE.tok.get 0 u ≠ 0 → bitAt k.param 9 = false → Fires (.loopb k) s [] []
        (fun x => (tokenTaken u x).openWin (.token u none) 72 1 0 (some 1#32))) ∧
      (s.oldE.tok.get 0 u ≠ 0 → bitAt k.param 9 = true → Fires (.loopb k) s [] []
        (fun x => (x.modE (fun e => e.takeToken u (some n))).openWin (.token u (some n)) 72 1 0 (some 1#32))) ∧
      (s.oldE.tok.get 0 u = 0 → Fires (.loopb k) s [] []
        (fun x => x.openWin (.token u (if bitAt k.param 9 then some n else none)) 72 1 0 none))) ∧
  (∀ (s : State) (f : FW),
      let cls := bitsOf f.b 6 4
      let idx := bitsOf f.b 2 0
      let side := bitsOf f.b 1 0
      (cls = 0 → WaitsIf (.waitw f) f s (.wait 0 idx) ((s.inWords idx ≠ []))) ∧
      (cls = 1 → WaitsIf (.waitw f) f s (.wait 1 idx) ((s.outRoom idx = true))) ∧
      (cls = 2 → WaitsIf (.waitw f) f s (.wait 2 idx) ((∀ r ∈ s.oldE.reads, r.sn ≠ idx))) ∧
      (cls = 3 → WaitsIf (.waitw f) f s (.wait 3 idx) (((s.stream idx).beats ≠ []))) ∧
      (s.rg.link s.focus.sg s.focus.x s.focus.y side ≠ .cut → s.inWords side = [] →
        OpensWait (.latch f) f s [] (.link side) none) ∧
      (∀ v rest, s.rg.link s.focus.sg s.focus.x s.focus.y side ≠ .cut → s.inWords side = v :: rest →
        s.wordChk (regWord (64 + side)) 4 = .ok → Fires (.latch f) s [] [f.d.toNat] (fun t =>
          (t.popIn side).openWin (.link side) f.d.toNat f.win.toNat f.wm.toNat (some v))) ∧
      ((∀ c ∈ s.oldE.copies, c.id = bitsOf f.b 3 0 → c.done = true) → Fires (.cpyw f) s [] [f.d.toNat] (fun t =>
        (t.modE (fun e => { e with waited := (e.waited ++ (e.copies.filter (fun c => c.id == bitsOf f.b 3 0 && c.dstLocal.isNone)).map
          (fun c => (c.dst, c.len))).dedup })).openWin (.copy (bitsOf f.b 3 0)) f.d.toNat f.win.toNat f.wm.toNat (some 1#32))) ∧
      (¬(∀ c ∈ s.oldE.copies, c.id = bitsOf f.b 3 0 → c.done = true) → OpensWait (.cpyw f) f s [] (.copy (bitsOf f.b 3 0)) none) ∧
      WaitsIf (.barw f) f s (.barrier (bitsOf f.b 3 0))
        ((s.oldE.pha.get 0 (bitsOf f.b 3 0) ≤ (s.rg.old.bars.get Barrier.zero (s.barOf (bitsOf f.b 3 0))).done)) ∧
      WaitsIf (.keyw f) f s (.keystone side)
        ((∃ q, s.rg.chained s.focus.sg side = some q ∧ (s.rg.sig q).passed = true ∧ (s.rg.sig q).passedAt ≤ s.cycle)) ∧
      WaitsIf (.drain f) f s (.drain (drainMask f))
        ((∀ i ∈ s.rg.commit, i.sg = s.focus.sg → i.x = s.focus.x → i.y = s.focus.y → (drainMask f).testBit i.sn = false)))

/-! ## Local memory and streams -/

/-- LDL and STL complete: the bytes at the aligned offset land zero-extended and their blocks are marked as read; the low bytes of
the register are stored with the group's expected tag (R341, R132, R133). FPUSH, FPOP, LBSH, LBRD, STAG and BUFSW complete: a word
joins the tail of its FIFO where there is room, or leaves its head; a word enters its line buffer at the column of the line in
filling, or is read at a line and column taken modulo its size; the expected tag is set; the next buffer becomes current and the
expected tag advances (R128 to R130, R348). -/
def Obligations.LocalMemory : Prop :=
  (∀ (s : State) (f : FM) (a g : Nat),
      let n := match bitsOf f.mode 1 0 with | 0 => 4 | 1 => 2 | _ => 1
      let idx := bitAt f.mode 3
      let off := alignDown (bitsOf f.off 17 0 + (if idx then (s.src f.strm.toNat).toNat else 0)) n
      (LocalReadable s off 0 n a → Fires (.ldl f) s (if idx then [f.strm.toNat] else []) [f.d.toNat] (fun t =>
        (t.put f.d.toNat (localWord s a n)).modE (fun e => e.markRead a n))) ∧
      (LocalWritable s off 0 n a g → Fires (.stl f) s (f.d.toNat :: (if idx then [f.strm.toNat] else [])) [] (fun t =>
        t.modE (fun e => e.writeSram a (leBytes n (s.src f.d.toNat).toNat) (.loc (s.grp g).e))))) ∧
  (∀ (s : State) (f : FM) (d : GroupDecl),
      let i := f.mode.toNat
      s.group i = some d → d.i = i →
      ((s.grp i).q.length + (s.grp i).promised + 1 ≤ d.n → Awake s d.base d.bytes →
        Fires (.fpush f) s [f.d.toNat] [] (fun t => t.modE (fun e =>
          let k := e.grps.get Grp.zero i
          (e.writeRaw (d.base + 4 * ((k.head + k.q.length) % d.n)) (leBytes 4 (s.src f.d.toNat).toNat)).modGrp i (fun g =>
            { g with q := g.q ++ [s.src f.d.toNat] })))) ∧
      (∀ v rest, (s.grp i).q = v :: rest → Awake s d.base d.bytes → s.poisonChk (d.base + 4 * (((s.grp i).head + 0) % d.n)) 4 = .ok →
        Fires (.fpop f) s [] [f.d.toNat] (fun t =>
          (t.put f.d.toNat v).modE (fun e => e.modGrp i (fun g => { g with q := g.q.drop 1, head := (g.head + 1) % d.n })))) ∧
      (let a := d.base + ((s.grp i).hl * d.wd + (s.grp i).col) * 4
       Awake s a 4 → Fires (.lbsh f) s [f.d.toNat] [] (fun t => t.modE (fun e =>
         (e.writeRaw a (leBytes 4 (s.src f.d.toNat).toNat)).modGrp i (fun k =>
           if k.col + 1 = d.wd then { k with col := 0, hl := (k.hl + 1) % d.n } else { k with col := k.col + 1 })))) ∧
      (let x := s.src (bitsOf f.off 18 15)
       let line := f.strm.toNat + (if bitAt f.off 20 then bitsOf x 31 16 else 0)
       let col := bitsOf f.off 14 0 + (if bitAt f.off 19 then bitsOf x 15 0 else 0)
       let a := d.base + (((((s.grp i).hl : Int) - 1 - line) % (d.n : Int)).toNat * d.wd + col % d.wd) * 4
       Awake s a 4 → s.poisonChk a 4 = .ok →
         Lands (.lbrd f) s (if bitAt f.off 20 || bitAt f.off 19 then [bitsOf f.off 18 15] else []) f.d.toNat (localWord s a 4)) ∧
      Fires (.stag f) s [f.d.toNat] [] (fun t =>
        t.modE (fun e => e.modGrp i (fun g => { g with e := BitVec.ofNat 8 (s.src f.d.toNat).toNat }))) ∧
      Fires (.bufsw f) s [] [] (fun t =>
        t.modE (fun e => e.modGrp i (fun g => { g with cur := (g.cur + 1) % d.n, e := g.e + 1#8 }))))

/-- LDS and STS complete: LDS issues one read whose bytes will land at its local place, or promises its FIFO the words, an acquire
read where an ACQ is pending; STS stages the bytes at its local place as a store of its stream, a release store where a REL is
pending; bytes of a compressible buffer are charged; the stream advances unless NA is set (R71, R173, R174, R340, R342 to R344). That
a store's walk starts at issue is the model's reading (log 21). HEPR and HEPW complete: HEPR lands the word at POS of its fetched
beat, HEPW appends a word to a queue with room, and full beats enter the commit buffer where its half has room (R110, R121, R345,
R346). With no ACQ pending the reads of an entry are plain reads, and with no REL pending its stores are plain stores. -/
def Obligations.StreamEntries : Prop :=
  (∀ (s : State) (f : FM) (va a g : Nat),
      let size := match bitsOf f.mode 1 0 with | 0 => 4 | 1 => 64 | 2 => 256 | _ => 1024
      let sn := f.strm.toNat
      let off := alignDown (bitsOf f.off 17 0 + (s.src f.d.toNat).toNat) size
      let bt := bitAt f.off 18
      let na := bitAt f.off 19
      (StreamAccess s sn size va false → s.ldsTarget off (bitsOf f.mode 3 2) size = (.ok, a, none) →
        Fires (.lds f) s [f.d.toNat] [] (fun t =>
          ((t.asAcquire sn (fun u => u.issueRead sn va size a none bt false 0)).cmpBytes va size).advance sn size na)) ∧
      (StreamAccess s sn size va false → s.ldsTarget off (bitsOf f.mode 3 2) size = (.ok, a, some g) →
        Fires (.lds f) s [f.d.toNat] [] (fun t =>
          (((t.modE (fun e => e.modGrp g (fun k => { k with promised := k.promised + size / 4 }))).asAcquire sn (fun u =>
            u.issueRead sn va size a (some g) bt false 0)).cmpBytes va size).advance sn size na)) ∧
      (StreamAccess s sn size va true → LocalReadable s off (bitsOf f.mode 3 2) size a → s.feedChk sn = .ok →
        Fires (.sts f) s [f.d.toNat] [] (fun t =>
          ((((t.walkStore va size).asRelease sn (fun u => u.putStore sn va (s.sramOld a size))).cmpBytes va size).advance
            sn size na).modE (fun e => e.markRead a size)))) ∧
  (∀ (s : State) (sn : Nat) (issue : State → State),
      (s.nowE.acqNext.find sn = none → s.asAcquire sn issue = issue s) ∧
      (sn ∉ s.nowE.relNext → s.asRelease sn issue = issue s)) ∧
  (∀ (s : State) (f : FM) (pos : Nat) (beat : List Byte),
      let sn := f.strm.toNat
      s.streamAt sn 4 = (.ok, pos) →
      ((s.stream sn).beats.find? (fun q => q.1 == alignDown pos 64) = some (alignDown pos 64, beat) →
        Fires (.hepr f) s [] [f.d.toNat] (fun t =>
          let u := t.put f.d.toNat (BitVec.ofNat 32 (leAt beat (pos % 64) 4))
          if bitAt f.mode 0 then u
          else u.modE (fun e => e.modStream sn (fun k => { k with
            pos := k.pos + 4
            beats := if (pos + 4) % 64 = 0 then k.beats.filter (fun q => q.1 != alignDown pos 64) else k.beats })))) ∧
      ((s.stream sn).part.length < 64 * 16 → Fires (.hepw f) s [f.d.toNat] [] (fun t =>
        let u := t.modE (fun e => e.modStream sn (fun k => { k with
          pos := k.pos + 4, part := k.part ++ [(pos, leBytes 4 (s.src f.d.toNat).toNat)] }))
        let queued := 4 * (u.nowE.streams.get Stream.none sn).part.length
        if (pos + 4) % 64 = 0 ∧ u.halfBytes + queued ≤ 128 * 1024 then u.flushBeat sn else u)))

/-- SOPEN, SMARK, SREW, SCLOSE, HINT and PREF complete: position, stride, mark and hint of the stream, the discarded queue of an
endpoint read stream, and the lines that PREF reads ahead, each filled where its walks find it present and skipped where not (R137, R347,
R361). That the walks of a PREF are complete in its step is the model's reading (log 21). -/
def Obligations.StreamPositions : Prop :=
  ∀ (s : State) (f : FM) (k : FK),
    let sn := f.strm.toNat
    let st := s.stream sn
    let own := ((s.streamDecl sn).map (·.hint)).getD 0
    let fresh : Stream → Stream := fun q => { q with beats := [], fetch := q.pos - q.pos % 64, due := s.cycle + 1 }
    Fires (.sopen k) s [k.a.toNat] [] (fun t => t.modE (fun e => e.modStream (bitsOf k.param 2 0) (fun q => fresh { q with
      pos := (((s.src k.a.toNat).toNat * (if bitAt k.param 3 then 1024 else 1) : Nat) : Int)
      stride := if bitAt k.param 4 then q.stride else 4 * sextN 16 (bitsOf k.param 20 5) }))) ∧
    Fires (.smark f) s [] [] (fun t => t.modE (fun e => e.modStream sn (fun q => { q with mark := q.pos }))) ∧
    Fires (.srew f) s [] [] (fun t => t.modE (fun e => e.modStream sn (fun q =>
      fresh { q with pos := q.mark + f.off.toInt }))) ∧
    (s.isEndpoint sn = false → Fires (.sclose f) s [] [] (fun t =>
      (t.flushBeat sn).modE (fun e => e.modStream sn (fun q => { q with hint := own, readAhead := [] })))) ∧
    (s.isEndpoint sn = true → Fires (.sclose f) s [] [] (fun t =>
      (t.flushBeat sn).modE (fun e => e.modStream sn (fun q =>
        if (s.streamDecl sn).map (·.kind) = some 1 ∧ q.pos % 64 ≠ 0 then
          { q with hint := own, readAhead := [], pos := q.pos - q.pos % 64 + 64, fetch := max q.fetch (q.pos - q.pos % 64 + 64)
                   beats := q.beats.filter (fun b => decide ((b.1 : Int) ≠ q.pos - q.pos % 64)) }
        else { q with hint := own, readAhead := [] })))) ∧
    Fires (.hint f) s [] [] (fun t => t.modE (fun e => e.modStream sn (fun q => { q with hint := bitsOf f.mode 1 0 }))) ∧
    (let first : Int := (st.base + st.pos) / 256 * 256
     let lines := ((List.range (bitsOf f.off 7 0 + 1)).map (fun i : Nat => first + 256 * i)).filter (fun v =>
       decide ((st.base : Int) < v + 256) && decide (v < st.base + st.ext))
     Fires (.pref f) s [] [] (fun t =>
       if st.hint = 2 then t
       else (lines.foldl (fun (u : State) v =>
           let u := u.prefWalk v.toNat 256
           if (u.transVas v.toNat 256).all (fun a => (u.paOf u.rg.func a).isSome) then
             u.touchVa u.rg.func u.page v.toNat 256 st.hint
           else u) t).modE (fun e => e.modStream sn (fun q => { q with readAhead := q.readAhead ++ lines.map Int.toNat }))))

/-- GATH and SCAT complete: with every index, row and local place in order, one read, or one staged store, goes out per row, in
ascending row, all of them acquire reads, or one release store, where an ACQ or REL is pending (R173, R174, R355, R363); the KiB
moved are counted (R259). That a store's walk starts at issue, and that the KiB are counted at issue and rounded up, are the model's
readings (log 21, 54). -/
def Obligations.GatherAndScatter : Prop :=
  ∀ (s : State) (f : FM) (base : Nat) (ix rows : List Nat) (places : List (Nat × Nat)),
    let size := match bitsOf f.mode 1 0 with | 0 => 4 | 1 => 64 | 2 => 256 | _ => 1024
    let n := bitsOf f.off 20 12 + 1
    let sn := f.strm.toNat
    let j := bitsOf f.mode 3 2
    let place := fun k => alignDown (bitsOf f.off 11 0 * 64 + k * size) size
    s.indices f = (.ok, base, ix) → s.pageCmds < 1024 → places.length = n →
    (s.rowAddrs sn size false ix = (.ok, rows) →
      (∀ k, k < n → s.localWrite (place k) j size = (.ok, (places.getD k (0, 0)).1, (places.getD k (0, 0)).2)) →
      Fires (.gath f) s [f.d.toNat] [] (fun t =>
        ((t.fresh.2.asAcquire sn (fun v => (rows.zip places).foldl (fun (u : State) p =>
          u.issueRead sn p.1 size p.2.1 none false true t.fresh.1) v)).engineKib (n * size)).modE (fun e => e.markRead base (4 * n)))) ∧
    (s.rowAddrs sn size true ix = (.ok, rows) → s.feedChk sn = .ok →
      (∀ k, k < n → LocalReadable s (place k) j size (places.getD k (0, 0)).1) →
      Fires (.scat f) s [f.d.toNat] [] (fun t =>
        (((t.asRelease sn (fun v => (rows.zip places).foldl (fun (u : State) p =>
          ((u.walkStore p.1 size).putStore sn p.1 (s.sramOld p.2.1 size)).modE (fun e => e.markRead p.2.1 size)) v)).engineKib
          (n * size)).modR (fun g => { g with roundBytes := g.roundBytes + n * size })).modE (fun e =>
            { e.markRead base (4 * n) with scatAt := s.cycle + 1 })))

/-- RMW completes: the operand, and for CAS the compared word, are captured as a staged access of its stream, which advances
unless NA is set; a pending acquire of the stream is attached to it, and holds later reads and stores behind it (R357, R174). That its
walk starts at issue is the model's reading (log 21). CMO, RETN, UNPIN, ROWREL, TRAP, PMCF, PMWR and HALT complete: each only takes its
place in the commit buffer of its round, with its operand, RETN and UNPIN behind the earlier stores of their element and before its later
ones (R160, R359, R360, R413, R415, R417). CPY and CPYT complete: a well-formed descriptor whose sides lie
where they may starts a copy in its slot, which the last copy has left, with nothing moved yet; CPYT gives it the descriptor's tag
(R349 to R352). -/
def Obligations.CommittedEntries : Prop :=
  (∀ (s : State) (f : FM) (va c a g : Nat),
      let sn := f.strm.toNat
      let off := alignDown (bitsOf f.off 17 0) 4
      let cas : Prop := f.mode = 7#4
      let ret := bitAt f.off 20
      let acq := s.nowE.acqNext.find sn
      StreamAccess s sn 4 va true → (cas → LocalReadable s off 0 4 c) → (ret = true → LocalWritable s off 0 4 a g) →
      Fires (.rmw f) s [f.d.toNat] [] (fun t =>
        let id := t.fresh.1
        let act : Act := .rmw va f.mode.toNat (s.src f.d.toNat) (if cas then localWord s c 4 else 0#32)
          (if ret then some a else none) (s.stream sn).hint id acq
        ((((t.fresh.2.walkStore va 4).asRelease sn (fun u => u.stage sn act)).cmpBytes va 4).advance sn 4 (bitAt f.off 19)).modE
          (fun e =>
            let e := if cas then e.markRead c 4 else e
            if acq.isSome then
              { (e.addOrder { held := accessStreams, named := [], ids := [id], at_ := 0, rnd := s.rg.rnd } s.cycle).holdEpoch
                  accessStreams (e.epochAfter (2 ^ sn) false) with acqNext := e.acqNext.del sn }
            else e))) ∧
  (∀ (s : State) (f : FK),
      let a := s.src f.a.toNat
      let range := s.cmoSpan (bitsOf f.param 2 0) a.toNat
      let st := s.stream (bitsOf f.param 5 3)
      let placed := fun (act : Act) (t : State) =>
        let ep := Max.max (t.nowE.epochAfter 0x7FF false - 1) (t.nowE.epoch.get 0 10)
        (t.stageAt 10 ep act).modE (fun e => (e.holdEpoch 0x7FF ep).useEpoch 10 ep false)
      Fires (.cmo f) s [f.a.toNat] [] (fun t =>
        t.stage (bitsOf f.param 2 0) (.cmo range.1 range.2 (bitsOf f.param 4 3) (bitsOf f.param 5 5))) ∧
      Fires (.retn f) s [f.a.toNat] [] (placed
        (.retn (bitsOf f.param 2 0) (alignDown ((st.base : Int) + st.pos).toNat 256) (Min.min a.toNat (2 ^ 24)))) ∧
      Fires (.unpin f) s [] [] (placed (.unpin (bitsOf f.param 2 0))) ∧
      Fires (.rowrel f) s [] [] (fun t => t.stage 9 (.rowRel (bitsOf f.param 5 0))) ∧
      (bitAt f.param 16 = true → Fires (.trap f) s [f.a.toNat] [] (fun t =>
        t.stageAt 10 t.oldSpan.periods (.event 0 (BitVec.ofNat 32 (a.toNat % 2 ^ 31)) s.focus.stamp))) ∧
      (bitAt f.param 16 = false → Fires (.trap f) s [] [] (fun t =>
        t.stageAt 10 t.oldSpan.periods (.event 0 (BitVec.ofNat 32 (bitsOf f.param 15 0)) s.focus.stamp))) ∧
      (bitAt f.param 2 = true → Fires (.pmcf f) s [] [] (fun t =>
        t.stage 10 (.pmcf (bitsOf f.param 1 0)
          (BitVec.ofNat 32 (2 ^ 31 + bitsOf f.param 3 3 * 2 ^ 30 + bitsOf f.param 11 4))))) ∧
      (bitAt f.param 2 = false → Fires (.pmcf f) s [f.a.toNat] [] (fun t =>
        t.stage 10 (.pmcf (bitsOf f.param 1 0) (a &&& 0xFFC000FF#32)))) ∧
      Fires (.pmwr f) s [f.a.toNat] [] (fun t => t.stage 10 (.pmwr (bitsOf f.param 3 0) a)) ∧
      Fires .halt s [] [] (fun t => t.stage 10 .halt)) ∧
  (∀ (s : State) (f : FK) (a len : Nat) (src dst : CopySide) (tagged : Bool),
      let cid := bitsOf f.param 3 0
      let d := s.sramOld a 32
      LocalReadable s (alignDown (s.src f.a.toNat).toNat 32) 0 32 a → s.copyDesc d tagged = some (src, dst, len) →
      s.copySideChk src len = .ok → s.copySideChk dst len = .ok →
      (∀ c ∈ s.oldE.copies, c.id = cid → c.done = true) → s.pageCmds < 1024 →
      Fires (if tagged then .cpyt f else .cpy f) s [f.a.toNat] [] (fun t =>
        t.lat.2.modE (fun e => { e.markRead a 32 with copies := e.copies.filter (fun q => q.id != cid) ++
          [{ id := cid, src := src.va, dst := dst.va, srcLocal := src.here, dstLocal := dst.here, len := len, prog := 0
             tag := if tagged then some (BitVec.ofNat 8 (leAt d 21 1)) else none, hint := leAt d 22 1, want := s.copyWant src
             piece := [], bad := [], done := false
             due := s.cycle + t.lat.1, stamp := s.focus.stamp, sched := s.focus.sched }] })))

/-! ## Ordering, barriers, the keystone -/

/-- SBAR, FENCE, REL and ACQ complete. SBAR holds each stream of one mask behind the streams of the other: a later read of it waits for
the reads then outstanding on the named streams and for their committing stores, and its later stores take no epoch below theirs.
FENCE, at die scope and wider, and REL do so for all streams, at die scope for what is homed on the element's die alone; REL stages the
clean of its range and makes the next store of its stream a release store; ACQ makes the next reads of its stream acquire reads (R170
to R174, R362, R363). At system scope FENCE and REL have what they order reach DRAM before later accesses proceed: the buffers that the
element writes, and for REL the destinations of the copies that it has waited on, are cleaned, at once of what earlier rounds have stored
(`State.throughNow`), and in an epoch between the two of what this round stores, which is the model's reading (log 82). -/
def Obligations.OrderingEntries : Prop :=
  (∀ (s : State) (f : FK),
    let scope := bitsOf f.param 2 0
    let sn := bitsOf f.param 5 3
    let rg := bitAt f.param 9
    let range := s.cmoSpan (bitsOf f.param 8 6) (s.src f.a.toNat).toNat
    let all := fun (mask : Nat) (die : Bool) (t : State) => t.modE (fun e => (e.addOrder {
        held := 0x1FF, ids := (e.reads.filter (fun r => mask.testBit r.sn)).map (·.id), at_ := 0, rnd := t.rg.rnd
        named := [{ key := elemKey t.focus.sg t.focus.x t.focus.y, mask := mask, die := die, upto := t.rg.now.nextSeq }] }
      t.cycle).holdEpoch 0x1FF (e.epochAfter mask die))
    let through := fun (mask : Nat) (also : List (Nat × Nat)) (t : State) =>
      let u := all mask false (t.throughNow (t.writtenBufs also))
      let ep := u.nowE.epochAfter mask false
      all mask false ((u.stageAt 8 ep (.through (t.writtenBufs also))).modE (fun e => e.useEpoch 8 ep true))
    let rel := fun (t : State) => if scope = 4 then through 0x9FF s.nowE.waited t else all 0x9FF (scope == 2) t
    Fires (.sbar f) s [] [] (fun t => t.sbar (bitsOf f.param 7 0) (bitsOf f.param 15 8)) ∧
    (scope < 2 → Fires (.fence f) s [] [] (fun t => t)) ∧
    (2 ≤ scope → scope ≠ 4 → Fires (.fence f) s [] [] (all 0x1FF (scope == 2))) ∧
    (scope = 4 → Fires (.fence f) s [] [] (through 0x1FF [])) ∧
    Fires (.rel f) s (if rg then [f.a.toNat] else []) [] (fun t =>
      let t := if rg then (rel t).stage sn (.cmo range.1 range.2 0 (if scope = 4 then 1 else 0)) else rel t
      t.modE (fun e => { e with relNext := insertUniq sn e.relNext, waited := if scope = 4 then [] else e.waited })) ∧
    Fires (.acq f) s (if rg then [f.a.toNat] else []) [] (fun t => t.modE (fun e =>
      { e with acqNext := e.acqNext.set sn ((e.acqNext.find sn).getD [] ++ (if rg ∧ scope = 4 then [range] else [])) }))) ∧
  (∀ (s : State) (named held sn : Nat), Bound s → sn < 8 → held.testBit sn = true →
    let e := (s.sbar named held).nowE
    (∀ r ∈ s.nowE.reads, named.testBit r.sn = true → r.id ∈ (e.waitsOf sn s.rg.rnd).1) ∧
    { key := elemKey s.focus.sg s.focus.x s.focus.y, mask := named, die := false, upto := s.rg.now.nextSeq } ∈
      (e.waitsOf sn s.rg.rnd).2 ∧
    ∀ k, named.testBit k = true → s.nowE.used.get 0 k ≤ e.epoch.get 0 sn)

/-- BARA and BART complete: with fewer than two phases outstanding BARA enters the next phase and sends its arrival with the delay
of its level; with two outstanding its span freezes; BART lands whether DONE has reached PHA (R366, R367). KEYS and HANDL
complete: in the keystone element the first KEYS sends the keystone, to arrive behind every token already sent on the page, and a
second one changes nothing; HANDL writes its handler entry at the end of cycle s + 4 (R118, R336, R368). -/
def Obligations.BarriersAndKeystone : Prop :=
  (∀ (s : State) (f : FK),
      let b := bitsOf f.param 3 0
      let level := bitsOf f.param 5 4
      let key := barKey level s.focus.sg s.spanNo b
      let pha := s.oldE.pha.get 0 b
      let done := (s.rg.old.bars.get Barrier.zero key).done
      let delay := match level with | 0 => 2 | 1 => 4 | _ => 24 + 16 * s.rg.span
      (pha ≠ done + 2 → Fires (.bara f) s [] [] (fun t =>
        (t.modE (fun e => { e with pha := e.pha.set b (pha + 1) })).modNow (fun fb => { fb with
          bars := fb.bars.set key { fb.bars.get Barrier.zero key with
            coming := (fb.bars.get Barrier.zero key).coming ++ [(pha + 1, s.cycle + delay)] } }))) ∧
      (pha = done + 2 → exec (.bara f) s = .next s.stall) ∧
      Lands (.bart f) s [] f.d.toNat
        (boolWord (decide (s.oldE.pha.get 0 b ≤ (s.rg.old.bars.get Barrier.zero (s.barOf b)).done)))) ∧
  (∀ (s : State) (f : FK),
      let sent := fun (t : State) => t.rg.now.keyFired.any (fun k => k.1 == s.focus.sg)
      let word := s.src f.a.toNat &&& 0xFFC0FFFF#32
      (s.focus.x = s.sig.decl.kx → s.focus.y = s.sig.decl.ky → Bound s → sent s = false →
        ∃ due, s.cycle + 4 ≤ due ∧ (∀ k ∈ s.rg.now.toks, k.sg = s.focus.sg → k.due ≤ due) ∧
          Fires .keys s [] [] (fun t => t.modNow (fun fb => { fb with keyFired := fb.keyFired ++ [(s.focus.sg, due)] }))) ∧
      (Bound s → sent s = true → Fires .keys s [] [] (fun t => t)) ∧
      Fires (.handl f) s [f.a.toNat] [] (fun t => t.modNow (fun fb => { fb with hwrites := fb.hwrites ++
        [{ sg := s.focus.sg, e := bitsOf f.param 3 0, word := word, due := s.cycle + 4, y := s.focus.y, x := s.focus.x }] })))

/-! ## Float entries -/

/-- FADD, FSUB, FMUL, FMIN, FMAX, FABS, FNEG, FRND, FSCL and FCLS complete: each lane is the exact result of the lanes' values
rounded once under the entry's mode, the lesser or greater code, or the class (R370, R372, R373, R375). -/
def Obligations.FloatLanes : Prop :=
  ∀ (s : State) (f : FT),
    let fm := tyFmt f.ty.toNat
    let mode := bitsOf f.sub 2 0
    let x := fun i => laneF f.ty.toNat (opA s f) i
    let y := fun i => laneF f.ty.toNat (opB s f) i
    LaneF2 (.fadd f) f s (fun i => roundFV fm mode (FV.add mode (x i) (y i))) ∧
    LaneF2 (.fsub f) f s (fun i => roundFV fm mode (FV.sub mode (x i) (y i))) ∧
    LaneF2 (.fmul f) f s (fun i => roundFV fm mode (FV.mul (x i) (y i))) ∧
    LaneF2 (.fmin f) f s (fun i => fPick fm false (bitAt f.sub 0) (xn s f i) (yn s f i)) ∧
    LaneF2 (.fmax f) f s (fun i => fPick fm true (bitAt f.sub 0) (xn s f i) (yn s f i)) ∧
    LaneF1 (.fabs f) f s (fun i => roundFV fm 0 (x i).abs) ∧
    LaneF1 (.fneg f) f s (fun i => roundFV fm 0 (x i).negate) ∧
    LaneF1 (.frnd f) f s (fun i => roundFV fm mode (fIntegral mode (x i))) ∧
    LaneF2 (.fscl f) f s (fun i => roundFV fm mode ((x i).scale (Max.max (-1000) (Min.min 1000 (opB s f).toInt)))) ∧
    LaneF1 (.fcls f) f s (fun i => fClass fm (xn s f i))

/-- FMA, FDOT, FSUM, FMAXA, FEX2 and FLG2 complete: FMA rounds each lane's exact sum once, FDOT rounds one exact sum of all the
products and the accumulator, FSUM adds the lanes of A, then of B, as the pairwise tree, FMAXA takes the greatest magnitude, FEX2
and FLG2 are the functions of their rules (R203, R204, R376, R378 to R380). -/
def Obligations.FloatSums : Prop :=
  ∀ (s : State) (f : FT) (g : FF),
    let ty := 8 + g.ty3.toNat
    let n := 32 / tyWidth f.ty.toNat
    let codes := (List.range n).map (xn s f) ++ (List.range n).map (yn s f)
    (∃ v, Lands3 (.fma g) g s v ∧ LaneWise ty v (fun i => (roundFV (tyFmt ty) 0
      (FV.add 0 (FV.mul (laneF ty (opA3 s g) i) (laneF ty (opB3 s g) i)) (laneF ty (opC3 s g) i)) : Nat))) ∧
    Lands3 (.fdot g) g s (roundRneF32 (sumFV 0 ((List.range (32 / tyWidth ty)).map (fun i =>
      FV.mul (laneF ty (opA3 s g) i) (laneF ty (opB3 s g) i)) ++ [f32 (opC3 s g)]))) ∧
    Lands (.fsum f) s [f.a.toNat, f.b.toNat] f.d.toNat
      (BitVec.ofNat 32 (treeSum (tyFmt f.ty.toNat) (bitsOf f.sub 2 0) codes)) ∧
    Lands (.fmaxa f) s [f.a.toNat, f.b.toNat] f.d.toNat (BitVec.ofNat 32 (codes.foldl (fun m c =>
      fPick (tyFmt f.ty.toNat) true false m (roundFV (tyFmt f.ty.toNat) 0 (valueOf (tyFmt f.ty.toNat) c).abs)) 0)) ∧
    Lands (.fex2 f) s [f.a.toNat] f.d.toNat (fex2 (f32 (opA s f))) ∧
    Lands (.flg2 f) s [f.a.toNat] f.d.toNat (flg2 (f32 (opA s f)))

/-- CVT, CVTI and CVTF complete: from its first lane on each source lane is converted into the destination type, as far as both
types have lanes, and the other lanes are 0 (R381). BSC, BFLY, QNT, DQNT, HDRW, HDRR and RED complete: a word of the block buffer
is written or read, a block's header is made and latched, one butterfly stage runs, codes are packed, a value is restored under a
header of the right format, header words are set and taken apart, and the masked inputs are combined in order n, e, s, w, then the
local operand (R208, R358, R382 to R387). That DQNT latches a header from a link is the model's reading (log 23). -/
def Obligations.ConversionsAndBlocks : Prop :=
  (∀ (s : State) (f : FT),
      let ty := f.ty.toNat
      let dt := bitsOf f.b 3 0
      let lo := bitsOf f.b 6 4
      let mode := bitsOf f.sub 2 0
      let n := Min.min (32 / tyWidth ty - lo) (32 / tyWidth dt)
      let c := fun i => xn s f (lo + i)
      let conv := fun (i : Instr) (g : Nat → Nat) =>
        ∃ v, Lands i s [f.a.toNat] f.d.toNat v ∧ ∀ k, k < 32 / tyWidth dt →
          lane v (tyWidth dt) k = if k < n then g (c k) % 2 ^ tyWidth dt else 0
      conv (.cvt f) (fun q => cvtTarget dt mode s.oldE.oh (cvtSource ty s.oldE.hdr q)) ∧
      conv (.cvti f) (fun q => match valueOf (tyFmt ty) q with
        | .nan => 0
        | .inf neg => (nN (tyWidth dt) (clamp dt (if neg then -(2 ^ 40) else 2 ^ 40))).toNat
        | v => (nN (tyWidth dt) (clamp dt (roundToInt mode v))).toNat) ∧
      conv (.cvtf f) (fun q => roundFV (tyFmt dt) mode
        (FV.ofInt (if tySigned ty then sextN (tyWidth ty) q else (q : Int))))) ∧
  (∀ (s : State) (t : FT) (f : FF) (m : FM),
      let cf := s.decl.cfmt
      let a := opA s t
      let block := (List.range (16 * 2 ^ cfBfk cf)).map (fun i => s.oldE.cvb.get 0#32 i)
      let made := bscStep cf block a
      let h := opB3 s f
      let codes := ((List.range 4).filter (fun i => bitAt m.off i)).map (64 + ·) ++
        (if bitAt m.off 4 then [bitsOf m.off 11 5] else [])
      (t.sub = 0#4 → Fires (.bsc t) s [t.a.toNat, t.b.toNat] [] (fun u =>
        u.modE (fun e => { e with cvb := e.cvb.set ((opB s t).toNat % 128) a }))) ∧
      (t.sub = 1#4 → Lands (.bsc t) s [t.a.toNat] t.d.toNat (s.oldE.cvb.get 0#32 (a.toNat % 128))) ∧
      (t.sub = 2#4 → Fires (.bsc t) s [t.a.toNat] [t.d.toNat] (fun u =>
        (u.modE (fun e => { e.setBlock made.1 with oh := made.2 })).put t.d.toNat made.2)) ∧
      Fires (.bfly t) s [] [] (fun u => u.modE (fun e => e.setBlock (butterflyStage (bitsOf t.sub 2 0) block))) ∧
      Lands3 (.qnt f) f s (qntVal cf s.oldE.oh f.ty3.toNat (opA3 s f) h (opC3 s f)) ∧
      (bitsOf h 10 8 = cfCvf cf → bitsOf h 15 12 ≤ 3 →
        Fires (.dqnt f) s [f.a.toNat, f.b.toNat, f.c.toNat] [f.d.toNat] (fun u =>
          let v := u.put f.d.toNat (dqntVal cf (opA3 s f) h (opC3 s f))
          if 64 ≤ f.b.toNat ∧ f.b.toNat < 68 then v.modE (fun e => { e with hdr := s.src f.b.toNat }) else v)) ∧
      Fires (.hdrw t) s [t.a.toNat] [t.d.toNat] (fun u => (u.modE (fun e => { e with oh := a })).put t.d.toNat a) ∧
      Lands (.hdrr t) s [t.a.toNat] t.d.toNat (hdrField t.sub.toNat a) ∧
      (∀ c cs, codes = c :: cs → Lands (.red m) s codes m.d.toNat ((cs.map s.src).foldl (redOp m.mode.toNat) (s.src c))))

/-! ## Matrix entries -/

/-- MCLM and MREL complete: MCLM lands 1 exactly where every slot of its range was unclaimed, claims the unclaimed ones with zeros
and leaves the others; MREL makes the slots of its range unclaimed, and changes no other slot (R391). No poison mark outside the slots goes
(R253). -/
def Obligations.SlotClaims : Prop :=
  ∀ (s : State) (f : FX),
    let slots := (List.range (f.shp.toNat + 1)).map (f.asl.toNat + ·)
    let zeros := List.replicate 512 (0#8)
    let marks := fun (e e' : Elem) => (∀ w ∈ e'.poison, w ∈ e.poison) ∧
      ∀ w ∈ e.poison, (∀ i ∈ slots, w < slotWord (512 * i) ∨ slotWord (512 * i) + 512 < w + 4) → w ∈ e'.poison
    let taken := fun (g : Elem → Elem) => ∀ e : Elem, g e = { e with claimed := (g e).claimed, slots := (g e).slots, poison := (g e).poison } ∧
      marks e (g e) ∧
      (∀ i, i ∈ (g e).claimed ↔ i ∈ e.claimed ∨ i ∈ slots) ∧ (∀ i, i ∈ e.claimed ∨ i ∉ slots → (g e).slot i = e.slot i) ∧
      (∀ i, e.slots.wf = true → i ∉ e.claimed → i ∈ slots → (g e).slot i = zeros)
    let freed := fun (g : Elem → Elem) => ∀ e : Elem, g e = { e with claimed := (g e).claimed, slots := (g e).slots, poison := (g e).poison } ∧
      marks e (g e) ∧
      (∀ i, i ∈ (g e).claimed ↔ i ∈ e.claimed ∧ i ∉ slots) ∧ (∀ i, i ∉ slots ∨ i ∉ e.claimed → (g e).slot i = e.slot i)
    (∃ v g, Fires (.mclm f) s [] [f.d.toNat] (fun t => (t.put f.d.toNat v).modE g) ∧ taken g ∧
      (v = 1#32 ∨ v = 0#32) ∧ (v = 1#32 ↔ ∀ i ∈ slots, i ∉ s.oldE.claimed)) ∧
    (∃ g, Fires (.mrel f) s [] [] (fun t => t.modE g) ∧ freed g)

/-- MZRO sets every element of its accumulator to +0, and MACC lands the bit pattern of one element: of the index in its fields,
or, with DYN, of its register modulo 256; a word whose other fields are not 0 is refused (R393). -/
def Obligations.AccumulatorEntries : Prop :=
  ∀ (s : State) (f : FX),
    let i := f.asl.toNat * 4 + bitsOf f.bsl 1 0
    let r := bitsOf f.bsl 4 0
    let j := (s.src r).toNat % 256
    let elem := fun (k : Nat) => s.oldE.acc.get 0#32 (f.acc.toNat * 256 + k)
    (∃ v : Tbl Word → Tbl Word, Fires (.mzro f) s [] [] (fun t => t.modE (fun e => { e.unpoison (accWord f.acc.toNat 0) 1024 with acc := v e.acc })) ∧
      ∀ (a : Tbl Word) (c k : Nat), k < 256 →
        (v a).get 0#32 (c * 256 + k) = if c = f.acc.toNat then 0#32 else a.get 0#32 (c * 256 + k)) ∧
    (bitAt f.opt 0 = false →
      (s.wordChk (accWord f.acc.toNat i) 4 = .ok → Lands (.macc f) s [] f.d.toNat (elem i)) ∧
      (bitsOf f.bsl 5 2 ≠ 0 → ∀ k cf, Instr.bad k cf (.macc f) ≠ none)) ∧
    (bitAt f.opt 0 = true →
      (s.wordChk (accWord f.acc.toNat j) 4 = .ok → Lands (.macc f) s [r] f.d.toNat (elem j)) ∧
      (f.asl ≠ 0#6 ∨ bitsOf f.bsl 5 5 ≠ 0 → ∀ k cf, Instr.bad k cf (.macc f) ≠ none))

/-- MLD, MST, MTRN and MOUT complete: the bytes are read at fire and are on their way to their slot, or to the side ME, where they
land 8, 4, 8 and 16 cycles later (R392); that MOUT's tag is E + J with the E of its fire is the model's choice (log 94). MKEY completes: the key or index at rank RK, or all ones at rank 64, is read, and RK
advances to at most 64 (R397). -/
def Obligations.SlotPortAndKeys : Prop :=
  (∀ (s : State) (f : FX) (a : Nat) (tag : Byte),
      let side := bitsOf f.opt 1 0
      let off := alignDown (s.src f.d.toNat).toNat 512
      let j := bitsOf f.bsl 1 0
      let acc := s.oldE.accAll f.acc.toNat
      (s.sideRead side off j 512 = (.ok, a) → Fires (.mld f) s [f.d.toNat] [] (fun t =>
        (t.slotPort 8 (.mld f) ((s.sideElem side).sram.readN a 512) (512 * f.asl.toNat)).modSide side (fun e => e.markRead a 512))) ∧
      (s.accChk f.acc.toNat true = .ok → Fires (.mst f) s [] [] (fun t => t.slotPort 4 (.mst f) (match side with
          | 0 => acc.flatMap (fun w => leBytes 2 (roundFV bf16 0 (f32 w)))
          | 1 => (acc.take 128).flatMap (fun w => leBytes 4 w.toNat)
          | _ => (acc.drop 128).flatMap (fun w => leBytes 4 w.toNat)) (512 * f.asl.toNat))) ∧
      (s.slotChk f.bsl.toNat 1 = .ok → Fires (.mtrn f) s [] [] (fun t => t.slotPort 8 (.mtrn f)
        (mtrnBytes (cfMfa s.decl.cfmt) (bitAt f.opt 0) ((s.oldE.slot f.bsl.toNat).drop (if bitAt f.shp 0 then 256 else 0)))
        (512 * f.asl.toNat + (if bitAt f.shp 1 then 256 else 0)))) ∧
      (s.sideWrite side off j 1024 = (.ok, a, tag) → s.accChk f.acc.toNat true = .ok →
        Fires (.mout f) s [f.d.toNat] [] (fun t => t.inFlight (s.cycle + 16) (.mout f) false []
          (acc.flatMap (fun w => leBytes 4 w.toNat)) [tag + BitVec.ofNat 8 j] 0#32 a [] false))) ∧
  (∀ (s : State) (f : FX),
      let rk := s.oldE.rk
      Fires (.mkey f) s [] [f.d.toNat] (fun t =>
        (t.put f.d.toNat (if 64 ≤ rk then 0xFFFFFFFF#32
          else if bitAt f.opt 0 then BitVec.ofNat 32 ((s.oldE.sortI[rk]?).getD 0#16).toNat
          else (s.oldE.sortK[rk]?).getD 0#32)).modE (fun e =>
            if bitAt f.opt 1 then { e with rk := Min.min (rk + 1) 64 } else e)))

/-- MMA, MMAS, MCTR and MSRT complete: the operands are read at fire and the tile operation is in flight, to land 68 cycles later,
260 for MCTR; MMAS needs every scale header of its operands to agree (R394 to R397). -/
def Obligations.TileOperations : Prop :=
  ∀ (s : State) (f : FX),
    let cf := s.decl.cfmt
    let slot := s.oldE.slot
    let a := f.asl.toNat
    let b := f.bsl.toNat
    let c := f.acc.toNat
    let half := fun (mf : Nat) (l : List Byte) (h : Bool) => if mf = 4 ∧ h then l.drop 256 else l
    let sc := (s.src f.d.toNat).toNat % 64
    let hd := (List.range 128).map (wordAt (slot sc))
    let l := bitsOf f.opt 2 1
    let nb := tileK (cfMfa cf) / (16 * 2 ^ l)
    let n := if cfMfa cf = 3 then 2 else 4
    (s.slotChk a 1 = .ok → s.slotChk b 1 = .ok → s.accChk c (bitAt f.opt 0) = .ok →
      Fires (.mma f) s [] [] (fun t => t.nodeOp 68 (.mma f) [c] (half (cfMfa cf) (slot a) (bitAt f.shp 0))
        (half (cfMfb cf) (slot b) (bitAt f.shp 1)) 0#32 0 [] false)) ∧
    (s.slotChk a 1 = .ok → s.slotChk b 1 = .ok → s.slotChk sc 1 = .ok → s.accChk c (bitAt f.opt 0) = .ok →
      (∀ h ∈ hd.take (16 * nb), bitsOf h 10 8 = cfMfa cf ∧ bitsOf h 15 12 = l) →
      (∀ h ∈ (hd.drop 64).take (16 * nb), bitsOf h 10 8 = cfMfb cf ∧ bitsOf h 15 12 = l) →
      Fires (.mmas f) s [f.d.toNat] [] (fun t => t.nodeOp 68 (.mmas f) [c] (slot a) (slot b) 0#32 0 hd false)) ∧
    (s.slotChk a 1 = .ok → s.slotChk b n = .ok → s.accChk c (bitAt f.opt 2) = .ok → s.accChk (c + 1) (bitAt f.opt 2) = .ok →
      Fires (.mctr f) s [] [] (fun t => t.nodeOp 260 (.mctr f) [c, c + 1] (slot a)
        ((List.range n).flatMap (fun i => slot (b + i))) 0#32 0 [] false)) ∧
    (s.slotChk a 1 = .ok → Fires (.msrt f) s [] [] (fun t => t.nodeOp 68 (.msrt f) [] (slot a) [] 0#32 0 [] false))

/-! ## Folios and rows -/

/-- FOLB, FOLV and FOLC complete in the phase that each requires; FOLR, FOLI and FOLQ in any: FOLV lands FULL, latches the
committed version and clears the refresh; FOLC lands whether the result is kept, and keeps it or makes the folio invalid; FOLI
kills a pass that has begun; FOLQ lands the field it names (R218, R221, R405). An entry that requires a phase of its folio faults with
0x32 in any other phase (R218). An entry that reads control fields needs them readable (R223), and FOLR, which writes them, their bank
awake (R30). -/
def Obligations.FolioControl : Prop :=
  (∀ (s : State) (f : FK),
      let fx := bitsOf f.param 1 0
      let d := s.folioDecl fx
      let k := s.folio fx
      let ver := s.version d.layer
      let idx := bitsOf f.param 8 2
      let full : Prop := k.valid = false ∨ k.ver ≠ ver ∨ k.refresh = true ∨ FV.lt (f32 d.dmax) (f32 k.drift) = true ∨
        (d.nref ≠ 0 ∧ d.nref ≤ k.cnt)
      let keep : Prop := k.kill = false ∧ k.nfin = false ∧ ver = k.vlat
      (ControlReadable s fx → k.ph = 0 → Fires (.folb f) s [] [] (fun t => t.modFolio fx (fun k =>
        { k with kill := false, nfin := false, ph := 1, tc := 0 }))) ∧
      (ControlReadable s fx → k.ph = 1 → ∃ b : Bool, (b = true ↔ full) ∧ Fires (.folv f) s [] [f.d.toNat] (fun t =>
        let u := ((t.put f.d.toNat (boolWord b)).modFolio fx (fun k =>
          { k with vlat := ver, full := b, refresh := false, ph := 2 })).count 0x30
        if b then u.count 0x31 else u)) ∧
      (ControlReadable s fx → k.ph = 4 → ∃ b : Bool, (b = true ↔ keep) ∧ Fires (.folc f) s [] [f.d.toNat] (fun t =>
        (t.put f.d.toNat (boolWord b)).modFolio fx (fun k => folioAfterC k ver))) ∧
      (s.homeAwake fx (k.xOff - 64) 64 = .ok → Fires (.folr f) s [] [] (fun t =>
        t.modFolio fx (fun k => { k with refresh := true }))) ∧
      (ControlReadable s fx → Fires (.foli f) s [] [] (fun t => t.modFolio fx (fun q =>
        { q with valid := false, kill := q.kill || decide (k.ph ≠ 0) }))) ∧
      (ControlReadable s fx ∨ 11 ≤ idx → Lands (.folq f) s [] f.d.toNat (folioField d k ver idx))) ∧
  (∀ (s : State) (f : FK),
      let fx := bitsOf f.param 1 0
      ControlReadable s fx → Writable s [f.d.toNat] →
      ((s.folio fx).ph ≠ 0 → exec (.folb f) s = .next (s.raiseHere 0x32 0)) ∧
      ((s.folio fx).ph ≠ 1 → exec (.folv f) s = .next (s.raiseHere 0x32 0)) ∧
      ((s.folio fx).ph ≠ 4 → exec (.folc f) s = .next (s.raiseHere 0x32 0)))

/-- FOLD completes: in phase 2, with its vector readable and its burst place writable outside the state of every folio, x and XP
are read and the folio is in flight, to be written 8 + n / 8 cycles later; until then the folio, XP and the bursts are pending
(R218, R403). FOLM completes: in phase 3, with tiles left, the burst of its input block readable at its side, and the part of YP that
it starts from readable, the tile is in flight, to land 68 cycles later, and the next tile is counted (R218, R223, R404). -/
def Obligations.FolioOperations : Prop :=
  (∀ (s : State) (f : FM) (x y g : Nat),
      let fx := bitsOf f.mode 1 0
      let d := s.folioDecl fx
      let k := s.folio fx
      let area := 36 * (d.n / 32)
      ControlReadable s fx → k.ph = 2 → LocalReadable s (alignDown (s.src f.d.toNat).toNat 4) 0 (4 * d.n) x →
      LocalWritable s (bitsOf f.off 17 0) 0 area y g → s.poisonChk k.xOff (4 * d.n) = .ok →
      s.meetsFolio x (4 * d.n) = false → s.meetsFolio y area = false →
      Fires (.fold f) s [f.d.toNat] [] (fun t =>
        (t.inFlight (s.cycle + 8 + d.n / 8) (.fold f) false [] [] [] 0#32 y
          (bytesWords (s.sramOld x (4 * d.n)) ++ bytesWords (s.sramOld k.xOff (4 * d.n))) k.full).modE (fun e =>
            { e.markRead x (4 * d.n) with marks := e.marks ++ [.folio fx, .range k.xOff (4 * d.n), .range y area] }))) ∧
  (∀ (s : State) (f : FX) (a : Nat),
      let fx := s.folmFx
      let d := s.folioDecl fx
      let k := s.folio fx
      let side := bitsOf f.opt 1 0
      let home := s.sideElem side
      let burst := home.sram.readN a 36
      let h := wordAt burst 0
      let i := k.tc % (d.n / 32)
      let o := k.tc / (d.n / 32)
      let yp := if i = 0 then bytesWords (home.sram.readN (k.yOff d + 64 * o) 64) else []
      ControlReadable s fx → k.ph = 3 → k.tc ≠ d.m / 16 * (d.n / 32) →
      s.sideRead side (alignDown (s.src f.d.toNat).toNat 4) 0 36 = (.ok, a) → bitsOf h 10 8 = 1 → bitsOf h 7 0 = i % 256 →
      s.slotChk f.asl.toNat 1 = .ok → s.accChk f.acc.toNat (decide (i ≠ 0)) = .ok →
      (i = 0 → k.full = false → s.homeChk fx (k.yOff d + 64 * o) 64 = .ok) →
      Fires (.folm f) s [f.d.toNat] [] (fun t =>
        ((t.nodeOp 68 (.folm f) [f.acc.toNat] (s.oldE.slot f.asl.toNat) burst 0#32 k.tc yp k.full).modFolio fx
          (fun k => { k with tc := k.tc + 1 })).modSide side (fun e => e.markRead a 36)))

/-- ROWOPEN, ROWHOLD, ROWRD, ROWWR and ROWQ complete on a row that has a translation: the row is marked as wanted open; ROWHOLD
lands the first outcome that applies and, for outcome 0, takes the hold; ROWRD waits for one word, behind the acquire reads that hold
its stream; ROWWR, where the page may be written, stages one; ROWQ lands the hold, the disposition and the latest code (R141, R157,
R158, R174, R406, R407). A row access walks where no range entry holds its address, those of ROWOPEN and ROWHOLD within the step (R137, R438);
that, and that a ROWWR's walk starts at issue, are the model's readings (log 21). -/
def Obligations.RowEntries : Prop :=
  ∀ (s : State) (f : FK) (m : FM) (pa qa : Nat),
    let hx := bitsOf f.param 5 0
    let mx := bitsOf m.off 15 10
    let va := s.rowVa mx + bitsOf m.off 9 0
    let d := f.d.toNat
    let code := s.holdCode hx pa
    let held : Bool := (s.rowHold pa).any (fun h => h.r == s.focus.r && h.st != .saved && decide (h.since < s.cycle))
    (s.rowPa hx = some pa →
      Fires (.rowopen f) s [] [] (fun t => { t.walkAt (s.rowVa hx) with openRows := insertUniq (rowOf pa) (t.walkAt (s.rowVa hx)).openRows }) ∧
      Fires (.rowhold f) s [] [d] (fun t =>
        let u := ((t.walkAt (s.rowVa hx)).put d (if 96 ≤ d ∧ d < 104 then boolWord (decide (code < 2)) else BitVec.ofNat 32 code)).modNow
          (fun fb => { fb with rowCode := fb.rowCode.set (rowOf pa) code })
        if code = 0 then
          (u.takeHold pa (s.rowDecl hx).reopen).modR (fun g => { g with holdsNew := g.holdsNew ++ [rowOf pa * 1024] })
        else if code = 1 then u
        else u.count 0x22) ∧
      Lands (.rowq f) s [] d (BitVec.ofNat 32 ((if held then 1 else 0) + (if (s.rowDecl hx).reopen then 2 else 0) +
        s.rg.old.rowCode.get 7 (rowOf pa) * 16))) ∧
    (s.paOf s.rg.func va = some qa →
      Fires (.rowrd m) s [] [m.d.toNat] (fun t =>
        let u := t.fresh.2
        let walked := if (s.rangeHit s.abut s.rg.func va).isSome then u.lat.2 else u.lat.2.beginWalk t.fresh.1 va va false false
        walked.openWin (.row qa va (s.cycle + u.lat.1) t.fresh.1 (s.nowE.waitsOf 9 s.rg.rnd).1 none) m.d.toNat
          (32 * 2 ^ bitsOf m.mode 1 0) (bitsOf m.mode 3 2) none)) ∧
    (∀ e, s.rangeHit s.abut s.rg.func va = some e → e.w = true →
      Fires (.rowwr m) s [m.d.toNat] [] (fun t => t.fresh.2.stage 9 (.row va (leBytes 4 (s.src m.d.toNat).toNat)))) ∧
    (∀ t p size w b, s.rangeHit s.abut s.rg.func va = none → s.tenants.find s.rg.func = some t →
      nestedWalk s.coh s.rg.func t va = .ok p size w b → w = true → Fires (.rowwr m) s [m.d.toNat] [] (fun t =>
        (t.fresh.2.beginWalk t.fresh.1 va va true false).stage 9 (.row va (leBytes 4 (s.src m.d.toNat).toNat))))

/-! ## Soft-token entries -/

/-- STKH, STKM, STKA, STKN and STKQ complete on a register that nothing has pending: a hidden register is named and its hash is
under way, a mixture is read, a candidate is added or its weight grows, weights are normalised, a field is read (R231, R408,
R409). -/
def Obligations.SoftRegisters : Prop :=
  ∀ (s : State) (f : FK),
    let n := bitsOf f.param 2 0
    let a := (s.src f.a.toNat).toNat
    let len := (bitsOf f.param 14 5 + 1) * 16
    let fmt := bitsOf f.param 4 3
    let bytes := len * hfSize fmt
    let nc := bitsOf f.param 6 3 + 1
    let word := fun i => BitVec.ofNat 32 (leNat (s.sramOld (a + 4 * i) 4))
    let ids := (List.range nc).map (fun i => word (2 * i))
    let wts := (List.range nc).map (fun i => word (2 * i + 1))
    let reg := s.oldE.soft n
    let set := fun (r : Option Soft) (t : State) =>
      match r with
      | some r => (t.put f.d.toNat 1#32).modE (fun e => e.setSoft n (e.hashed r))
      | none => t.put f.d.toNat 0#32
    let i := bitsOf f.param 9 3
    s.softFree n = .ok →
    (a % 64 = 0 → s.rangeRd a bytes = .ok → Fires (.stkh f) s [f.a.toNat] [] (fun t =>
      ((t.modE (fun e => (e.setSoft n { Soft.empty with kind := 3, haddr := a, hlen := len, hfmt := fmt }).markRead a bytes)).startSoft
        (s.cycle + 8 + 4 * ceilDiv (bytes + 6) 136) (.stkh f) 0#32 0#32 [] [.soft n]).2)) ∧
    (s.rangeRd a (8 * nc) = .ok → tokChk s.oldE.dc.v ids = .ok → Fires (.stkm f) s [f.a.toNat] [] (fun t =>
      t.modE (fun e => (e.setSoft n (e.hashed (Soft.mixture ids wts))).markRead a (8 * nc)))) ∧
    (tokChk s.oldE.dc.v [s.src f.a.toNat] = .ok →
      Fires (.stka f) s [f.a.toNat, i] [f.d.toNat] (set (stkaReg reg (s.src f.a.toNat) (s.src i)))) ∧
    Fires (.stkn f) s [] [f.d.toNat] (set (stknReg reg)) ∧
    (i < 64 → Lands (.stkq f) s [] f.d.toNat (stkqField reg s.oldE.dc i)) ∧
    (64 ≤ i → s.ctxFree (i == 66) = .ok → Lands (.stkq f) s [] f.d.toNat (stkqField reg s.oldE.dc i))

/-- STKE, COLLAPSE, GMSK, GSTP, PRPL and VTXT complete: each is under way for an open number of cycles, with what it will write
pending (R229): COLLAPSE its register, its destination, its predicate and the context fields that it may change, with STATE read at
fire; GMSK its register; GSTP STATE; PRPL its register and the ME range that a hidden payload may fill, VTXT its text's range; GMSK and
GSTP do nothing in a context without a grammar (R239 to R243, R246). STKE completes: it issues one read per candidate row, in
candidate order, and will write the row, the mixture or the hidden vector at its local place (R233). That COLLAPSE checks only the
tokens that ALLOW leaves, and what PRPL marks, are the model's readings (log 71, 72). -/
def Obligations.SoftOperations : Prop :=
  (∀ (s : State) (f : FK) (w : FW),
      let n := bitsOf f.param 2 0
      let q := bitsOf f.param 7 5
      let reg := s.oldE.soft n
      let ids := (reg.ids.zipIdx.filter (fun (p : Word × Nat) => reg.allow.getLsbD p.2)).map Prod.fst
      let id := s.src f.a.toNat
      let b := (s.src w.b.toNat).toNat
      let state := leBytes 4 s.oldE.dc.state.toNat
      let place := (s.src (bitsOf f.param 9 3)).toNat
      (s.softFree n = .ok → ContextFree s → (reg.kind = 1 ∨ reg.kind = 2 → tokChk s.oldE.dc.v ids = .ok) →
        Fires (.collapse f) s (if bitsOf f.param 4 3 = 1 then [f.a.toNat] else []) [f.d.toNat, 96 + q] (fun t =>
          ((t.lat.2.startSoft (s.cycle + t.lat.1) (.collapse f) id (BitVec.ofNat 32 (s.code f.d.toNat)) state
            [.soft n, .ctx false]).2.markReg f.d.toNat).markReg (96 + q))) ∧
      (s.softFree n = .ok → s.ctxFree true = .ok → Fires (.gmsk f) s [] [] (fun t =>
        if s.oldE.dc.gon then (t.lat.2.startSoft (s.cycle + t.lat.1) (.gmsk f) 0#32 0#32 state [.soft n]).2 else t)) ∧
      (s.ctxFree true = .ok → (bitAt f.param 0 = false → tokChk s.oldE.dc.v [id] = .ok) →
        Fires (.gstp f) s (if bitAt f.param 0 then [] else [f.a.toNat]) [] (fun t =>
          if s.oldE.dc.gon then (t.lat.2.startSoft (s.cycle + t.lat.1) (.gstp f) id 0#32 [] [.ctx true]).2 else t)) ∧
      (s.softFree n = .ok → (s.replayRoom place ≠ 0 → s.rangeWr place (s.replayRoom place) = .ok) →
        Fires (.prpl f) s [f.a.toNat, bitsOf f.param 9 3] [] (fun t =>
          (t.lat.2.startSoft (s.cycle + t.lat.1) (.prpl f) id (s.src (bitsOf f.param 9 3)) []
            (.soft n :: if s.replayRoom place = 0 then [] else [.range place (s.replayRoom place)])).2)) ∧
      (tokChk s.oldE.dc.v [s.src w.a.toNat] = .ok → s.rangeAt b 1023 = .ok →
        Fires (.vtxt w) s [w.a.toNat, w.b.toNat] [w.d.toNat] (fun t =>
          (t.lat.2.openWin (.text (s.cycle + t.lat.1) (s.src w.a.toNat).toNat b none) w.d.toNat w.win.toNat w.wm.toNat none).modE
            (fun e => { e with marks := e.marks ++ [.range b 1023] })))) ∧
  (∀ (s : State) (f : FM) (a g : Nat),
      let n := bitsOf f.mode 2 0
      let dc := s.oldE.dc
      let reg := s.oldE.soft n
      let hidden : Prop := reg.kind = 3
      let cand := if hidden then [] else candOrder reg
      let size := dc.edim * hfSize dc.efmt
      let rows := cand.map (fun (p : Word × Word) => dc.ebase + p.1.toNat * size)
      let data := if hidden then (toF32s reg.hfmt (s.oldE.softVec reg)).flatMap (fun w => leBytes 4 w.toNat)
        else pairBytes (cand.map Prod.fst) (cand.map Prod.snd)
      s.softFree n = .ok → reg.kind ≠ 0 → (hidden → reg.hlen = dc.edim ∧ s.rangeRd reg.haddr (reg.hlen * hfSize reg.hfmt) = .ok) →
      tokChk dc.v reg.ids = .ok → (∀ va ∈ rows, s.embedChk f.strm.toNat va size = .ok) →
      LocalWritable s (alignDown (bitsOf f.off 17 0 + (s.src f.d.toNat).toNat) 4) 0 (4 * dc.edim) a g →
      Fires (.stke f) s [f.d.toNat] [] (fun t =>
        let op := t.lat.2.startSoft (s.cycle + t.lat.1) (.stke f) (BitVec.ofNat 32 a) (BitVec.ofNat 32 reg.kind) data
          [.range a (4 * dc.edim)]
        let u := if reg.kind = 3 then op.2.modE (fun e => e.markRead reg.haddr (reg.hlen * hfSize reg.hfmt)) else op.2
        rows.foldl (fun (u : State) va =>
          ((u.issueRead f.strm.toNat va size 0 none false false 0).cmpBytes va size).modE (fun e =>
            { e with reads := e.reads.map (fun q => if q.id = u.nextId then { q with soft := some op.1 } else q) })) u))

/-- STOPSTR, PLOG and PHSH complete: four stop strings are loaded and the tail is emptied; a register that holds something is
logged at POSN and its payload position, which advance, where its record and payload lie in their buffers on pages that may be
written; a chain block is read and the prefix step is under way (R234 to R236, R237, R244, R410, R411). -/
def Obligations.SoftContext : Prop :=
  ∀ (s : State) (f : FK) (w : FW),
    let a := (s.src f.a.toNat).toNat
    let blk := s.sramOld a 136
    let n := bitsOf f.param 2 0
    let reg := s.oldE.soft n
    let dc := s.oldE.dc
    let pay := s.oldE.softPay reg
    let blk2 := (s.src w.b.toNat).toNat
    (s.ctxFree false = .ok → s.rangeRd a 136 = .ok → (∀ j, j < 4 → leAt blk (128 + j) 1 ≤ 32) → leAt blk 132 1 ≤ 1 → leAt blk 133 3 = 0 →
      Fires (.stopStr f) s [f.a.toNat] [] (fun t => t.modE (fun e => { e.markRead a 136 with dc := { e.dc with
        strs := (List.range 4).map (fun j => sliceBytes blk (32 * j) 32), slen := (List.range 4).map (fun j => leAt blk (128 + j) 1)
        cuts := leAt blk 132 1 == 1, tail := [], hit := false } }))) ∧
    (s.softFree n = .ok → ContextFree s → reg.kind = 0 → Fires (.plog f) s [] [] (fun t => t)) ∧
    (s.softFree n = .ok → ContextFree s → reg.kind ≠ 0 →
      (reg.kind = 3 → s.rangeRd reg.haddr (reg.hlen * hfSize reg.hfmt) = .ok) →
      64 * dc.posn + 64 ≤ dc.lsize → s.issueChk (dc.lbase + 64 * dc.posn) 64 true = .ok →
      (pay.length ≠ 0 → dc.ppos + pay.length ≤ dc.psize ∧ s.issueChk (dc.pbase + dc.ppos) pay.length true = .ok) →
      Fires (.plog f) s [] [] (fun t =>
        let u := t.logSoft dc.state reg (if reg.mark then 4 else 0)
        if reg.kind = 3 then u.modE (fun e => e.markRead reg.haddr (reg.hlen * hfSize reg.hfmt)) else u)) ∧
    (s.rangeAt blk2 16 = .ok → s.tagChk blk2 16 = .ok → s.poisonChk blk2 16 = .ok →
      Fires (.phsh w) s [w.a.toNat, w.b.toNat] [w.d.toNat] (fun t =>
      (t.lat.2.modE (fun e => e.markRead blk2 16)).openWin (.prefixOp (s.cycle + t.lat.1) w.sub.toNat (s.src w.a.toNat).toNat (s.src w.b.toNat).toNat
        (BitVec.ofNat 64 (leAt (s.sramOld blk2 16) 0 8)) none) w.d.toNat w.win.toNat w.wm.toNat none))

/-! ## System entries -/

/-- IDNT, TIME, PMRD, CFGR and SIGQ complete: identities, the region's running cycles, the latched nanosecond count, the counter
file, the parameter block and the oldest signal value land in D; SIGQ sets pq where a value is present and takes it unless PEEK is
set (R261, R270, R414, R419). DBRK and FLTM complete: where breaks are declared DBRK sends its EVENT at once and asks for the
break of the region; FLTM raises its fault while the round's void count is below NTH; elsewhere both only take their cycle (R257,
R418). That the cycle of a DBRK completes is the model's reading (log 42). -/
def Obligations.SystemAndDebug : Prop :=
  (∀ (s : State) (f : FK),
      let cyc := s.rg.cycSum + s.oldSpan.cyc
      let val := s.rg.sigSnap[s.rg.old.sigTaken]?
      let q := bitsOf f.param 3 1
      Lands (.idnt f) s [] f.d.toNat (match bitsOf f.param 2 0 with
        | 0 => 0xA5C10128#32
        | 1 => (s.rg.fwver[s.page / 16]?).getD 0#32
        | 2 => BitVec.ofNat 32 (s.page / 16)
        | 3 => s.hostTag s.rg.func s.rg.ltag
        | 4 => BitVec.ofNat 32 (s.rg.graph % 2 ^ 16 + s.rg.load % 2 ^ 8 * 2 ^ 16)
        | _ => BitVec.ofNat 32 s.focus.sg) ∧
      Lands (.time f) s [] f.d.toNat (match bitsOf f.param 1 0 with
        | 0 => BitVec.ofNat 32 cyc
        | 1 => BitVec.ofNat 32 (cyc / 2 ^ 32)
        | 2 => BitVec.ofNat 32 s.rg.roundNs
        | _ => BitVec.ofNat 32 (s.rg.roundNs / 2 ^ 32)) ∧
      Lands (.pmrd f) s [] f.d.toNat (s.rg.pmFile.get 0#32 (bitsOf f.param 3 0)) ∧
      (∀ l, s.launchOf s.rg.func s.rg.ltag = some l →
        Lands (.cfgr f) s [] f.d.toNat (paramWord l.param l.plen (bitsOf f.param 3 0))) ∧
      (∀ v, val = some v → Fires (.sigq f) s [] [f.d.toNat, 96 + q] (fun t =>
        let u := (t.put f.d.toNat v).setPred q true
        if bitAt f.param 0 then u else u.modNow (fun fb => { fb with sigTaken := s.rg.old.sigTaken + 1 }))) ∧
      (val = none → Fires (.sigq f) s [] [f.d.toNat, 96 + q] (fun t => (t.put f.d.toNat 0#32).setPred q false))) ∧
  (∀ (s : State) (f : FK),
      let v : Word := BitVec.ofNat 32 (2 ^ 31 + bitsOf f.param 15 0)
      let nth := bitsOf f.param 2 1
      (s.sig.decl.debug = true → Fires (.dbrk f) s [] [] (fun t =>
        (t.modR (fun g => { g with brk := some (g.brk.getD { sg := s.focus.sg, x := s.focus.x, y := s.focus.y, stamp := s.focus.stamp
                                                             sched := s.focus.sched, age := 0, out := false }) })).eventMsg
          s.rg.func 0 s.page (s.hostTag s.rg.func s.rg.ltag) v s.focus.x s.focus.y s.focus.stamp)) ∧
      (s.sig.decl.debug = false → Fires (.dbrk f) s [] [] (fun t => t) ∧ Fires (.fltm f) s [] [] (fun t => t)) ∧
      (nth ≤ s.rg.voids → Fires (.fltm f) s [] [] (fun t => t)) ∧
      (s.sig.decl.debug = true → s.rg.voids < nth →
        exec (.fltm f) s = .next (s.raiseHere (if bitAt f.param 0 then 0x70 else 0x50) 0)))

/-- RNGS completes: seed writes one word of the generator, all zeros becoming g_s3 = 1; next lands the output of the generator as
it stood and steps it; a nullified RNGS does neither (R307, R416). -/
def Obligations.RandomEntries : Prop :=
  ∀ (s : State) (f : FK),
    let a := s.src f.a.toNat
    let old := s.oldE
    let x := old.gs2 ^^^ old.gs0
    let y := old.gs3 ^^^ old.gs1
    let fix := fun (e : Elem) =>
      if e.gs0 = 0#32 ∧ e.gs1 = 0#32 ∧ e.gs2 = 0#32 ∧ e.gs3 = 0#32 then { e with gs3 := 1#32 } else e
    (bitAt f.param 2 = false → Fires (.rngs f) s [f.a.toNat] [] (fun t => t.modE (fun e =>
      fix (match bitsOf f.param 1 0 with
        | 0 => { e with gs0 := a }
        | 1 => { e with gs1 := a }
        | 2 => { e with gs2 := a }
        | _ => { e with gs3 := a })))) ∧
    (bitAt f.param 2 = true → Fires (.rngs f) s [] [f.d.toNat] (fun t =>
      (t.put f.d.toNat ((old.gs1 * 5#32).rotateLeft 7 * 9#32)).modE (fun e => { e with
        gs0 := old.gs0 ^^^ y
        gs1 := old.gs1 ^^^ x
        gs2 := x ^^^ (old.gs1 <<< 9)
        gs3 := y.rotateLeft 11 }))) ∧
    (∀ e : Entry, e.instr = .rngs f → s.predChk e.pred.toNat = .ok → s.predTrue e.pred.toNat (e.pn == 1#1) = false →
      s.runEntry e = .next (s.count 0x02) ∧ (s.count 0x02).nowE = s.nowE)

/-! ## Host messages and the host interface -/

/-- Every host message that reaches a part that listens is accepted only as the next in sequence; a duplicate has no effect, one
out of sequence sets NMPERR[17], and one beyond the window sets NMPERR[16] (R38 items 2 to 5); one that is accepted waits while
the effects of an earlier message of its function are not complete (R43). A part that is viral, held or in a recovery hold
discards it (R24, R34, R58). Every accepted message that is taken up gets one ACK (R42), refused in this order: malformed 0x01,
whatever the kind; a management kind of another function 0x02, here FW.ACTIVATE; a function that is no tenant 0x03, here SIGNAL; a
refused message has no other effect (R44, R55). UNKNOWN_KIND is malformed. That it waits meanwhile is the model's reading (log 6).
-/
def Obligations.MessageLayer : Prop :=
  (∀ (s : State) (i : Instr) (h : MsgHdr) (k u : Nat) (p : List Byte), i.msgBody = some (h, k, u, p) → s.focus.n ≠ 1 →
      (s.viral = true ∨ s.held = true ∨ s.nmp.held = true → exec i s = .next s) ∧
      (Listens s →
        let d := (h.seq - s.nmp.hacc).toNat
        (d = 0 ∨ 2 ^ 32 - 255 ≤ d → exec i s = .next s) ∧
        (2 ≤ d ∧ d ≤ 256 → exec i s = .next { s with nmp := { s.nmp with errSeq := true } }) ∧
        (257 ≤ d ∧ d < 2 ^ 32 - 255 → exec i s = .next { s with nmp := { s.nmp with errWin := true } }) ∧
        (d = 1 → (s.accept h).nmp.hacc = h.seq ∧ ((s.accept h).holdsBack h.func.toNat = true →
          exec i s = .next { s.accept h with nmp := { (s.accept h).nmp with waiting := (s.accept h).nmp.waiting ++ [i] } })))) ∧
  ((∀ (s : State) (i : Instr) (h : MsgHdr) (k u : Nat) (p : List Byte), i.msgBody = some (h, k, u, p) → Arrives s h →
      (h.bad = true → exec i s = .next (acked s h k 0x01)) ∧
      (∀ kind, i = .unknownKind h kind → exec i s = .next (acked s h k 0x01))) ∧
    (∀ (s : State) (h : MsgHdr) (dies : Byte), Arrives s h → h.bad = false → dies ≠ 0#8 → h.func ≠ 0#6 →
      exec (.fwActivate h dies 0#8) s = .next (acked s h 0x11 0x02)) ∧
    (∀ (s : State) (h : MsgHdr) (ltag value : Word), Arrives s h → h.bad = false → s.sends h.func.toNat = false →
      exec (.signalValue h ltag value) s = .next (acked s h 0x07 0x03)))

/-- TENANT.CREATE, TENANT.BUDGET, TENANT.DESTROY, CANCEL and QUERY are taken up with the effects of R45, R48, R54, R55 and R75,
and are refused where the tenant, or the launch, is not there, as it is no more where the QUERY's own ACKN acknowledges its COMPLETE. A budget's ways and class go with its ACK, and govern from then on (R433).
Of equal TAGs the launch accepted first is named: the model's reading (log 31). -/
def Obligations.TenantMessages : Prop :=
  ∀ (s : State) (h : MsgHdr) (tgt cls pages prio : Byte) (ways keys : BitVec 16) (rows quant rate ltag : Word),
    let f := h.func.toNat
    let g := tgt.toNat
    (budgetBad cls ways pages prio rows quant = false →
      (1 ≤ g → g ≤ 63 → s.tenant g = none →
        TakenUp (.tenantCreate h tgt cls ways pages prio keys rows quant rate) s h 0x01 true
          (fun t => { t with tenants := t.tenants.set g (Tenant.zero.budget cls ways pages prio keys rows quant rate) })) ∧
      (1 ≤ g → g ≤ 63 → (s.tenant g).isSome = true →
        RefusedWith (.tenantCreate h tgt cls ways pages prio keys rows quant rate) s h 0x01 true 0x05) ∧
      (g ≤ 63 → s.sends g = true → (g = 0 → zeroBudget cls ways pages prio keys rows = true) →
        TakenUp (.tenantBudget h tgt cls ways pages prio keys rows quant rate) s h 0x02 true (fun t =>
          let last := { t with nmp := { t.nmp with queue := t.nmp.queue.zipIdx.map (fun (q : DMsg × Nat) =>
            if q.2 + 1 = t.nmp.queue.length then { q.1 with eff := some { func := g, cls := cls.toNat, ways := ways.toNat } } else q.1) } }
          let u := (last.modTenant g (fun x => { x with pages := pages.toNat, prio := prio.toNat, keys := keys.toNat
                                                        rows := rows.toNat, quant := quant.toNat, rate := rate.toNat })).choose
          u.askYields u.chosenItem)) ∧
      (g ≤ 63 → s.sends g = false → (g = 0 → zeroBudget cls ways pages prio keys rows = true) →
        RefusedWith (.tenantBudget h tgt cls ways pages prio keys rows quant rate) s h 0x02 true 0x03)) ∧
    (1 ≤ g → g ≤ 63 → s.sends g = true →
      TakenUp (.tenantDestroy h tgt) s h 0x03 true
        (fun t => (t.modTenant g (fun x => { x with dying := some h.tag })).cancelAll g)) ∧
    (1 ≤ g → g ≤ 63 → s.sends g = false → RefusedWith (.tenantDestroy h tgt) s h 0x03 true 0x03) ∧
    TakenUp (.cancel h 1#8 ltag) s h 0x08 false (fun t => t.cancelAll f) ∧
    (∀ l, s.namedLaunch f ltag = some l → Arrives s h → WellSent s h false →
      ∃ l', (acked s h 0x08 0).namedLaunch f ltag = some l' ∧
        exec (.cancel h 0#8 ltag) s = .next ((acked s h 0x08 0).cancelLaunch l')) ∧
    (s.namedLaunch f ltag = none → RefusedWith (.cancel h 0#8 ltag) s h 0x08 false 0x03) ∧
    (∀ qs : Byte, qs.toNat ≤ 2 → (qs = 0#8 → (s.accept h).queryRecs f 0 ltag ≠ []) →
      TakenUp (.query h qs ltag) s h 0x09 false (fun t => (snapMsgs f h.tag (t.queryRecs f qs.toNat ltag)).foldl State.send t)) ∧
    ((s.accept h).queryRecs f 0 ltag = [] → RefusedWith (.query h 0#8 ltag) s h 0x09 false 0x03)

/-- IMAGE.LOAD starts its pull unless a launch of the slot is queued or running (0x05); at its end the image that passes every
check of R49 replaces the slot's and COMPLETE has status 0, and otherwise the slot is empty and COMPLETE names the check.
ENDPOINT.BIND binds, and LAUNCH queues with copies of parameters and bindings, or is refused with the status of the first check
that fails (R50, R51). That status 0x12 leaves the slot empty is the model's reading (log 48). -/
def Obligations.ImageMessages : Prop :=
  ∀ (s : State) (h : MsgHdr) (slot set ep prio plen : Byte) (haddr ha ext : BitVec 64) (len : Word) (graph : BitVec 16)
    (param : BitVec 384),
    let f := h.func.toNat
    let k := slot.toNat
    (haddr.toNat % 4096 = 0 → 4096 ≤ len.toNat → len.toNat ≤ 2 ^ 30 →
      (s.slotBusy f k = false → TakenUp (.imageLoad h slot haddr len) s h 0x04 false (fun t =>
        { t.lat.2 with
          mgmt := t.mgmt ++ [.imageLoad f k h.tag haddr.toNat len.toNat]
          timers := t.timers ++ [(t.cycle + t.lat.1, 0, .ev (.imageLoadDone f k true) Focus.none)] })) ∧
      (s.slotBusy f k = true → RefusedWith (.imageLoad h slot haddr len) s h 0x04 false 0x05)) ∧
    (∀ tag a n, s.mgmt = [.imageLoad f k tag a n] →
      let t := ({ s with mgmt := [] }).emptySlot f k
      exec (.imageLoadDone f k false) s = .next (t.complete f 0x04 0x12 tag 0 0 none) ∧
      (∀ e, t.loadImage f k n (t.host.readN a n) = .error e →
        exec (.imageLoadDone f k true) s = .next (t.complete f 0x04 e tag 0 0 none)) ∧
      (∀ u, t.loadImage f k n (t.host.readN a n) = .ok u →
        exec (.imageLoadDone f k true) s = .next (u.complete f 0x04 0 tag 0 0 none))) ∧
    (set.toNat ≤ 15 → ep.toNat ≤ 63 → ha.toNat % 64 = 0 → ext.toNat % 64 = 0 → 64 ≤ ext.toNat → ext.toNat ≤ 2 ^ 40 →
      (s.bindStatus f k ep.toNat ext.toNat = 0 → TakenUp (.endpointBind h slot set ep ha ext) s h 0x05 false (fun t =>
        t.modTenant f (fun x => { x with
          binds := x.binds.filter (fun b => !(b.1 == k && b.2.1 == set.toNat && b.2.2.1 == ep.toNat)) ++
            [(k, set.toNat, ep.toNat, ha.toNat, ext.toNat)] }))) ∧
      (∀ e, e ≠ 0 → s.bindStatus f k ep.toNat ext.toNat = e → RefusedWith (.endpointBind h slot set ep ha ext) s h 0x05 false e)) ∧
    (set.toNat ≤ 15 → prio.toNat ≤ 7 → plen.toNat ≤ 48 →
      (s.launchStatus f k set.toNat graph.toNat prio.toNat plen.toNat = 0 → ∃ im, s.imageOf f k = some im ∧
        TakenUp (.launch h slot set graph prio plen param) s h 0x06 false (fun t => t.modTenant f (fun x => { x with
          queue := x.queue ++ [{ Launch.none with
            func := f, tag := h.seq, host := h.tag, aseq := h.seq.toNat, slot := k, set := set.toNat, graph := graph.toNat
            prio := prio.toNat, plen := plen.toNat, param := param, img := im.img, bufs := im.bufs
            binds := x.bindsOf k set.toNat }] }))) ∧
      (∀ e, e ≠ 0 → s.launchStatus f k set.toNat graph.toNat prio.toNat plen.toNat = e →
        RefusedWith (.launch h slot set graph prio plen param) s h 0x06 false e))

/-- SIGNAL delivers a value to the queue of the launch it names, resumes the region of the fault it names, or ends that fault's
launch with COMPLETE 0x07; a launch or fault that is not there refuses it with 0x03, a full queue with 0x04 (R53).
HOST_WRITE_FAILED ends its launch with 0x12 (R162), LAUNCH_COMPLETE removes a launch that is over and sends its COMPLETE (R52),
TENANT_DESTROY_DONE frees what the tenant held and sends the destroy's COMPLETE (R55), and PREFIX_ENTRY_RECLAIM drops an entry
with REF 0 that nothing holds (R238). Of equal TAGs the launch accepted first is named: the model's reading (log 31). -/
def Obligations.SignalsAndEnds : Prop :=
  ∀ (s : State) (h : MsgHdr) (ltag value fid : Word) (func idx : Nat),
    let f := h.func.toNat
    (∀ l, s.namedLaunch f ltag = some l → l.signals.length < 16 → Arrives s h → WellSent s h false →
      ∃ l' u, (acked s h 0x07 0).namedLaunch f ltag = some l' ∧
        u = (acked s h 0x07 0).modLaunch f l'.tag (fun l => { l with signals := l.signals ++ [value] }) ∧
        exec (.signalValue h ltag value) s = .next { u with regions := u.regions.map (fun (p : Nat × Region) =>
          (p.1, if p.2.func = f ∧ p.2.ltag = l'.tag then { p.2 with brk := p.2.brk.map (fun b => { b with out := true }) } else p.2)) }) ∧
    (s.namedLaunch f ltag = none → RefusedWith (.signalValue h ltag value) s h 0x07 false 0x03) ∧
    (∀ l, s.namedLaunch f ltag = some l → 16 ≤ l.signals.length → RefusedWith (.signalValue h ltag value) s h 0x07 false 0x04) ∧
    (∀ q, s.namedFault f ltag fid = some q →
      TakenUp (.signalResume h ltag fid) s h 0x07 false (fun t => t.resumeFault f q) ∧
      TakenUp (.signalAbort h ltag fid) s h 0x07 false (fun t => t.endLaunch f q.ltag 0x07)) ∧
    (s.namedFault f ltag fid = none →
      RefusedWith (.signalResume h ltag fid) s h 0x07 false 0x03 ∧ RefusedWith (.signalAbort h ltag fid) s h 0x07 false 0x03) ∧
    ((s.launchOf func ltag).isSome = true → exec (.hostWriteFailed func ltag) s = .next (s.endLaunch func ltag 0x12)) ∧
    (∀ l, (s.dropRegionsOf func ltag).launchOf func ltag = some l →
      let u := (s.dropRegionsOf func ltag).modTenant func (fun x => { x with queue := x.queue.filter (fun q => !(q.tag == ltag)) })
      let v := { u with nmp := { u.nmp with flts := u.nmp.flts.filter (fun q => !(q.func == func && q.ltag == ltag)) } }
      exec (.launchComplete func ltag) s =
        .next ((v.complete func 0x06 (l.status.getD 0) l.host l.pcyc l.bytes l.flt).creditClear func).choiceEvent) ∧
    (∀ t tag, s.tenant func = some t → t.dying = some tag → s.destroyReady func = true →
      exec (.tenantDestroyDone func) s = .next ((s.freeTenant func).complete 0 0x03 0 tag 0 0 none)) ∧
    exec (.prefixEntryReclaim func idx) s = .next (s.modTenant func (fun t => match t.prefixes[idx]? with
      | some e => if e.ref = 0 ∧ e.holds = [] ∧ !e.sticky then { t with prefixes := t.prefixes.eraseIdx idx } else t
      | none => t))

/-- FW.STAGE, FW.ACTIVATE, CAL.RUN and RETIRE are taken up from function 0 with the effects of R59 to R62, and RETIRE is refused with 0x14
where the part must keep its target; their ends keep or replace what R59 to R62 name and send one COMPLETE with the status of the first
check that fails (0x12 where host memory cannot be read, 0x13 where a die or a target fails, whose firmware or calibration stays as it was). Status 0x13 with no staged bundle, and 0x14
of a RETIRE whose buffers find no room, are the model's choices (log 35, 62), and what a component's activation and a module's calibration
show are its readings (log 56, 57). -/
def Obligations.ManagementMessages : Prop :=
  ∀ (s : State) (h : MsgHdr) (haddr base ext : BitVec 64) (len tag : Word) (dies comp tkind index lane : Byte),
    let k := tkind.toNat
    let i := index.toNat
    (haddr.toNat % 4096 = 0 → len.toNat ≤ 2 ^ 26 → TakenUp (.fwStage h haddr len) s h 0x10 true (fun t =>
      { t.lat.2 with
        mgmt := t.mgmt ++ [.fwStage h.tag haddr.toNat len.toNat]
        timers := t.timers ++ [(t.cycle + t.lat.1, 0, .ev (.fwStageDone true) Focus.none)] })) ∧
    (∀ a n, s.mgmt = [.fwStage tag a n] →
      let b := s.host.readN a n
      exec (.fwStageDone false) s = .next (s.mgmtDone 0x10 0x12 tag) ∧
      (bundleStatus n b = 0 → exec (.fwStageDone true) s = .next (({ s with bundle := b }).mgmtDone 0x10 0 tag)) ∧
      (∀ e, e ≠ 0 → bundleStatus n b = e → exec (.fwStageDone true) s = .next (s.mgmtDone 0x10 e tag))) ∧
    (dies ≠ 0#8 → comp.toNat ≤ 2 →
      let l := (List.range 8).filter (fun d => dies.getLsbD d)
      (s.bundle = [] → TakenUp (.fwActivate h dies comp) s h 0x11 true (fun t => t.complete 0 0x11 0x13 h.tag 0 0 none)) ∧
      (s.bundle ≠ [] → TakenUp (.fwActivate h dies comp) s h 0x11 true (fun t =>
        ({ t with mgmt := t.mgmt ++ [Mgmt.fwActivate h.tag l comp.toNat] }).startDie comp.toNat ((l.head?).getD 0)))) ∧
    (∀ d c, s.mgmt = [.fwActivate tag [d] c] → s.dieVacant d = true →
      let t := { s.dieFreed d with dies := s.dies.modify d (fun x => { x with excluded := false }), choicePend := true }
      exec (.fwActivateDieDone false) s = .next (t.mgmtDone 0x11 0x13 tag) ∧
      exec (.fwActivateDieDone true) s = .next (({ t with
        dies := t.dies.modify d (fun x => { x with fwver := s.staged.1 })
        bootKeys := if d = 0 then some s.staged.2 else s.bootKeys }).mgmtDone 0x11 0 tag)) ∧
    (i < calTargets k → TakenUp (.calRun h tkind index) s h 0x12 true (fun t =>
      let u := { t with mgmt := t.mgmt ++ [Mgmt.calRun h.tag k i] }
      if tkind = 0#8 then (u.retrain i).modPort i (fun q =>
        if q.st = .retraining then { q with bad := [], prior := some (q.bad, q.width) } else q) else u)) ∧
    (∀ q n, s.mgmt = [.calRun tag q n] → ¬(q = 0 ∧ (s.port n).st = .retraining) →
      exec (.calRunDone false) s = .next ((if q = 0 then s.modPort n (fun p => match p.prior with
          | none => p
          | some (bad, width) =>
            let c := { p with bad := bad, prior := none }
            if p.st = .active then { c with width := Min.min width (laneWidth c.lost).1, spare := (laneWidth c.lost).2 } else c)
        else s).mgmtDone 0x12 0x13 tag) ∧
      exec (.calRunDone true) s = .next ((if q = 0 then s.modPort n (fun p => if p.st = .active then
          { p with width := (laneWidth p.lost).1, spare := (laneWidth p.lost).2, prior := none } else { p with prior := none })
        else if q = 1 then { s with hlmod := s.hlmod.set n true } else s).mgmtDone 0x12 0 tag)) ∧
    (k ≤ 2 → i < (if k = 0 then 128 else if k = 1 then 16 else 18) → lane.toNat ≤ 17 → base.toNat % 2 ^ 21 = 0 → ext.toNat % 2 ^ 21 = 0 →
      (s.retireStatus k i base.toNat ext.toNat = 0 → TakenUp (.retire h tkind index lane base ext) s h 0x13 true (fun t =>
        let u := ({ t with mgmt := t.mgmt ++ [Mgmt.retire h.tag k i lane.toNat base.toNat ext.toNat] }).exclude k i lane.toNat
          base.toNat ext.toNat
        u.askRetire k i (u.emptied k i base.toNat ext.toNat))) ∧
      (s.retireStatus k i base.toNat ext.toNat = 0x14 → RefusedWith (.retire h tkind index lane base ext) s h 0x13 true 0x14)) ∧
    (∀ q n x a e u, s.mgmt = [.retire tag q n x a e] → s.retireReady q n (s.emptied q n a e) = true →
      (if q = 0 then s.dropDie (dieOfPage n) else s).vacate (s.emptied q n a e) = some u →
      exec .retireDone s = .next { (if q = 0 then u.endStranded else u).mgmtDone 0x13 0 tag with choicePend := true }) ∧
    (∀ q n x a e, s.mgmt = [.retire tag q n x a e] → s.retireReady q n (s.emptied q n a e) = true →
      (if q = 0 then s.dropDie (dieOfPage n) else s).vacate (s.emptied q n a e) = none →
      exec .retireDone s = .next ((s.readmit q n a e).mgmtDone 0x13 0x14 tag))

/-- The NMP sideband registers act as R41, R56 and R57 say: NMPDACK advances the acknowledgement and drops the kept messages it
covers, or is ignored; NMPERR bits clear on a written 1 and its count on 0xFFFF; HOLD, HELD, RESYNC, RESEND and the release of a
hold; and DEVICE_MESSAGE_SEND sends a message to be sent again first, else the queue's head under the next SEQ while the window
has room (R40, R41); the ways and the class that the ACK of a budget carries govern from the cycle in which it is sent, or in which RESYNC drops it (R433). -/
def Obligations.NmpRegisters : Prop :=
  ∀ (s : State) (v : Word),
    let n := s.nmp
    let d := (v - n.dack).toNat
    ((d = 0 ∨ (n.diss - n.dack).toNat < d) → exec (.nmpdackWrite v) s = .next s) ∧
    (1 ≤ d → d ≤ (n.diss - n.dack).toNat → ∃ t, exec (.nmpdackWrite v) s = .next t ∧ t.nmp.dack = v ∧
      t = { s with nmp := { n with dack := v, kept := t.nmp.kept, fin := t.nmp.fin } } ∧
      ∀ p, p ∈ t.nmp.kept ↔ p ∈ n.kept ∧ d < (BitVec.ofNat 32 p.1 - n.dack).toNat) ∧
    exec (.nmperrClear v) s = .next { s with nmp := { n with
      errSeq := n.errSeq && !(bitAt v 17), errWin := n.errWin && !(bitAt v 16)
      errCount := if bitsOf v 15 0 = 0xFFFF then 0 else n.errCount } } ∧
    exec .nmpctlHoldSet s = .next { s with nmp := { n with hold := true } } ∧
    (n.hold = true → exec .holdEstablished s = .next { s with nmp := { n with held := true } }) ∧
    (n.hold = true → ∃ t, exec .nmpctlResync s = .next t ∧ t.nmp.dack = n.diss ∧ t.nmp.kept = [] ∧ t.nmp.queue = [] ∧
      t.nmp.snap = true ∧ t.nmp.prep = snapMsgs 0 0#32 t.fullRecs ∧
      t.tenants = ((n.queue.filterMap (·.eff)).foldl (fun (u : State) b => u.modTenant b.func (fun x =>
        { x with cls := b.cls, ways := b.ways })) s).tenants ∧
      t.nmp.fin.map (fun f => { f with seq := none }) = n.fin.map (fun f => { f with seq := none }) ∧
      t.nmp.flts = n.flts ++ (n.kept.map Prod.snd ++ n.queue).filterMap s.faultLeft ∧ t.nmp.errCount =
        Min.min 65535 (n.errCount + ((n.kept.map Prod.snd ++ n.queue).filter (fun m => m.kind == 0x83)).length)) ∧
    (n.snap = false → exec .nmpctlHoldRelease s = .next { s with nmp := { n with hold := false, held := false } }) ∧
    (n.snap = true → s.viral = false → ∃ t, exec .nmpctlHoldRelease s = .next t ∧ t.nmp.hold = false ∧ t.nmp.held = false ∧
      t.nmp.snap = false ∧
      t.nmp.queue = n.prep ++ n.queue ∧ t.nmp.prep = []) ∧
    (n.hold = false → n.resend = false → n.resending = [] → n.snap = false → n.queue.any (fun m => m.kind == 0x85) = false →
      exec .nmpctlResend s = .next { s with nmp := { n with resend := true } }) ∧
    (n.hold = true → exec .nmpctlResend s = .next s) ∧
    (n.resend = true → n.resending = [] →
      exec .resendStart s = .next { s with nmp := { n with resend := n.kept != [], resending := n.kept } }) ∧
    (s.canSend = true →
      (∀ q m rest, n.resending = (q, m) :: rest → exec .deviceMessageSend s = .next { s with nmp := { n with
        resending := rest, resend := rest != [], out := n.out ++ [s.wire (BitVec.ofNat 32 q) m] } }) ∧
      (∀ m rest, n.resending = [] → n.queue = m :: rest → ∃ t, exec .deviceMessageSend s = .next t ∧ t.nmp.diss = n.diss + 1#32 ∧
        t.nmp.queue = rest ∧ t.nmp.kept = n.kept ++ [((n.diss + 1#32).toNat, m)] ∧
        t.nmp.out = n.out ++ [s.wire (n.diss + 1#32) m] ∧
        (m.eff = none → t.tenants = s.tenants) ∧
        ∀ b, m.eff = some b → t.tenants = (s.modTenant b.func (fun x => { x with cls := b.cls, ways := b.ways })).tenants))

/-! ## The part -/

/-- Droop and heat stretch a die's clock, whose cycle is 0.8 ns and at most twice that, and each droop is counted (R26, R28, R32); the
ECC counts count and clear, a register write that names nothing has no effect, a corrected error is only counted, and an uncorrectable
one poisons its word or sector, waits in a round's shadow or in saved state until it is found, or, in shared tables, makes the part
viral (R252 to R256); thermal trip, a fatal condition and the loss of the last host-link module make it viral, with the commits
discarded and no byte changed (R10, R23 to R25, R28). How a place is numbered, ECCLOC's open fields, the length of a stretched cycle and
that every shared table makes the part viral are the model's choices and readings (log 10, 38, 52). -/
def Obligations.ClockAndErrors : Prop :=
  ∀ (s : State) (die loc m k : Nat) (off v : Word),
    let l := errLoc loc
    let struck := { s with eccu := satInc s.eccu, eccloc := s.eccLoc k loc }
    exec (.droopDetect die) s = .next (s.modDie die (fun d => { d with
      droop := true, droops := if d.droops = 0xFFFFFFFF#32 then d.droops else d.droops + 1#32 })) ∧
    exec (.droopRecover die) s = .next (s.modDie die (fun d => { d with droop := false })) ∧
    exec (.thermalLimit die) s = .next (s.modDie die (fun d => { d with heat := true })) ∧
    exec (.thermalRecover die) s = .next (s.modDie die (fun d => { d with heat := false })) ∧
    ((∀ d ∈ s.dies, d.service = true → d.droop = false ∧ d.heat = false) → s.nsStep = 8) ∧ 8 ≤ s.nsStep ∧ s.nsStep ≤ 16 ∧
    10 * s.tick.ns + s.tick.nsTenth = 10 * s.ns + s.nsTenth + s.nsStep ∧ s.tick.cycle = s.cycle + 1 ∧
    exec (.droopCountClear die) s = .next (s.modDie die (fun d => { d with droops := 0#32 })) ∧
    exec (.eccCountClear false) s = .next { s with eccc := 0#32 } ∧ exec (.eccCountClear true) s = .next { s with eccu := 0#32 } ∧
    exec (.registerWriteIgnored off v) s = .next s ∧ exec (.scrubPass false) s = .next s ∧
    exec (.scrubPass true) s = .next (({ s with eccu := satInc s.eccu, eccloc := s.eccLoc 3 0 }).goViral 4) ∧
    (k = 2 ∨ k = 3 ∨ k = 4 ∨ k = 6 → exec (.softError k loc false) s = .next { s with eccc := satInc s.eccc }) ∧
    (k = 0 ∨ k = 1 ∨ k = 5 ∨ k = 7 → exec (.softError k loc false) s = .next { s with
      eccc := satInc s.eccc, regions := s.regions.modify l.r (fun g => g.count 0x0A (s.errPage l) 1) }) ∧
    (k = 2 ∨ k = 4 → exec (.softError k loc true) s = .next { struck with poison := insertUniq (loc / 64) s.poison }) ∧
    (k = 0 ∨ k = 1 ∨ k = 7 → exec (.softError k loc true) s = .next { struck with
      regions := s.regions.modify l.r (fun g => g.poisonWord l (errWord k l)) }) ∧
    (k = 5 → exec (.softError k loc true) s = .next { struck with regions := s.regions.modify l.r (fun g =>
      { g with shadowBad := some (s.errPage l, l.key % 32, l.key / 32 % 32, l.word) }) }) ∧
    (k = 6 → exec (.softError k loc true) s = .next { struck with items := s.items.map (fun i => { i with saved := i.saved.map (fun g =>
      if g.num = l.r then { g with savedBad := some (l.key / 1024) } else g) }) }) ∧
    (k = 3 → s.viral = false → ∃ t, exec (.softError k loc true) s = .next t ∧ t.viral = true ∧ t.viralCause = 4#8) ∧
    (s.viral = false → ∀ i c, (i, c) ∈ [(Instr.thermalTrip, 5#8), (.firmwareFatal, 6#8)] → ∃ t, exec i s = .next t ∧
      t.viral = true ∧ t.viralCause = c ∧ (∀ r g, t.regions.find r = some g → g.commit = [] ∧ g.commitOn = false) ∧
      (∀ r sg x y, Op.fire r sg x y ∉ t.ready) ∧ t.coh = s.coh ∧ t.dram = s.dram ∧ t.host = s.host) ∧
    (s.viral = true → exec .thermalTrip s = .next s ∧ exec .firmwareFatal s = .next s) ∧
    ((s.hlmod.set m false).any id = true → exec (.hostLinkModuleLoss m) s = .next { s with hlmod := s.hlmod.set m false }) ∧
    ((s.hlmod.set m false).any id = false → s.viral = false → ∃ t, exec (.hostLinkModuleLoss m) s = .next t ∧ t.viral = true ∧
      t.viralCause = 3#8)

/-- A reset is asked for by RSTCTL, by power, or by firmware, each with its cause, firmware's only of a part that is not viral and awaits
no other (R25, R33, R34), and its sequence leaves the part as R32 to R36 say: only function 0 exists, nothing is bound, queued or mapped, the causes and
modules read as they are, and a page or die that fails its self-test is out of service; a port without four lanes, and the want of any
host-link module, leave the part viral (R10, R17), and boot firmware that fails its check leaves it held and viral with cause 0x01.
What a reset by firmware keeps is the model's reading (log 39), and that a later write of RSTCTL changes the kind of the reset that is
pending, and that memory then lists nothing, its choices (log 81, 2). -/
def Obligations.Resets : Prop :=
  ∀ (s : State) (badPages badDies badModules : List Nat),
    exec .rstctlWarmReset s = .next { s with resetPend := some 1#2 } ∧ exec .rstctlColdReset s = .next { s with resetPend := some 0#2 } ∧
    exec .powerOn s = .next { s with resetPend := some 0#2 } ∧
    (s.viral = false → s.resetPend = none → exec .firmwareInitiatedReset s = .next { s with resetPend := some 2#2 }) ∧
    (s.viral = true ∨ s.resetPend ≠ none → exec .firmwareInitiatedReset s = .next s) ∧
    (s.viral = true → s.resetPend = some 2#2 → ∀ ok, exec (.resetSequence ok badPages badDies badModules) s = .next { s with resetPend := none }) ∧
    (∀ c, s.resetPend = some c → ¬(s.viral = true ∧ c = 2#2) →
      let out := ((if c = 0#2 then [] else s.retired) ++ badPages).dedup
      let portOf := fun (n : Nat) => portAfter (diesAfter out badDies) (if c = 0#2 then [] else (s.port n).retired) n
      let modules := if c = 1#2 then s.hlmod else (List.range 4).map (fun m => !(badModules.contains m))
      ((∀ n, n < 18 → (portOf n).st ≠ .failed) → (∃ m : Nat, modules[m]? = some true) → ∃ t,
        exec (.resetSequence true badPages badDies badModules) s = .next t ∧
        t.rstCause = c ∧ t.resetPend = none ∧ t.viral = false ∧ t.held = false ∧ t.tenants = [(0, Tenant.zero)] ∧ t.regions = [] ∧
        t.bufs = [] ∧ t.items = [] ∧ t.coh = [] ∧ t.dram = [] ∧ t.host = s.host ∧ t.l2 = [] ∧ t.ranges = [] ∧
        t.nmp = { Nmp.reset with out := s.nmp.out } ∧ t.hlmod = modules ∧
        (∀ q, q ∈ t.retired ↔ q ∈ badPages ∨ (c ≠ 0#2 ∧ q ∈ s.retired)) ∧ (∀ n, n < 18 → t.port n = portOf n) ∧
        (∀ d, d < 8 → d ∈ badDies → (t.dies[d]?).map (·.service) = some false)) ∧
      ((∃ n, n < 18 ∧ (portOf n).st = .failed) → ∃ t, exec (.resetSequence true badPages badDies badModules) s = .next t ∧
        t.viral = true ∧ t.viralCause = 2#8 ∧ t.rstCause = c) ∧
      ((∀ n, n < 18 → (portOf n).st ≠ .failed) → (∀ m : Nat, modules[m]? ≠ some true) → ∃ t,
        exec (.resetSequence true badPages badDies badModules) s = .next t ∧ t.viral = true ∧ t.viralCause = 3#8 ∧ t.rstCause = c) ∧
      (∃ t, exec (.resetSequence false badPages badDies badModules) s = .next t ∧ t.held = true ∧
        t.viral = true ∧ t.viralCause = 1#8 ∧ t.rstCause = c))

/-- An L2 way without a pinned line is emptied and gated, every byte staying as agents see it, one with a pinned line is never
gated, a woken way is merely available again, and a viral part gates and wakes none (R24, R31). A block loses HOT when its time has
come, and not before (R155). A hold takes effect at a line once the line's dirty sectors are in the row (R159); a held row may be
suspended, is held again within 438 cycles, and nothing of memory changes (R161). -/
def Obligations.WaysAndRows : Prop :=
  ∀ (s : State) (die way block row line : Nat),
    (s.viral = true → ∀ g, exec (.l2WayGate die way g) s = .next s) ∧
    (s.viral = false → exec (.l2WayGate die way false) s = .next { s with gatedWays := s.gatedWays.filter (· != (die, way)) }) ∧
    (s.l2.any (fun p => dieOfSet p.1 == die && p.2.any (fun l => l.way == way && l.pin)) = true →
      exec (.l2WayGate die way true) s = .next s) ∧
    (s.viral = false → s.l2.any (fun p => dieOfSet p.1 == die && p.2.any (fun l => l.way == way && l.pin)) = false → ∃ t,
      exec (.l2WayGate die way true) s = .next t ∧ (die, way) ∈ t.gatedWays ∧ t.coh = s.coh ∧
      ∀ k ls, t.l2.find k = some ls → ∀ l ∈ ls, homeDie (l.ln * 256) = die → l.way ≠ way) ∧
    (s.hot.find block = none → exec (.hotBlockTimeout block) s = .next s) ∧
    (∀ due, s.hot.find block = some due → s.cycle < due → exec (.hotBlockTimeout block) s = .next s) ∧
    (∀ due, s.hot.find block = some due → due ≤ s.cycle → ∃ t, exec (.hotBlockTimeout block) s = .next t ∧ t.hot = s.hot.del block ∧
      (s.coh.wf = true → t.coh.read block = s.coh.read block &&& 0xEF#8 ∧ ∀ a, a ≠ block → t.coh.read a = s.coh.read a)) ∧
    (s.rowHold (line * 256) = none → exec (.holdTakesEffect line) s = .next s) ∧
    (∀ h, s.rowHold (line * 256) = some h → h.st ≠ .saved → exec (.holdTakesEffect line) s =
      .next ((s.flushLines (fun l => l.ln == line) true true).modHold h.pa (fun k => { k with lines := insertUniq line k.lines }))) ∧
    (∀ h, s.rowHold (row * 1024) = some h → h.st = .held → ∃ t n, n ≤ 438 ∧ exec (.holdSuspend row) s = .next t ∧ SameMemory s t ∧
      t.rows = s.rows.map (fun k => if k.pa = row * 1024 ∧ k.st = .held then { k with st := .suspended } else k) ∧
      t.timers = s.timers ++ [(s.cycle + n, 0, .ev (.holdResume row) Focus.none)]) ∧
    exec (.holdResume row) s = .next (s.modHold (row * 1024) (fun k => if k.st = .suspended then { k with st := .held } else k))

/-- A flit whose CRC fails is discarded and a replay is wanted, and the ninth within 65,536 flits makes the port retrain; a sound one is
accepted only in sequence, a duplicate has no effect, one further ahead is not accepted and a replay is wanted, a request that its adder's
full chain holds back stays with its sender, while no other class is held back, and an idle flit brings an acknowledgement only (R11, R12,
R14, R20). A replay request sends the replay buffer again in its order. A lane that fails its eye makes an active port retrain; at the
end of the training, with what has failed meanwhile, the port is active at a width that never grows, or, with fewer than four lanes, it
has failed and the part is viral, and a port of a retired die is down (R14 to R17). An off-package write is what memory then holds at
its bytes and nowhere else, and a read leaves memory as it was and is answered in the response class with the bytes that DRAM holds, 120
to a flit (R11, R166). That a port which is not active ignores flits, and when a chain
is full, are the model's readings (log 49). -/
def Obligations.Ports : Prop :=
  ∀ (s : State) (port lane pa n : Nat) (f : Flit) (failed : List Nat) (far : BitVec 12) (data : List Byte),
    let p := s.port port
    let lanes := ((p.bad ++ failed).dedup ++ p.retired).dedup
    ((p.st ≠ .active ∨ s.ports.find port = none) → exec (.flitReceive port f) s = .next s) ∧
    (p.st = .active → s.ports.find port = some p → f.crcOk = false → ∃ t, exec (.flitReceive port f) s = .next t ∧
      (t.port port).wants = true ∧ (t.port port).rxSeq = p.rxSeq ∧ (t.port port).got = p.got ∧
      ((t.port port).st = .retraining ↔ 8 ≤ (p.errs.filter (fun k => decide (p.flits < k + 65536))).length)) ∧
    (p.st = .active → s.ports.find port = some p → f.crcOk = true → f.rsv ≠ 0#5 → exec (.flitReceive port f) s =
      .next (s.modPort port (fun q => { q with flits := q.flits + 1, wants := true }))) ∧
    (p.st = .active → s.ports.find port = some p → f.crcOk = true → f.rsv = 0#5 → f.cls ≠ 3#2 →
      (f.seq.toNat = (p.rxSeq + 1) % 4096 → s.linkHeld port f = false → ∃ t, exec (.flitReceive port f) s = .next t ∧
        (t.port port).rxSeq = f.seq.toNat ∧ (t.port port).got = p.got ++ [(f.cls.toNat, f.payload)]) ∧
      (f.seq.toNat = (p.rxSeq + 1) % 4096 → s.linkHeld port f = true → ∃ t, exec (.flitReceive port f) s = .next t ∧
        (t.port port).rxSeq = p.rxSeq ∧ (t.port port).got = p.got ∧ (t.port port).wants = true) ∧
      (f.cls ≠ 0#2 → s.linkHeld port f = false) ∧
      (∀ k, k < 512 → (f.seq.toNat + k) % 4096 = p.rxSeq % 4096 → ∃ t, exec (.flitReceive port f) s = .next t ∧
        (t.port port).rxSeq = p.rxSeq ∧ (t.port port).got = p.got ∧ (t.port port).wants = p.wants) ∧
      (∀ k, 2 ≤ k → k ≤ 3584 → f.seq.toNat = (p.rxSeq + k) % 4096 → ∃ t, exec (.flitReceive port f) s = .next t ∧
        (t.port port).rxSeq = p.rxSeq ∧ (t.port port).got = p.got ∧ (t.port port).wants = true)) ∧
    (p.st = .active → s.ports.find port = some p → f.crcOk = true → f.rsv = 0#5 → f.cls = 3#2 → ∃ t, exec (.flitReceive port f) s = .next t ∧
      (t.port port).rxSeq = p.rxSeq ∧ (t.port port).got = p.got ∧ (t.port port).wants = p.wants) ∧
    (s.viral = false → exec (.replayRequest port) s =
      .next (s.modPort port (fun q => if q.st = .active then { q with out := q.out ++ q.replay } else q))) ∧
    (s.ports.find port = some p → ∃ t, exec (.laneEyeFail port lane) s = .next t ∧ lane ∈ (t.port port).bad ∧
      (t.port port).st = (if p.st = .active then .retraining else p.st)) ∧
    (p.st ≠ .retraining → exec (.portRetrainDone port failed far) s = .next s) ∧
    (p.st = .retraining → s.ports.find port = some p → s.portDown port = true → ∃ t,
      exec (.portRetrainDone port failed far) s = .next t ∧ (t.port port).st = .down ∧ t.viral = s.viral) ∧
    (p.st = .retraining → s.ports.find port = some p → s.portDown port = false →
      (laneWidth lanes).1 = 0 → s.viral = false → ∃ t,
      exec (.portRetrainDone port failed far) s = .next t ∧ (t.port port).st = .failed ∧ t.viral = true ∧ t.viralCause = 2#8) ∧
    (p.st = .retraining → s.ports.find port = some p → s.portDown port = false →
      (laneWidth lanes).1 ≠ 0 → ∃ t, exec (.portRetrainDone port failed far) s = .next t ∧
      (t.port port).st = .active ∧ (t.port port).width = Min.min p.width (laneWidth lanes).1 ∧ t.viral = s.viral) ∧
    (s.viral = true → exec (.portWrite port pa data) s = .next s) ∧
    (s.viral = false → data ≠ [] → s.coh.wf = true → s.dram.wf = true → ∃ t, exec (.portWrite port pa data) s = .next t ∧
      (∀ i, i < data.length → data[i]? = some (t.coh.read (pa + i)) ∧ data[i]? = some (t.dram.read (pa + i))) ∧
      (∀ a, a < pa ∨ pa + data.length ≤ a → t.coh.read a = s.coh.read a)) ∧
    (∃ t, exec (.portRead port pa n) s = .next t ∧ SameMemory s t ∧ (s.viral = true → n = 120 → s.ports.find port = some p →
      (t.port port).waiting = p.waiting ++ [(1, s.dram.readN pa 120)])) ∧
    (s.viral = false → p.st = .active → s.ports.find port = some p → p.waiting = [] → n ≤ 120 → 0 < n → p.replay.length < 512 → ∃ t fl,
      exec (.portRead port pa n) s = .next t ∧ (t.port port).out = p.out ++ [fl] ∧ (t.port port).waiting = [] ∧ fl.cls = 1#2 ∧
      fl.payload.take n = s.dram.readN pa n ∧ fl.seq = BitVec.ofNat 12 p.txSeq) ∧
    (s.viral = true ∨ p.st ≠ .active → s.ports.find port = some p → ∃ (t : State) (l : List (List Byte)), exec (.portRead port pa n) s = .next t ∧
      (t.port port).waiting = p.waiting ++ l.map (fun b => (1, b)) ∧ l.length = (n + 119) / 120 ∧ (∀ b ∈ l, b.length = 120) ∧
      l.flatten.take n = s.dram.readN pa n)

/-! ## Binds, rounds and spans -/

/-- LAUNCH_ACTIVATE makes the queue's next launch active and releases its loads without a predecessor (R66, R68);
FABRIC_LOAD_RELEASE makes a load a ready item, or ends the launch with 0x04 where it can never be bound (R70); FABRIC_LOAD_BIND
binds the chosen item on a placement of free pages, or refuses its load (R78, R125); BANK_WAKE_DONE wakes the banks (R29); a
choice follows where R75 names one. That a bind calls for a choice, and when a load is found never to bind, are the model's
readings (log 27, 58). -/
def Obligations.ReleasesAndBinds : Prop :=
  ∀ (s : State) (func load : Nat) (ltag : Word),
    (∀ l, s.nextLaunch func = some l → l.tag = ltag →
      let u := (l.loads.filter (fun d => d.preds == [])).foldl (fun (u : State) d => u.releaseLoad func ltag d.load)
        (s.modLaunch func ltag (fun l => { l with active := true }))
      exec (.launchActivate func ltag) s = .next (u.choiceAfter (u.newPrio s))) ∧
    (∀ l, s.launchOf func ltag = some l → l.noMore = false → l.released.contains load = false →
      let i : Ready := { func := func, ltag := ltag, aseq := l.aseq, load := load, prio := l.prio, rel := s.cycle, saved := none }
      let t := s.modLaunch func ltag (fun l => { l with released := l.released ++ [load] })
      let u : State := { t with items := s.items ++ [i] }
      let v := t.endLaunch func ltag 0x04
      (s.neverBinds i = false → exec (.fabricLoadRelease func ltag load) s = .next (u.choiceAfter (u.newPrio s))) ∧
      (s.neverBinds i = true → exec (.fabricLoadRelease func ltag load) s = .next (v.choiceAfter (v.newPrio s)))) ∧
    (s.chosenItem = none → exec .fabricLoadBind s = .next s) ∧
    (∀ i l pages, s.chosenItem = some i → s.launchOf i.func i.ltag = some l → s.placement i s.pageFree = some pages →
      (s.needsWheel i = true → s.freeWheel.isSome = true) →
      (∀ e, i.saved = none → bindErr l.img s.boundAdders (placeSigs (s.itemSigs i) pages) = some e →
        exec .fabricLoadBind s = .next (s.refuseLoad i e).choiceEvent) ∧
      exec .fabricLoadBind s = .next (s.bindItem i l pages).choiceEvent) ∧
    (Bound s → ∃ t, exec .bankWakeDone s = .next t ∧ OnlyRegion s t ∧
      ∀ k e, t.rg.now.elems.find k = some e → ∃ e', s.rg.now.elems.find k = some e' ∧ e = { e' with waking := [] })

/-- BIND_COMPLETE and ROUND_START begin a round with every span at counter 0 and the checkpoint taken (R102, R120, R122);
a saved region goes on running, or its launch ends where what was saved cannot be read (R254). A region that was asked to yield while it
bound saves at BIND_COMPLETE, within what is left of the bounds of R88, which is the model's reading (log 85). REPLAY_START runs the round
again from the checkpoint that the void has restored (R123). YIELD_SAVE_DONE saves the region, once its commit is done and no row that it
holds is suspended, and gives its pages back (R88 to R92, R163), whether or not a HALT is to end it at its next boundary (R420). -/
def Obligations.RoundStarts : Prop :=
  ∀ (s : State), Bound s →
    (s.rg.saved = false → s.rg.yieldReq = none → ∃ t, exec .bindComplete s = .next t ∧ RoundBegins s t) ∧
    (∀ sg, s.rg.saved = true → s.rg.savedBad = some sg → exec .bindComplete s = .next
      (((s.chargeSave s.rg s.rg.savedOwn 0 s.rg.saveBytes).modR (fun g => { g with saved := false, savedOwn := false })).endByFault
        s.focus.r (s.rg.savedFault sg) true)) ∧
    (s.rg.saved = true → s.rg.savedBad = none → ∃ t, exec .bindComplete s = .next t ∧ (t.reg s.focus.r).saved = false ∧
      (s.rg.yieldReq = none → (t.reg s.focus.r).mode = .running)) ∧
    (∀ q, s.rg.yieldReq = some q → (s.rg.saved = true → s.rg.savedBad = none) → ∃ t n, exec .bindComplete s = .next t ∧
      (t.reg s.focus.r).mode = .saving n true ∧ n ≤ s.cycle + 10000 ∧ (s.cycle ≤ q + 22500 → n ≤ q + 22500)) ∧
    (∃ t, exec .roundStart s = .next t ∧ RoundBegins s t) ∧
    (∃ t, exec .replayStart s = .next t ∧ OnlyRegion s t ∧ t.rg = { s.rg with mode := .running, limit := 0, cyc := 0 }) ∧
    (s.rg.commitOn = true ∨ (∃ h ∈ s.rows, h.r = s.focus.r ∧ h.st = .suspended) → exec .yieldSaveDone s = .next s) ∧
    (s.rg.commitOn = false → (∀ h ∈ s.rows, h.r = s.focus.r → h.st ≠ .suspended) → ∃ t, exec .yieldSaveDone s = .next t ∧
      t = ((s.finishSave s.focus.r).creditClear s.rg.func).choiceAfter ((s.finishSave s.focus.r).newPrio s))

/-- ROUND_BOUNDARY ends the round of the region in focus: what was staged is the commit's, in its order, the round's counts stand apart,
and the region saves, drains, or starts its next round 8 cycles after its boundary, which is the cycle after the last step (R86, R120,
R121). COMMIT_EPOCH_PERFORM performs the stores of the lowest epoch up to an RMW and drops them from the commit (R171); an item that has to
wait, for a suspended row or a walk, keeps those behind it, and a store that an unresolved fault keeps from its page while its region saves is
put off until it resumes, the model's reading (log 17). ROUND_COMMIT performs the late effects, the fold and then the counter writes, and
the commit is over (R121, R261): a ROWREL gives its row back (R160), a TRAP sends its EVENT (R413), a HALT lets nothing more be released and
stops its regions at their next boundary (R417), taken SIGNAL values leave their queue (R419), a new block is published with REF 1 and a
reference is counted (R237), the fold adds the counts, with all that a saving or draining region has counted since, the page-cycles and the round (R258,
R261, R263), and a PMWR leaves its value in the file
(R415). The order of stores within an epoch is the model's choice (log 55), and that the void count is 0 from the boundary on its reading
(log 42). The round limit and an unreleased debug break void the round by the shared fault operation, and what the void posts may call for yields (R85, R87, R249, R257), and a keystone pass
passes its signature, whose rows go, ends a region whose signatures have all passed, and calls for a choice (R119). -/
def Obligations.RoundEnds : Prop :=
  (∀ (s : State), Bound s →
      (∃ t, exec .roundBoundary s = .next t ∧
        let g := t.reg s.focus.r
        g.commitOn = true ∧ g.counts = [] ∧ g.now.staged = [] ∧ g.ckpt = g.now ∧ g.old = g.now ∧ g.limit = 0 ∧ g.cyc = 0 ∧ g.brk = none ∧
        g.voids = 0 ∧ g.holdsNew = [] ∧ t.focus = s.focus ∧ (s.rg.brk = none → ∃ more, g.commit = commitOrder (s.rg.now.staged ++ more)) ∧
        (g.mode = .draining ∨ (∃ n, g.mode = .saving n false) ∨ g.mode = .between (s.cycle + 9))) ∧
      (∃ t, exec .commitEpochPerform s = .next t ∧ t.focus = s.focus ∧
        (t.reg s.focus.r).commit = s.rg.commit.drop ((s.modR Region.swapCounts).performRun (headRun s.rg.commit)).1) ∧
      (∀ i va b hint bad, s.rg.commit = [i] → i.act = .store va b hint bad →
        let u := (s.modR Region.swapCounts).atItem i
        let v := u.storeVa u.rg.func { page := u.page, stamp := i.stamp, sched := i.sched, hint := hint } va b bad
        (u.putsOff i = false → u.itemWait i = none → ∃ t, exec .commitEpochPerform s = .next t ∧ (t.reg s.focus.r).commit = [] ∧
          t.coh = v.coh ∧ t.dram = v.dram ∧ t.l2 = v.l2) ∧
        (u.putsOff i = true → ∃ t, exec .commitEpochPerform s = .next t ∧ (t.reg s.focus.r).commit = [] ∧
          (t.reg s.focus.r).writeBacks = s.rg.writeBacks ++ [i] ∧ SameMemory s t)) ∧
      (let late := s.rg.commit
       let t := ({ late.foldl State.lateItem (s.modR Region.swapCounts) with focus := s.focus }).modR Region.swapCounts
       let u := late.foldl State.pmItem ((t.endHolds s.focus.r).foldRound s.focus.r)
       exec .roundCommit s = .next ((u.modR (fun g => { g with
         commit := [], commitOn := false, sigs := g.sigs.map (fun q => { q with done := q.final }) })).askBudget)) ∧
      (∃ t, exec .roundCommit s = .next t ∧ t.focus = s.focus ∧ (t.reg s.focus.r).commit = [] ∧
        (t.reg s.focus.r).commitOn = false ∧ (∀ q ∈ (t.reg s.focus.r).sigs, q.done = q.final) ∧
        ∀ pre i post idx v x, s.rg.commit = pre ++ i :: post → i.act = .pmwr idx v → s.tenants.find s.rg.func = some x →
          (∀ j ∈ post, (∀ w, j.act ≠ .pmwr idx w) ∧ ∀ n w, j.act = .pmcf n w → idx ≠ 12 + n) → idx < 8 ∨ 12 ≤ idx ∧ idx < 16 →
          ∃ y, t.tenants.find s.rg.func = some y ∧ y.pmFile.get 0#32 idx =
            if 12 ≤ idx then v &&& 0xFFC000FF#32 else if idx % 2 = 1 then v &&& 0xFFFF#32 else v)) ∧
  (∀ (s : State) (i : Staged),
      let u := s.atItem i
      let func := s.rg.func
      (∀ hx pa h, i.act = .rowRel hx → u.rowPa hx = some pa → s.rowHold pa = some h → h.r = s.focus.r → h.st ≠ .saved →
        (s.lateItem i).rowHold pa = none ∧ ∀ qa, rowOf qa ≠ rowOf pa → (s.lateItem i).rowHold qa = s.rowHold qa) ∧
      (∀ src v stamp, i.act = .event src v stamp → s.viral = false → s.nmp.queue.length < 4096 →
        (s.lateItem i).nmp.queue = s.nmp.queue ++ [{
          kind := 0x83, func := func, tag := 0#32, units := 1
          payload := leBytes 1 src ++ leBytes 1 0 ++ leBytes 2 u.page ++ leBytes 4 (s.hostTag func s.rg.ltag).toNat ++ leBytes 4 v.toNat ++
            leBytes 1 i.x ++ leBytes 1 i.y ++ leBytes 2 0 ++ leBytes 2 stamp }]) ∧
      (i.act = .halt → (∀ l, s.launchOf func s.rg.ltag = some l → ∃ k, (s.lateItem i).launchOf func s.rg.ltag = some k ∧ k.noMore = true) ∧
        ∀ r g, (s.lateItem i).regions.find r = some g → g.func = func → g.ltag = s.rg.ltag → g.haltTaken = true) ∧
      (∀ n, i.act = .take n → s.lateItem i = u.modLaunch func s.rg.ltag (fun l => { l with signals := l.signals.drop n })) ∧
      (∀ h recs v x, i.act = .publish h recs v → s.tenants.find func = some x → (∀ e ∈ x.prefixes, e.h ≠ h) →
        (x.prefixes.filter (fun e => e.h.toNat % 4096 == h.toNat % 4096)).length < 16 →
        s.lateItem i = u.modTenant func (fun x => { x with prefixes := x.prefixes ++
          ([{ h := h, recs := recs, value := v, ref := 1, sticky := false, holds := [] }] : List PrefixEntry) })) ∧
      (∀ h recs, i.act = .addRef h recs → s.lateItem i = u.modTenant func (onPrefix h recs PrefixEntry.addRef)) ∧
      (∀ h recs, i.act = .dropRef h recs → s.lateItem i = u.modTenant func (onPrefix h recs PrefixEntry.dropRef))) ∧
  (∀ (s : State) (r : Nat) (x : Tenant),
      let g := s.reg r
      g.roundPc ≠ 0 → (s.tenants.map Prod.fst).Nodup → s.tenants.find g.func = some x → ∃ y, (s.foldRound r).tenants.find g.func = some y ∧
        y.pmCyc = (x.pmCyc + g.roundPc) % 2 ^ 48 ∧ y.pmRnd = (x.pmRnd + 1) % 2 ^ 48 ∧
        ∀ i, i < 4 → y.pmc.get 0 i = (x.pmc.get 0 i + countFor
          (if g.saves = true ∨ g.mode = .draining then g.staging ++ g.counts else g.staging) true g.func (g.stagingCfgs.get 0#32 (g.func * 4 + i))) % 2 ^ 48) ∧
  (∀ (s : State),
      exec .roundLimitExpiry s = .next ((s.raise s.rg.limitFault).takeFault s.focus.r).askBudget ∧
      (∀ b, s.rg.brk = some b → exec .debugBreakTimeout s =
        .next ((({ s with focus := { s.focus with sg := b.sg, x := b.x, y := b.y, stamp := b.stamp, sched := b.sched } }).raiseHere
          0x21 0).takeFault s.focus.r).askBudget) ∧
      (s.rg.brk = none → exec .debugBreakTimeout s = .next s) ∧
      (Bound s → s.focus.sg < s.rg.sigs.length → ((s.passSig s.focus.r s.focus.sg).rg.sig s.focus.sg).passed = true) ∧
      (∀ h ∈ (s.passSig s.focus.r s.focus.sg).rows, h.r = s.focus.r → h.sg ≠ s.focus.sg) ∧
      exec .keystonePass s = .next ((s.passSig s.focus.r s.focus.sg).endRegion s.focus.r).choiceEvent)

/-- SPAN_WRAP turns the span's period: its counter is 0, HALTS and a keystone make it idle, ENDP and the declared round length
make it wait for the round's end, and a chosen schedule takes a switch of two cycles; each CE of the span rotates its registers
and steps its counters in mode wrap (R103 to R107, R116, R118, R120, R329). SCHEDULE_SWITCH_END and FREEZE_RELEASE set the span
running (R104, R111), and PASS_THROUGH moves one word, with its poison, from each routed input to its output, or moves nothing and
freezes where an output is full (R109, R253). That a keystone acts at the wrap of its cycle is the model's reading (log 18). -/
def Obligations.SpanSteps : Prop :=
  ∀ (s : State), Bound s →
    let d := s.spanDecl
    let p := s.rg.now.span s.focus.sg d.n
    let n := p.periods + 1
    (d.x1 < 32 → d.y1 < 32 → ∃ t, exec .spanWrap s = .next t ∧ OnlyFabric s t ∧
      let q := t.rg.now.span s.focus.sg d.n
      q.counter = 0 ∧ q.periods = n ∧ q.choice = none ∧ q.endp = false ∧ q.haltAtWrap = false ∧ q.sched = p.choice.getD p.sched ∧
      (p.haltAtWrap = true ∨ p.keyed = true → q.run = .idle) ∧
      (p.haltAtWrap = false → p.keyed = false →
        (p.endp = true ∨ (n - p.pstart) % d.roundLen = 0 → q.run = .waiting (q.sched != p.sched)) ∧
        (p.endp = false → (n - p.pstart) % d.roundLen ≠ 0 →
          q.run = if q.sched = p.sched then p.run else .switching 2)) ∧
      ∀ x y, d.x0 ≤ x → x ≤ d.x1 → d.y0 ≤ y → y ≤ d.y1 → (x + y) % 2 = 0 →
        (elemNow t x y).rot = (elemNow s x y).rot + 1#5 ∧
        elemNow t x y = { elemNow s x y with rot := (elemNow t x y).rot, c := (elemNow t x y).c } ∧
        (elemNow t x y).c = stepCounters (fun _ k => k.mode == 1#2) (elemNow s x y).c) ∧
    (∃ t, exec .scheduleSwitchEnd s = .next t ∧ OnlyFabric s t ∧
      t.rg.now = s.rg.now.modSpan s.focus.sg s.focus.n (fun k => { k with run := .running })) ∧
    (∃ t, exec .freezeRelease s = .next t ∧ OnlyFabric s t ∧
      t.rg.now = s.rg.now.modSpan s.focus.sg s.focus.n (fun k => { k with stalled := false })) ∧
    (s.passChk = .ok → exec .passThrough s = .next (s.routes.foldl (fun (t : State) r =>
      match s.inWords r.1 with
      | [] => t
      | v :: _ =>
        let u := (t.popIn r.1).pushOut r.2 v
        if s.oldE.rangePoison (regWord (64 + r.1)) 4 then u.poisonOut r.2 else u) s)) ∧
    (s.passChk = .stall → exec .passThrough s = .next s.stall)

/-- A token arrival adds one to the pending count of every element that receives its id, and past 15 raises 0x61 (R115); the handler
tokens of a cycle act on their spans by the entries that name them, in ascending entry index, raise 0x60 where none does, and wait while
their entry is being rewritten (R117); a handler write takes effect (R336); a keystone reaches every span of its signature (R118); and the
barrier arrivals that are due are counted, a phase with N arrivals completing (R366). That handler tokens act after the wraps of their
cycle is the model's reading (log 18). -/
def Obligations.Arrivals : Prop :=
  ∀ (s : State), Bound s →
    let f := s.rg.now
    let id := s.focus.n
    (∀ d, s.receivers id = [d] →
      let c := (elemNow s d.x d.y).tok.get 0 id
      (c < 15 → ∃ t, exec .tokenArrival s = .next t ∧ (elemNow t d.x d.y).tok.get 0 id = c + 1 ∧ t.rg.raised = s.rg.raised) ∧
      (15 ≤ c → ∃ t, exec .tokenArrival s = .next t ∧ (elemNow t d.x d.y).tok.get 0 id = c ∧
        ∃ e, t.rg.raised = s.rg.raised ++ [e] ∧ e.code = 0x61 ∧ e.addr = id)) ∧
    (((s.receivers id).map (fun d => elemKey s.focus.sg d.x d.y)).Nodup → ∃ t l, exec .tokenArrival s = .next t ∧
      (∀ d ∈ s.receivers id,
        let c := (elemNow s d.x d.y).tok.get 0 id
        (elemNow t d.x d.y).tok.get 0 id = if c < 15 then c + 1 else c) ∧
      t.rg.raised = s.rg.raised ++ l ∧ (∀ e ∈ l, e.code = 0x61 ∧ e.addr = id) ∧
      l.length = ((s.receivers id).filter (fun d => decide (15 ≤ (elemNow s d.x d.y).tok.get 0 id))).length) ∧
    (let due := f.toks.filter s.handlerDue
     let act := due.filter (fun k => s.rewriting k.id == [])
     (s.sig.decl.spans.map (·.n)).Nodup → ∃ t l, exec .handlerTokenArrival s = .next t ∧ t.rg.now.toks = f.toks.filter (fun k => !(s.handlerDue k)) ∧
      t.rg.now.heldToks = f.heldToks ++ (due.filter (fun k => s.rewriting k.id != [])).map (fun k => (k, s.rewriting k.id)) ∧
      t.rg.raised = s.rg.raised ++ l ∧ (∀ e ∈ l, e.code = 0x60) ∧
      l.map (·.addr) = (act.filter (fun k => s.handlersOf k.id == [])).map (·.id) ∧
      ∀ n, n < 16 → n ∈ s.sig.decl.spans.map (·.n) → t.rg.now.span s.focus.sg n = (List.range 16).foldl (fun p e =>
        let w := f.handlers.get 0#32 (s.focus.sg * 16 + e)
        if bitAt w 31 ∧ bitsOf w 24 23 ≠ 3 ∧ bitAt w n then
          (act.filter (fun k => k.id == bitsOf w 30 25)).foldl (fun p _ => handlerAct s.cycle w p) p
        else p) (f.span s.focus.sg n)) ∧
    (∀ k w, f.toks = [k] → s.handlerDue k = true → s.rewriting k.id = [] → s.handlersOf k.id = [w] → ∃ t,
      exec .handlerTokenArrival s = .next t ∧ OnlyFabric s t ∧ t.rg.now.toks = [] ∧
      ∀ n, n < 16 → t.rg.now.span s.focus.sg n =
        if n ∈ s.handlerSpans w then handlerAct s.cycle w (f.span s.focus.sg n) else f.span s.focus.sg n) ∧
    (∀ k, f.toks = [k] → s.handlerDue k = true → s.rewriting k.id = [] → s.handlersOf k.id = [] → ∃ t,
      exec .handlerTokenArrival s = .next t ∧ t.rg.now.parked = f.parked ++ [(k.sg, k.id)] ∧
      ∃ e, t.rg.raised = s.rg.raised ++ [e] ∧ e.code = 0x60 ∧ e.addr = k.id) ∧
    (∀ w, f.hwrites = [w] → w.sg = s.focus.sg → w.e = s.focus.n → w.due ≤ s.cycle → f.heldToks = [] → ∃ t,
      exec .handlerWriteEffect s = .next t ∧ OnlyFabric s t ∧ t.rg.now = { f with
        handlers := f.handlers.set (w.sg * 16 + w.e) w.word, hwrites := [] }) ∧
    (∃ t, exec .keystoneArrival s = .next t ∧ OnlyFabric s t ∧ t.rg.now = { f with spans := t.rg.now.spans } ∧
      ∀ d ∈ s.sig.decl.spans, (t.rg.now.span s.focus.sg d.n).keyed = true) ∧
    (∀ p due, f.bars.get Barrier.zero id = { done := p, arrived := [], coming := [(p + 1, due)] } → due ≤ s.cycle → ∃ t,
      exec .barrierArrival s = .next t ∧ OnlyFabric s t ∧ t.rg.now = { f with bars := t.rg.now.bars } ∧
      t.rg.now.bars.get Barrier.zero id =
        { done := if s.rg.barN id ≤ 1 then p + 1 else p, arrived := [(p + 1, 1)], coming := [] }) ∧
    (let b := f.bars.get Barrier.zero id
     let n := s.rg.barN id
     let count := fun q => b.arrived.get 0 q + (b.coming.filter (fun c => c.1 == q && decide (c.2 ≤ s.cycle))).length
     let met := fun q => 0 < count q ∧ n ≤ count q
     ∃ t,
      exec .barrierArrival s = .next t ∧ OnlyFabric s t ∧ t.rg.now = { f with bars := t.rg.now.bars } ∧
      let c := t.rg.now.bars.get Barrier.zero id
      c.coming = b.coming.filter (fun q => decide (s.cycle < q.2)) ∧ (∀ q, c.arrived.get 0 q = count q) ∧
      c.done = if met (b.done + 1) then if met (b.done + 2) then b.done + 2 else b.done + 1 else b.done)

/-- A result that is there is held in its latch, or ends a window that has closed empty, the word of a ROWRD, the text of a VTXT and the
records of a PHSH being read first; at a window's close the latched result is written to its destination, the range of a VTXT is no longer
pending, and a PHSH acts: it writes H(b) and looks the block up, publishes it with bytes 8 to 15 as its value, or drops a reference; an empty one raises 0x20 with its WIN under fault mode, or else stays closed and
freezes its span; a freeze that outlasts its bound raises 0x21 (R113, R114, R229, R237, R248, R410, R411). What a window's result is: the latched
value of a division, 1 for a wait, the word that a link delivers, which is taken, or 0 and fault 0x22 where the link is cut, the word that a
row delivers, the length of a text, which is written; a token is taken as it arrives, and the end of a copy is noted for a later REL (R113,
R119, R173, R331, R335, R407, R410). When it is there:
a WAITW's condition holds (R334), a CPYW's copy is complete (R353), a BARW's phase is done (R367), a KEYW's neighbour has passed (R368), no
store of the streams of a DRAIN is left in the commit (R364). In which cycle a condition is looked at, links and barriers as they stood at the
end of the previous one, reads, copies and the commit as they stand, is the model's reading (log 26, 79), and when a text's or a block's
reads are made too (log 84). -/
def Obligations.Windows : Prop :=
  (∀ (s : State) (w : Win),
      let l := s.focus.n
      let keep := fun (t : State) (w : Win) => t.modE (fun e => { e with wins := e.wins.set l w })
      let drop := fun (t : State) => t.modE (fun e => { e with wins := e.wins.del l })
      let flt := fun (code : Nat) => { s.fltHere code w.w 0 with stamp := w.stamp, sch := if w.sched then 1 else 0 }
      s.nowE.wins.find l = some w →
      (∀ pa va ready seq after, w.kind = .row pa va ready seq after none →
        exec .windowedResultArrival s = .next (s.rowFetch l w pa va ready seq after)) ∧
      (∀ due id a, w.kind = .text due id a none → exec .windowedResultArrival s = .next (s.textFetch l w due id a)) ∧
      (∀ due m k a h, w.kind = .prefixOp due m k a h none →
        exec .windowedResultArrival s = .next (s.blockFetch l w due m k a h)) ∧
      ((∀ pa va ready seq after, w.kind ≠ .row pa va ready seq after none) → (∀ due id a, w.kind ≠ .text due id a none) →
        (∀ due m k a h, w.kind ≠ .prefixOp due m k a h none) →
        (w.res = none → s.winReady w = true → w.closed = false → exec .windowedResultArrival s =
          .next (keep (s.winValue w).2 { w with res := some (s.winValue w).1 })) ∧
        (w.res = none → s.winReady w = true → w.closed = true → exec .windowedResultArrival s =
          .next ((s.winValue w).2.endWin l w (s.winValue w).1)) ∧
        (w.res ≠ none ∨ s.winReady w = false → exec .windowedResultArrival s = .next s)) ∧
      (∀ v, w.res = some v → (∀ due m k a h got, w.kind ≠ .prefixOp due m k a h got) → (∀ due id a got, w.kind ≠ .text due id a got) →
        exec .windowClose s = .next (drop (s.putRaw w.dst v))) ∧
      (∀ v due id a got, w.res = some v → w.kind = .text due id a got → exec .windowClose s = .next (drop
        ((s.modE (fun e => { e with marks := e.marks.erase (.range a 1023) })).putRaw w.dst v))) ∧
      (∀ v due m k a h hb recs, w.res = some v → w.kind = .prefixOp due m k a h (some (hb, recs)) →
        let r := s.prefixAct w m a h hb recs
        exec .windowClose s = .next (drop (r.2.putRaw w.dst r.1))) ∧
      (w.res = none → w.wm = 1 → exec .windowClose s = .next ((s.raise (flt 0x20)).count 0x04)) ∧
      (w.res = none → w.wm ≠ 1 → exec .windowClose s = .next ((keep s { w with closed := true }).count 0x04)) ∧
      exec .freezeBoundExpiry s = .next (s.raise (flt 0x21))) ∧
  (∀ (s : State) (w : Win) (a : Nat) (prev : BitVec 64) (hb recs : List Byte),
      let hash := shake256_64 (leBytes 8 prev.toNat ++ hb)
      let t := (s.atWin w).softWrite a (leBytes 8 hash.toNat)
      (∀ e, t.prefixMatch hash recs = some e → s.prefixAct w 0 a prev hb recs =
        (1#32, (((t.softWrite (a + 8) (leBytes 8 e.value.toNat)).holdPrefix hash recs).stage 10 (.addRef hash recs)).count 0x39)) ∧
      (t.prefixMatch hash recs = none → s.prefixAct w 0 a prev hb recs = (0#32, t)) ∧
      s.prefixAct w 1 a prev hb recs = (1#32, t.stage 10 (.publish hash recs (BitVec.ofNat 64 (leNat (t.nowE.sram.readN (a + 8) 8))))) ∧
      s.prefixAct w 2 a prev hb recs = (boolWord (t.prefixMatch hash recs).isSome, t.stage 10 (.dropRef hash recs))) ∧
  (∀ (s : State) (w : Win),
      (∀ due v, w.kind = .result due v → (s.winReady w = true ↔ due ≤ s.cycle) ∧ s.winValue w = (v, s)) ∧
      (∀ t c, w.kind = .token t c → (s.winReady w = true ↔ s.nowE.tok.get 0 t ≠ 0) ∧
        s.winValue w = (1#32, s.modE (fun e => e.takeToken t c))) ∧
      (∀ k n, w.kind = .wait k n → s.winValue w = (1#32, s)) ∧
      (∀ c n, w.kind = .wait c n → (s.winReady w = true ↔ waitHolds (if c < 2 then s.oldE else s.nowE) s.outRoom c n = true)) ∧
      (∀ side v rest, w.kind = .link side → s.isCut side = false → s.nowE.inq.get [] side = v :: rest →
        (s.winReady w = true ↔ s.nowE.taken.get 0 side < (s.inWords side).length) ∧ s.winValue w = (v,
          if s.nowE.rangePoison (regWord (64 + side)) 4 then (s.popIn side).consumed w.stamp w.sched 0 else s.popIn side)) ∧
      (∀ side, w.kind = .link side → s.isCut side = true → s.winReady w = true ∧ s.winValue w =
        (0#32, s.raise { s.fltHere 0x22 0 0 with stamp := w.stamp, sch := if w.sched then 1 else 0 })) ∧
      (∀ m, w.kind = .drain m → (s.winReady w = true ↔ ∀ i ∈ s.rg.commit, i.sg = s.focus.sg → i.x = s.focus.x → i.y = s.focus.y →
        m.testBit i.sn = false)) ∧
      (∀ b, w.kind = .barrier b → (s.winReady w = true ↔
        s.oldE.pha.get 0 b ≤ (s.rg.old.bars.get Barrier.zero (s.barOf b)).done)) ∧
      (∀ c, w.kind = .copy c → (s.winReady w = true ↔ ∀ q ∈ s.nowE.copies, q.id = c → q.done = true)) ∧
      (∀ side, w.kind = .keystone side → (s.winReady w = true ↔
        ∃ q, s.rg.chained s.focus.sg side = some q ∧ (s.rg.sig q).passed = true)) ∧
      (∀ c, w.kind = .copy c → s.winValue w = (1#32, s.modE (fun e => { e with waited := (e.waited ++
        (e.copies.filter (fun q => q.id == c && q.dstLocal.isNone)).map (fun q => (q.dst, q.len))).dedup }))) ∧
      (∀ c, w.kind = .barrier c ∨ w.kind = .keystone c ∨ w.kind = .drain c → s.winValue w = (1#32, s)) ∧
      (∀ pa va ready seq after got, w.kind = .row pa va ready seq after got →
        (s.winReady w = true ↔ got ≠ none) ∧ s.winValue w = (got.getD 0#32, s)) ∧
      (∀ due id a x, w.kind = .text due id a (some x) → (s.winReady w = true ↔ s.nowE.asleep a 1023 = false) ∧
        s.winValue w = (BitVec.ofNat 32 x.length, if x = [] then s else s.modE (fun e => e.writeSram a x (s.decl.locTag e a)))) ∧
      (∀ due m k a h got, w.kind = .prefixOp due m k a h got →
        (s.winReady w = true ↔ got ≠ none ∧ s.nowE.asleep a 16 = false) ∧ s.winValue w = (1#32, s)))

/-- A read is served, which fixes its bytes, and its reply lands at its local place, or at the tail of its FIFO; an endpoint stream
fetches its next beat, or its launch ends with 0x12 where host memory fails; an RMW is performed at the head of the commit and its old
value lands; a walk ends and the next one of its abutment starts; a piece of a copy moves; and an adder adds one element of both its
streams, whose 4 bytes are charged (R20, R71, R137, R162, R165, R177, R343, R345, R351, R357). The pieces of a copy, the elements of an
adder and the times are the model's (log 7, 40, 54). -/
def Obligations.MemorySteps : Prop :=
  ∀ (s : State) (r : Read),
    (s.readInFocus = some r →
      (r.stage ≠ 2 → exec .streamReadReply s = .next (s.serveRead r)) ∧
      (r.stage = 2 → r.bad = none → r.bt = false → r.gath = false → r.soft = none → r.fifo = none → r.bytes ≠ [] →
        exec .streamReadReply s = .next (s.modE (fun e =>
          ({ e with reads := e.reads.filter (fun q => q.id != r.id) }).writeSram r.dst r.bytes .untagged))) ∧
      (r.stage = 2 → exec .streamReadReply s = .next (s.landReply r)) ∧
      exec .rmwReturn s = .next ((s.modE (fun e => e.landRead s.decl r)).modR (fun g => { g with
        returns := g.returns ++ [(elemKey s.focus.sg s.focus.x s.focus.y, r.dst, r.bytes)] }))) ∧
    (let sn := s.focus.n
     let st := s.nowE.streams.get Stream.none sn
     st.beats.length < 64 → 0 ≤ st.fetch → st.fetch + 64 ≤ st.ext → s.withheld s.rg s.nowE sn = false →
     (s.hostFails (s.endpointAddr sn + st.fetch.toNat) 64 = true →
       exec .heprBeatFetch s = .next (s.endLaunch s.rg.func s.rg.ltag 0x12)) ∧
     (s.hostFails (s.endpointAddr sn + st.fetch.toNat) 64 = false → exec .heprBeatFetch s =
      .next (s.lat.2.modE (fun e => e.modStream sn (fun k => { k with
        beats := k.beats ++ [(k.fetch.toNat, s.host.readN (s.endpointAddr sn + k.fetch.toNat) 64)]
        fetch := k.fetch + 64
        due := s.cycle + s.lat.1 }))))) ∧
    (∀ i rest va op a cmp hint rid, s.rg.commit = i :: rest → i.act = .rmw va op a cmp none hint rid none →
      let u := { s with focus := { s.focus with sg := i.sg, x := i.x, y := i.y } }
      let old := BitVec.ofNat 32 (leNat (u.readVa u.rg.func u.page va 4 hint).1)
      u.poisonedAt u.rg.func va 4 = none →
      let v := ((u.modR Region.swapCounts).storeVa u.rg.func { page := u.page, stamp := i.stamp, sched := i.sched, hint := hint } va
        (leBytes 4 (rmwVal op old a cmp).toNat) []).modR Region.swapCounts
      exec .rmwPerform s = .next (v.lat.2.modR (fun g => { g.modAll i.sg i.x i.y (fun e => { e with
        reads := e.reads.map (fun q => if q.id = rid then { q with stage := 2, due := s.cycle + v.lat.1, bytes := [] } else q) }) with
        commit := rest }))) ∧
    (∀ id w, s.walks.find? (fun w => w.id == id && w.running) = some w → exec (.walkComplete id) s =
      let t := { s with walks := s.walks.filter (fun x => x.id != id)
                        focus := { r := w.r, sg := w.sg, x := w.x, y := w.y, n := id, sched := w.sched, stamp := w.stamp } }
      let late := (s.reg w.r).walksLate w
      let swap := fun (u : State) => if late then u.modR Region.swapCounts else u
      .next (State.startWalk { swap (((swap t).nestedFill (dieOfPage t.page) w.func w.va).endWalk w) with focus := s.focus } w.abut)) ∧
    (∀ c, s.nowE.copies.find? (fun c => c.id == s.focus.n && !c.done) = some c → exec .copyComplete s =
      .next ((s.copyPiece c).modE (fun e => e.modCopy c.id (fun c => { c with done := decide (c.len ≤ c.prog) })))) ∧
    (∀ a x y loc, s.adderDecl s.focus.n = some a →
      let k := s.rg.now.adders.get Adder.zero (adderKey s.focus.sg a)
      s.arriving a k = some x → k.loc = y :: loc → k.i < a.len →
      let k' : Adder := { k with i := k.i + 1, arriving := if a.port < 10 then k.arriving.drop 1 else k.arriving, loc := loc }
      let t := (s.modNow (fun f => { f with adders := f.adders.set (adderKey s.focus.sg a) k' })).modR (fun g =>
        { g with roundBytes := g.roundBytes + 4 })
      (a.toPort = true → exec .adderElement s = .next (t.sendChain 9 a.fx a.fy [adderSum a.fmt x y])) ∧
      (a.toPort = false → exec .adderElement s = .next (t.forwardMe a (adderSum a.fmt x y))))

/-- A transfer of the slot port lands in its slot, MLD's, MST's and MTRN's, or MOUT's words in local memory with a tag (R392): that it is the
tag expected at MOUT's fire, and not at its effect, is the model's choice (log 94). A
node operation writes its results into its accumulator or sort registers, or lands a FOLM, and its shadow is compared (R210, R394 to
R399, R404); a soft-token operation whose reads are all translated completes with the effect of its instruction, STKE writing its words, and
its pending ranges go (R229, R408 to R411); a FOLD writes PEND and NFIN, and its folio's phase becomes 3; block b of its result stands in
the 36 bytes at its place in the burst area under a header with TAG b mod 256, and in XP; and its marks go (R218, R403). That the header has
BLEN code 1 (log 45), which results the shadow compares, that what a completion stages while its region saves joins the commit under way, and that a completion waits for
translation are the model's readings (log 77, 72, 84). -/
def Obligations.Landings : Prop :=
  ∀ (s : State) (o : NodeOp),
    let at_ := { s with focus := { s.focus with stamp := o.stamp, sched := o.sched } }
    let gone := s.modE (fun e => { e with node := e.node.filter (fun q => q.id != o.id) })
    (s.nowE.node.find? (fun q => q.id == s.focus.n && !q.tile) = some o →
      (∀ f, o.instr = .mld f ∨ o.instr = .mst f ∨ o.instr = .mtrn f →
        exec .slotPortEffect s = .next (gone.modE (fun e => e.writeSlot o.y o.a))) ∧
      (∀ f, o.instr = .mout f → exec .slotPortEffect s =
        .next (gone.modSide (bitsOf f.opt 1 0) (fun e => e.writeSram o.y o.a (.loc (o.b.headD 0#8)))))) ∧
    (s.nowE.node.find? (fun q => q.id == s.focus.n && q.tile) = some o →
      (∀ f, o.instr = .mma f → exec .nodeOperationLand s =
        .next ((gone.modE (fun e => e.setAcc f.acc.toNat (mmaResult s.decl.cfmt f e o))).compared at_ o.instr true)) ∧
      (∀ f, o.instr = .mmas f → exec .nodeOperationLand s =
        .next ((gone.modE (fun e => e.setAcc f.acc.toNat (mmasResult s.decl.cfmt f e o))).compared at_ o.instr true)) ∧
      (∀ f, o.instr = .mctr f → exec .nodeOperationLand s =
        .next ((gone.modE (fun e => e.setAcc f.acc.toNat (mctrResult s.decl.cfmt f e o))).compared at_ o.instr true)) ∧
      (∀ f, o.instr = .msrt f → exec .nodeOperationLand s = .next ((gone.modE (fun e =>
        { e with sortK := (msrtResult f o).map Prod.fst, sortI := (msrtResult f o).map Prod.snd, rk := 0 })).compared at_ o.instr true)) ∧
      (∀ f, o.instr = .folm f → exec .nodeOperationLand s = .next ((gone.landFolm f o).compared at_ o.instr true))) ∧
    (∀ q, s.nowE.softOps.find? (fun o => o.id == s.focus.n) = some q →
      let u := { s with focus := { s.focus with stamp := q.stamp, sched := q.sched } }
      (∀ v, u.needsWait q.stamp q.sched (u.softNeeds q) = some v → exec .softTokenComplete s = .next v) ∧
      (u.needsWait q.stamp q.sched (u.softNeeds q) = none →
      let t := u.modE (fun e => { e with softOps := e.softOps.filter (fun k => k.id != q.id)
                                         marks := e.marks.filter (fun m => !(q.marks.contains m)) })
      let joined := fun (v : State) => v.modR (fun g => g.joinCommit s.cycle)
      (∀ f, q.instr = .stkh f → exec .softTokenComplete s = .next (joined (t.stkhDone f))) ∧
      (∀ f, q.instr = .collapse f → exec .softTokenComplete s = .next (joined (t.collapseDone f q))) ∧
      (∀ f, q.instr = .stke f → exec .softTokenComplete s =
        .next (joined (t.modE (fun e => e.writeSram q.a.toNat (stkeWords e.dc q) (u.decl.locTag e q.a.toNat))))) ∧
      (∀ f, q.instr = .gmsk f → exec .softTokenComplete s = .next (joined (t.gmskDone f q))) ∧
      (∀ f, q.instr = .gstp f → exec .softTokenComplete s = .next (joined (t.gstpDone f q))) ∧
      (∀ f, q.instr = .prpl f → exec .softTokenComplete s = .next (joined (t.prplDone f q))))) ∧
    (∀ f, s.nowE.node.find? (fun q => q.id == s.focus.n) = some o → o.instr = .fold f → Bound s →
      let fx := bitsOf f.mode 1 0
      let d := s.folioDecl fx
      let xs := o.z.take d.n
      let xps := o.z.drop d.n
      let r := foldAll o.full d.tau (d.n / 32) xs xps
      let old := s.rg.now.folios.get Folio.zero (folioKey s.focus.sg fx)
      ∃ t, exec .foldComplete s = .next t ∧ OnlyFabric s t ∧
        t.rg.now.folios.get Folio.zero (folioKey s.focus.sg fx) = { old with
          nfin := old.nfin || (xs ++ xps).any (fun v => !(f32 v).isFinite), pend := fsumTreeF32 r.2.2, ph := 3 } ∧
        (∀ q ∈ t.nowE.node, q.id ≠ o.id) ∧
        (∀ m ∈ [Pend.folio fx, .range old.xOff (4 * d.n), .range o.y (36 * (d.n / 32))], m ∉ t.nowE.marks) ∧
        (s.nowE.sram.wf = true → o.z.length = 2 * d.n → o.y + 36 * (d.n / 32) ≤ old.xOff ∨ old.xOff + 4 * d.n ≤ o.y →
          ∀ b, b < d.n / 32 →
            let block := foldBlock o.full d.tau b ((xs.drop (32 * b)).take 32) ((xps.drop (32 * b)).take 32)
            let burst := t.nowE.sram.readN (o.y + 36 * b) 36
            let h := wordAt burst 0
            burst = block.1 ∧ t.nowE.sram.readN (old.xOff + 128 * b) 128 = wordBytes block.2.1 ∧
            bitsOf h 7 0 = b % 256 ∧ bitsOf h 10 8 = 1 ∧ bitsOf h 15 12 = 1 ∧ bitsOf h 23 16 = 0))

/-! ## The machine as a whole -/

/-- The entry words that the spec writes out decode to the entries they stand for: one or more of every family. -/
def Obligations.EncodedWords : Prop :=
  decodeEntry 0x0010020020000002#64 = .ok ⟨1#12, 0#3, 0#1, 0#5, .movi ⟨2#7, 0#7, 2#21⟩⟩ ∧
  decodeEntry 0x00400D0040602840#64 = .ok ⟨4#12, 0#3, 0#1, 0#5, .mul ⟨4#7, 3#7, 0#3, 5#7, 0#3, 4#4, 0#4⟩⟩ ∧
  decodeEntry 0x01C0230610601003#64 = .ok ⟨28#12, 0#3, 0#1, 0#5, .cmp ⟨97#7, 3#7, 0#3, 2#7, 0#3, 0#4, 3#4⟩⟩ ∧
  decodeEntry 0x005010006081C2A0#64 = .ok ⟨5#12, 0#3, 0#1, 0#5, .div ⟨6#7, 4#7, 7#7, 21#9, 0#2, 0#3⟩⟩ ∧
  decodeEntry 0x01D2440000000001#64 = .ok ⟨29#12, 1#3, 0#1, 0#5, .sws ⟨0#7, 0#7, 1#21⟩⟩ ∧
  decodeEntry 0x00604C0480090100#64 = .ok ⟨6#12, 0#3, 0#1, 0#5, .waitw ⟨72#7, 0#7, 0x24#7, 8#9, 0#2, 0#3⟩⟩ ∧
  decodeEntry 0x0020710028180080#64 = .ok ⟨2#12, 0#3, 0#1, 0#5, .rmw ⟨2#7, 4#3, 0#4, 0x180080#21⟩⟩ ∧
  decodeEntry 0x0140800000000804#64 = .ok ⟨20#12, 0#3, 0#1, 0#5, .sbar ⟨0#7, 0#7, 0x804#21⟩⟩ ∧
  decodeEntry 0x0090A20050202028#64 = .ok ⟨9#12, 0#3, 0#1, 0#5, .qnt ⟨5#7, 1#7, 0#2, 2#7, 0#2, 5#7, 0#3⟩⟩ ∧
  decodeEntry 0x00509F0060205081#64 = .ok ⟨5#12, 0#3, 0#1, 0#5, .cvt ⟨6#7, 1#7, 0#3, 10#7, 0#3, 8#4, 1#4⟩⟩ ∧
  decodeEntry 0x0000C5008A200000#64 = .ok ⟨0#12, 0#3, 0#1, 0#5, .mma ⟨4#6, 20#6, 1#2, 0#4, 0#3, 0#7, 0#7⟩⟩ ∧
  decodeEntry 0x0140D3010000C280#64 = .ok ⟨20#12, 0#3, 0#1, 0#5, .folm ⟨8#6, 0#6, 0#2, 0#4, 3#3, 5#7, 0#7⟩⟩ ∧
  decodeEntry 0x00A0DB0050200810#64 = .ok ⟨10#12, 0#3, 0#1, 0#5, .rowrd ⟨5#7, 0#3, 1#4, 0x810#21⟩⟩ ∧
  decodeEntry 0x0280EC063040D900#64 = .ok ⟨40#12, 0#3, 0#1, 0#5, .phsh ⟨99#7, 2#7, 3#7, 200#9, 0#2, 0#3⟩⟩ ∧
  decodeEntry 0x0320F00000000123#64 = .ok ⟨50#12, 0#3, 0#1, 0#5, .trap ⟨0#7, 0#7, 0x123#21⟩⟩

/-- Decoding the word of an entry gives the entry, for every fabric instruction and every value of its header and fields (R291,
R294, R302). -/
def Obligations.EntryRoundTrip : Prop :=
  ∀ (e : Entry) (o : BitVec 8), e.instr.opc = some o → decodeEntry (encodeEntry e) = .ok e

/-- Decoding the bytes of a host message gives the message, for every kind that R45 lists and every value of its fields (R37,
R45). -/
def Obligations.MessageRoundTrip : Prop :=
  ∀ (i : Instr) (h : MsgHdr) (k u : Nat) (p : List Byte), i.msgBody = some (h, k, u, p) → h.bad = false →
    (∀ kind, i ≠ .unknownKind h kind) → decodeMsg (msgBytes h k u p) = i

/-- Every word with a reserved or illegal opcode is refused at bind, whatever its other bits hold (R303). -/
def Obligations.ReservedOpcodes : Prop :=
  ∀ (w : EWord),
    let o := (w.extractLsb' 40 8).toNat
    ((0x2D ≤ o ∧ o ≤ 0x3F) ∨ (0x50 ≤ o ∧ o ≤ 0x5F) ∨ (0x7C ≤ o ∧ o ≤ 0x7F) ∨ (0x8A ≤ o ∧ o ≤ 0x8F) ∨ (0xAC ≤ o ∧ o ≤ 0xBF) ∨
      (0xCD ≤ o ∧ o ≤ 0xCF) ∨ (0xDE ≤ o ∧ o ≤ 0xDF) ∨ (0xEE ≤ o ∧ o ≤ 0xEF) ∨ (0xFC ≤ o ∧ o ≤ 0xFF)) →
    (decodeEntry w = .error (if o = 0xFF then .illegalOpcode else .reservedOpcode)) ∧
    ∀ (l : List Placed) (edges : List (Nat × Nat)) (i : Nat) (d : SigDecl) (me : ElemDecl) (q : Slot), q.word = w →
      wordFate l edges i d me q = some 0x11

/-- A step runs what is ready first: an event, a decoded host message or a decoded flit as exec says at its focus, a sideband write as the
steps it stands for; and the entry of an element whose stamp is the counter, decoded from its word, as exec says when its predicate
lets it fire, its results being compared with the shadow's and written with the lanes that an upset has flipped in them, and as a nullified entry, which is only counted, when not (R101, R210,
R211, R259). With nothing ready the step ends a phase of the cycle. Every instruction, in every state, answers a next state, and so does
every step. That a step takes the first operation that is ready, and else ends a phase, is the model's own order (log 8), and that the result
of every entry is compared, and which word an upset flips, its readings (log 77, 87). -/
def Obligations.StepRuns : Prop :=
  ∀ (s : State) (rest : List Op),
    let u := { s with ready := rest }
    (∀ i f, s.ready = .ev i f :: rest → step s = exec i { u with focus := f }) ∧
    (∀ b, s.ready = .msg b :: rest → step s = exec (decodeMsg b) { u with focus := Focus.none }) ∧
    (∀ p b, s.ready = .flit p b :: rest → step s = exec (.flitReceive p (decodeFlit b)) { u with focus := Focus.none }) ∧
    (∀ off v, s.ready = .sbw off v :: rest →
      step s = .next { u with ready := (decodeSbw off v).map (fun i => .ev i Focus.none) ++ rest }) ∧
    (∀ r sg x y e, s.ready = .fire r sg x y :: rest → (u.atFire r sg x y).firing = some e →
      let v := u.atFire r sg x y
      (v.predChk e.pred.toNat = .ok → v.predTrue e.pred.toNat (e.pn == 1#1) = true →
        (∃ t, exec e.instr v = .next t ∧ step s = .next (t.compared v e.instr false)) ∧
        (v.upsetHere false = none → step s = exec e.instr v)) ∧
      (v.predChk e.pred.toNat = .ok → v.predTrue e.pred.toNat (e.pn == 1#1) = false → step s = .next (v.count 0x02)) ∧
      (v.predChk e.pred.toNat = .stall → step s = .next v.stall)) ∧
    (∀ r sg x y e, (u.atFire r sg x y).firing = some e →
      let v := u.atFire r sg x y
      ∃ w ∈ (if v.focus.sched then v.decl.schedB else v.decl.schedA), decodeEntry w = .ok e ∧ e.stamp.toNat = v.focus.stamp) ∧
    (s.ready = [] → step s = .next s.nextPhase) ∧
    (∀ i, ∃ t, exec i s = .next t) ∧ (∃ t, step s = .next t)

/-- The machine right after a power-on reset: the registers of R32, R56 and R256 as the host reads them, only function 0 with the budget
of R36, nothing bound, queued or held, every L2 way gated, and memory in canonical form. What an unlisted byte, FWVER and an offset
without a register read as are the model's choices (log 1, 3, 75). -/
def Obligations.ResetState : Prop :=
  let s := State.reset
  Canonical s ∧ s.viral = false ∧ s.viralCause = 0#8 ∧ s.hlmod = [true, true, true, true] ∧
  s.dies.length = 8 ∧ (∀ d ∈ s.dies, d.service = true ∧ d.droops = 0#32) ∧ s.ports.length = 18 ∧
  (∀ p ∈ s.ports, p.2.st = .active ∧ p.2.width = 16 ∧ p.2.rtcnt = 0 ∧ p.2.spare = 0) ∧
  (∀ off, s.sideband off =
    if off = 0x000 then 0xA5C10128#32 else if off = 0x00C then 0xFF#32 else if off = 0x010 then 0xF#32
    else if off = 0x100 ∨ off = 0x104 ∨ off = 0x108 then 0xFFFFFFFF#32 else 0#32) ∧
  s.nmp.hold = false ∧ s.nmp.held = false ∧
  s.tenants.map Prod.fst = [0] ∧ (∀ t, s.tenant 0 = some t → t.pages = 128 ∧ t.ways = 0xFFFF ∧ t.prio = 7 ∧ t.queue = []) ∧
  s.regions = [] ∧ s.items = [] ∧ s.rows = [] ∧ (∀ d w, d < 8 → w < 16 → (d, w) ∈ s.gatedWays)

/-- Every instruction completes and keeps device and host memory in canonical form, and so does every step. -/
def Obligations.CanonicalKept : Prop :=
  (∀ (i : Instr) (s : State), Canonical s → ∃ t, exec i s = .next t ∧ Canonical t) ∧
  (∀ s, Canonical s → ∃ t, step s = .next t ∧ Canonical t)

/-- Every fabric entry completes, by its effect, by a freeze or by a fault, and none writes memory outside its region: what stores it issues
wait in its commit buffer (R121). -/
def Obligations.EntriesLeaveMemory : Prop :=
  ∀ (s : State) (i : Instr) (o : BitVec 8), i.opc = some o → ∃ t, exec i s = .next t ∧ t.coh = s.coh ∧ t.host = s.host

/-- Operands are read and written as R296 to R298 say: each code names its register, z reads 0 and discards what is written to it,
p0 reads 1 and discards, a predicate receives v ≠ 0, a link source gives the oldest word and its consumption takes one; and a
write changes nothing else. -/
def Obligations.OperandsAndDelivery : Prop :=
  ∀ (s : State) (c j : Nat) (v : Word), Bound s →
    let old := s.oldE
    let k := (c - 32 + 32 - old.rot.toNat) % 32
    let side := c - 64
    let mine := elemNow s s.predX s.focus.y
    (c < 32 → s.src c = old.g.get 0#32 c ∧ OnlyElem s (s.put c v) ∧
      (s.put c v).nowE.g.get 0#32 c = v ∧ (j ≠ c → (s.put c v).nowE.g.get 0#32 j = s.nowE.g.get 0#32 j) ∧
      (s.put c v).nowE.k = s.nowE.k ∧ (s.put c v).nowE.p = s.nowE.p) ∧
    (32 ≤ c → c < 64 → s.src c = old.k.get 0#32 k ∧ OnlyElem s (s.put c v) ∧
      (s.put c v).nowE.k.get 0#32 k = v ∧ (j ≠ k → (s.put c v).nowE.k.get 0#32 j = s.nowE.k.get 0#32 j) ∧
      (s.put c v).nowE.g = s.nowE.g) ∧
    (64 ≤ c → c < 68 → ∀ w rest, old.inq.get [] side = w :: rest → s.src c = w ∧ (Readable s [c] ↔ s.srcChk c = .ok) ∧
      (s.consume [c]).nowE.inq.get [] side = (s.nowE.inq.get [] side).drop 1) ∧
    (s.src 72 = 0#32 ∧ s.put 72 v = s) ∧
    (80 ≤ c → c < 88 → s.src c = (old.c.get Counter.zero (c - 80)).value) ∧
    (s.src 96 = 1#32 ∧ s.put 96 v = s) ∧
    (97 ≤ c → c < 104 → s.src c = (if (s.rg.old.elem s.focus.sg s.predX s.focus.y).p.get false (c - 96) then 1#32 else 0#32) ∧
      OnlyElems s (s.put c v) ∧ (elemNow (s.put c v) s.predX s.focus.y).p.get false (c - 96) = decide (v ≠ 0#32) ∧
      (j ≠ c - 96 → (elemNow (s.put c v) s.predX s.focus.y).p.get false j = mine.p.get false j)) ∧
    SameMemory s (s.put c v)

/-- Of the faults raised in one cycle one that halts comes before one that only voids, and of these the least by code, page, y, x
and schedule is taken (R249, R264). The round is voided: its staged stores go, the checkpoint stands again, what was committing is
kept, and what was in flight at the round's start is in flight again (R123). A counting fault below the limit replays within 1,000
cycles, or saves under the round limit or a pending yield, and at the third void ends the launch (R87, R123, R251); a resumable one
halts the region under a FID and is recorded, and a region that is asked to yield then saves at once (R86); any other ends the launch (R250).
That a region which saves goes on saving is the model's reading (log 17). -/
def Obligations.TakingAFault : Prop :=
  (∀ l : List Flt, l ≠ [] → ∃ f ∈ l, firstFault l = some f ∧ ∀ g ∈ l, (f.counts = true → g.counts = true) ∧
    (f.counts = g.counts → g.before f = false)) ∧
  (∀ (s : State) (r : Nat) (f : Flt), (s.regions.find r).isSome = true → (s.reg r).raised = [f] → (s.reg r).shadowBad = none →
      let g := s.reg r
      (f.counts = true → g.voids < 2 → ∃ t n k, s.takeFault r = t ∧ (t.reg r).voids = g.voids + 1 ∧ (t.reg r).now = g.restored.later k ∧
        (t.reg r).commit = g.commit ∧ (t.reg r).raised = [] ∧ SameMemory s t ∧
        (t.reg r).mode = (if g.saves then g.mode else if f.code = 0x51 ∨ g.yieldReq.isSome = true then .saving n true else .replaying n) ∧
        n ≤ s.cycle + (if f.code = 0x51 ∨ g.yieldReq.isSome = true then 10000 else 1000)) ∧
      (f.counts = true → 2 ≤ g.voids → s.takeFault r =
        ((s.voidRound r (f.code == 0x51)).report r f).2.endLaunch g.func g.ltag 0x07) ∧
      (f.counts = false → f.resumable = true → ∃ t fid n, s.takeFault r = t ∧ n ≤ s.cycle + 10000 ∧ (t.reg r).fid = some fid ∧
        (t.reg r).mode = (if g.saves then g.mode else if g.yieldReq.isSome then .saving n true else .halted fid) ∧
        (t.reg r).now = g.restored ∧ (t.reg r).commit = g.commit ∧ SameMemory s t ∧
        t.nmp.flts = s.nmp.flts ++ [{ func := g.func, ltag := g.ltag, fid := fid, flt := f }]) ∧
      (f.counts = false → f.resumable = false → s.takeFault r = ((s.voidRound r true).report r f).2.endLaunch g.func g.ltag 0x07))
end

