-- ==== Sys2Proof/Laws/Entries.lean ====
section
/-! SUPPORT. The one law of entries: what an entry does when nothing stands in its way, when its step must freeze, and when it
faults (R101, R111, R249). -/

namespace Sys2Proof.Machine

open Sys2Proof Sys2Proof.Safety

@[simp] theorem Chk.ok_and (c : Chk) : Chk.and .ok c = c := by cases c <;> rfl
@[simp] theorem Chk.and_ok (c : Chk) : Chk.and c .ok = c := by cases c <;> rfl

theorem Chk.and_eq_ok {a b : Chk} : a.and b = .ok ↔ a = .ok ∧ b = .ok := by
  cases a <;> cases b <;> simp only [Chk.and] <;> (try split) <;> simp

theorem Chk.fold_eq_ok {α : Type} (g : α → Chk) (l : List α) (c : Chk) :
    l.foldl (fun a x => a.and (g x)) c = .ok ↔ c = .ok ∧ ∀ x ∈ l, g x = .ok := by
  induction l generalizing c with
  | nil => simp
  | cons x t ih => simp [ih, Chk.and_eq_ok, and_assoc]

theorem State.dsts_ok {s : State} {ds : List Nat} (h : Writable s ds) :
    ds.foldl (fun (a : Chk) c => a.and (s.dstChk c)) Chk.ok = Chk.ok := (Chk.fold_eq_ok _ _ _).2 ⟨rfl, h⟩

/-- An entry whose sources can be read, whose destinations can be written and that nothing else holds has its effect. -/
theorem State.entry_fired {s : State} {srcs ds : List Nat} {extra : Chk} {eff : State → State}
    (hs : Readable s srcs) (hd : Writable s ds) (he : extra = .ok) : s.entry srcs ds extra eff = fired s srcs eff := by
  unfold State.entry
  rw [State.dsts_ok hd, show s.srcsChk srcs = .ok from hs, he]
  rfl

/-- An entry either has its effect, or freezes its span, or raises a fault: nothing else. -/
theorem State.entry_cases (s : State) (srcs ds : List Nat) (extra : Chk) (eff : State → State) :
    s.entry srcs ds extra eff = fired s srcs eff ∨ s.entry srcs ds extra eff = s.stall ∨
      ∃ f : Flt, s.entry srcs ds extra eff = s.raise f := by
  unfold State.entry State.under
  split
  · exact .inl rfl
  · exact .inr (.inl rfl)
  · exact .inr (.inr ⟨_, rfl⟩)
  · exact .inr (.inr ⟨_, rfl⟩)

theorem State.compute_lands {s : State} {srcs : List Nat} {d : Nat} {v : Word}
    (hs : Readable s srcs) (hd : Writable s [d]) : s.compute srcs d v = fired s srcs (fun t => t.put d v) :=
  State.entry_fired hs hd rfl

@[simp] theorem Readable_nil (s : State) : Readable s [] := rfl
@[simp] theorem Writable_nil (s : State) : Writable s [] := by simp [Writable]

/-- An entry without sources takes no link word. -/
@[simp] theorem State.consume_nil (s : State) : s.consume [] = s := rfl

theorem fired_nil (s : State) (eff : State → State) : fired s [] eff = (eff s).count 0x01 := rfl

/-- Two effects that agree on the state whose link words are taken have the same outcome. -/
theorem fired_congr {s : State} {srcs : List Nat} {f g : State → State} (h : f (s.consume srcs) = g (s.consume srcs)) :
    fired s srcs f = fired s srcs g := by rw [fired, fired, h]

/-- How an entry of the common shape completes. -/
theorem fires_entry {i : Instr} {s : State} {srcs ds : List Nat} {extra : Chk} {eff eff' : State → State}
    (h : exec i s = go (s.entry srcs ds extra eff)) (he : extra = .ok) (hf : eff (s.consume srcs) = eff' (s.consume srcs)) :
    Fires i s srcs ds eff' := by
  intro hs hd
  rw [h, go, State.entry_fired hs hd he, fired_congr hf]

/-- How an entry that writes one value completes. -/
theorem lands_compute {i : Instr} {s : State} {srcs : List Nat} {d : Nat} {v v' : Word}
    (h : exec i s = go (s.compute srcs d v)) (hv : v = v') : Lands i s srcs d v' := by
  subst hv
  intro hs hd
  rw [h, go, State.compute_lands hs hd]

end Sys2Proof.Machine
end

