-- ==== Sys2Proof/Laws/Lanes.lean ====
section
/-! SUPPORT. Laws of lanes: a register made of lanes gives each lane back (R198, R306). -/

namespace Sys2Proof.Machine

open Sys2Proof Sys2Proof.Safety

theorem tyWidth_cases (ty : Nat) : tyWidth ty = 4 ∨ tyWidth ty = 8 ∨ tyWidth ty = 16 ∨ tyWidth ty = 32 := by
  unfold tyWidth; split <;> simp

theorem nN_lt (n : Nat) (x : Int) : (nN n x).toNat < 2 ^ n := by
  have hp : (0 : Int) < (2 ^ n : Nat) := by positivity
  have h1 := Int.emod_lt_of_pos x hp
  have h0 := Int.emod_nonneg x hp.ne'
  unfold nN
  omega

/-- Digits put together, low digit first. -/
def digits (w : Nat) (d : Nat → Nat) (n : Nat) : Nat := (List.range n).foldl (fun acc i => acc + d i * 2 ^ (w * i)) 0

theorem digits_succ (w : Nat) (d : Nat → Nat) (n : Nat) : digits w d (n + 1) = digits w d n + d n * 2 ^ (w * n) := by
  simp [digits, List.range_succ]

theorem digits_lt {w : Nat} {d : Nat → Nat} (h : ∀ k, d k < 2 ^ w) (n : Nat) : digits w d n < 2 ^ (w * n) := by
  induction n with
  | zero => simp [digits]
  | succ n ih =>
    rw [digits_succ, Nat.mul_succ, Nat.pow_add]
    have := Nat.mul_le_mul_right (2 ^ (w * n)) (Nat.succ_le_of_lt (h n))
    rw [Nat.succ_mul] at this
    rw [Nat.mul_comm (2 ^ (w * n))]
    omega

theorem digits_digit {w : Nat} {d : Nat → Nat} (h : ∀ k, d k < 2 ^ w) {i n : Nat} (hi : i < n) :
    digits w d n / 2 ^ (w * i) % 2 ^ w = d i := by
  induction n with
  | zero => omega
  | succ n ih =>
    rw [digits_succ]
    obtain hl | rfl := Nat.lt_succ_iff_lt_or_eq.1 hi
    · obtain ⟨m, rfl⟩ : ∃ m, n = i + 1 + m := ⟨n - i - 1, by omega⟩
      rw [show d (i + 1 + m) * 2 ^ (w * (i + 1 + m)) = d (i + 1 + m) * 2 ^ (w * m) * 2 ^ w * 2 ^ (w * i) by ring,
        Nat.add_mul_div_right _ _ (by positivity), Nat.add_mul_mod_self_right]
      exact ih hl
    · rw [Nat.add_mul_div_right _ _ (by positivity), Nat.div_eq_of_lt (digits_lt h i), Nat.zero_add,
        Nat.mod_eq_of_lt (h i)]

theorem lane_ofLanes {w : Nat} (hw : w = 4 ∨ w = 8 ∨ w = 16 ∨ w = 32) (f : Nat → Int) {i : Nat} (hi : i < 32 / w) :
    lane (ofLanes w f) w i = (nN w (f i)).toNat := by
  have hb := fun k => nN_lt w (f k)
  have hl := digits_lt hb (32 / w)
  have hd := digits_digit hb hi
  have hm : 2 ^ (w * (32 / w)) = 2 ^ 32 := by obtain rfl | rfl | rfl | rfl := hw <;> rfl
  rw [hm] at hl
  unfold lane
  rw [Nat.shiftRight_eq_div_pow, ← hd]
  show (BitVec.ofNat 32 (digits w (fun k => (nN w (f k)).toNat) (32 / w))).toNat / _ % _ = _
  rw [BitVec.toNat_ofNat, Nat.mod_eq_of_lt hl]

/-- A lane operation lands its lanes. -/
theorem laneWise_ofLanes (ty : Nat) (f : Nat → Int) : LaneWise ty (ofLanes (tyWidth ty) f) f :=
  fun _ hi => lane_ofLanes (tyWidth_cases ty) f hi

theorem lane_lt (x : Word) (w i : Nat) : lane x w i < 2 ^ w := Nat.mod_lt _ (by positivity)

end Sys2Proof.Machine
end

