-- ==== Sys2Proof/Laws/Memory.lean ====
section
/-! SUPPORT. The laws of memory: what a byte reads after a write, and the canonical form that every operation keeps. -/

namespace Sys2Proof.Machine

open Sys2Proof

@[simp] theorem Memory.read_nil (a : Nat) : Memory.read [] a = 0#8 := rfl

/-- In a memory whose addresses are at least `lo`, a lower address reads zero. -/
theorem Memory.read_below {m : Memory} {lo a : Nat} (h : m.wfFrom lo = true) (ha : a < lo) : m.read a = 0#8 := by
  induction m generalizing lo with
  | nil => rfl
  | cons c t ih =>
    obtain ⟨k, b⟩ := c
    simp only [Memory.wfFrom, Bool.and_eq_true, decide_eq_true_eq] at h
    have : k ≠ a := by omega
    simp [Memory.read, this, ih h.2 (by omega)]

theorem Memory.wfFrom_mono {m : Memory} {lo lo' : Nat} (h : m.wfFrom lo = true) (hl : lo' ≤ lo) : m.wfFrom lo' = true := by
  cases m with
  | nil => rfl
  | cons c t =>
    obtain ⟨k, b⟩ := c
    simp only [Memory.wfFrom, Bool.and_eq_true, decide_eq_true_eq] at h ⊢
    exact ⟨⟨by omega, h.1.2⟩, h.2⟩

/-- A write at `lo` or above keeps the canonical form from `lo` on. -/
theorem Memory.wfFrom_write {m : Memory} {lo a : Nat} (b : Byte) (h : m.wfFrom lo = true) (ha : lo ≤ a) :
    (m.write a b).wfFrom lo = true := by
  induction m generalizing lo with
  | nil => by_cases hb : b = 0#8 <;> simp [Memory.write, Memory.wfFrom, hb, ha]
  | cons c t ih =>
    obtain ⟨k, v⟩ := c
    have h' := h
    simp only [Memory.wfFrom, Bool.and_eq_true, decide_eq_true_eq] at h
    obtain ⟨⟨hk, hv⟩, ht⟩ := h
    simp only [Memory.write]
    by_cases h1 : a < k
    · by_cases hb : b = 0#8
      · simpa [h1, hb] using h'
      · simp only [h1, hb, if_true, if_false, Memory.wfFrom, Bool.and_eq_true, decide_eq_true_eq]
        exact ⟨⟨ha, by simpa using hb⟩, ⟨⟨by omega, hv⟩, ht⟩⟩
    · by_cases h2 : a = k
      · subst h2
        by_cases hb : b = 0#8
        · simpa [hb] using Memory.wfFrom_mono ht (by omega)
        · simp [hb, Memory.wfFrom, ha, ht]
      · simp only [h1, h2, if_false, Memory.wfFrom, Bool.and_eq_true, decide_eq_true_eq]
        exact ⟨⟨hk, hv⟩, ih ht (by omega)⟩

/-- A write keeps the canonical form. -/
theorem Memory.wf_write {m : Memory} (a : Nat) (b : Byte) (h : m.wf = true) : (m.write a b).wf = true :=
  Memory.wfFrom_write b h (Nat.zero_le a)

/-- A run of writes keeps the canonical form. -/
theorem Memory.wf_writeN {m : Memory} (a : Nat) (l : List Byte) (h : m.wf = true) : (m.writeN a l).wf = true := by
  induction l generalizing m a with
  | nil => exact h
  | cons b t ih => exact ih (a + 1) (Memory.wf_write a b h)

theorem Memory.read_write_from {m : Memory} {lo : Nat} (h : m.wfFrom lo = true) (a : Nat) (b : Byte) (x : Nat) :
    (m.write a b).read x = if x = a then b else m.read x := by
  induction m generalizing lo with
  | nil =>
    by_cases hb : b = 0#8
    · simp [Memory.write, hb]
    · by_cases hx : x = a
      · simp [Memory.write, hb, Memory.read, hx]
      · have hx' : ¬ a = x := fun e => hx e.symm
        simp [Memory.write, hb, Memory.read, hx, hx']
  | cons c t ih =>
    obtain ⟨k, v⟩ := c
    simp only [Memory.wfFrom, Bool.and_eq_true, decide_eq_true_eq] at h
    obtain ⟨⟨hk, hv⟩, ht⟩ := h
    simp only [Memory.write]
    by_cases h1 : a < k
    · have ra : Memory.read t a = 0#8 := Memory.read_below ht (by omega)
      by_cases hb : b = 0#8
      · simp only [h1, hb, if_true]
        by_cases hx : x = a
        · subst hx; simp [Memory.read, ra, Nat.ne_of_gt h1]
        · simp [hx]
      · simp only [h1, hb, if_true, if_false]
        by_cases hx : x = a
        · subst hx; simp [Memory.read]
        · have hx' : ¬ a = x := fun e => hx e.symm
          simp [Memory.read, hx, hx']
    · by_cases h2 : a = k
      · subst h2
        by_cases hb : b = 0#8
        · have ra : Memory.read t a = 0#8 := Memory.read_below ht (by omega)
          simp only [h1, if_true, if_false, hb]
          by_cases hx : x = a
          · subst hx; simp [ra]
          · have hx' : ¬ a = x := fun e => hx e.symm
            simp [Memory.read, hx, hx']
        · simp only [h1, if_true, if_false, hb]
          by_cases hx : x = a
          · subst hx; simp [Memory.read]
          · have hx' : ¬ a = x := fun e => hx e.symm
            simp [Memory.read, hx, hx']
      · simp only [h1, h2, if_false, Memory.read, ih ht]
        by_cases hx : k = x
        · subst hx
          have h2' : ¬ k = a := fun e => h2 e.symm
          simp [h2']
        · simp [hx]

/-- A byte reads what was last written to it, and every other byte what it read before. -/
theorem Memory.read_write {m : Memory} (h : m.wf = true) (a : Nat) (b : Byte) (x : Nat) :
    (m.write a b).read x = if x = a then b else m.read x := Memory.read_write_from h a b x

/-- After a run of writes a byte of the run reads the byte written, and every other byte what it read before. -/
theorem Memory.read_writeN {m : Memory} (h : m.wf = true) (a : Nat) (l : List Byte) (x : Nat) :
    (m.writeN a l).read x = if h : a ≤ x ∧ x - a < l.length then l[x - a]'h.2 else m.read x := by
  induction l generalizing m a with
  | nil => simp [Memory.writeN]
  | cons b t ih =>
    simp only [Memory.writeN, ih (Memory.wf_write a b h), Memory.read_write h]
    by_cases h1 : x = a
    · subst h1
      simp
    · by_cases h2 : a + 1 ≤ x ∧ x - (a + 1) < t.length
      · have h3 : a ≤ x ∧ x - a < (b :: t).length := ⟨by omega, by simp; omega⟩
        rw [dif_pos h2, dif_pos h3]
        have : x - a = (x - (a + 1)) + 1 := by omega
        simp only [this, List.getElem_cons_succ]
      · have h3 : ¬ (a ≤ x ∧ x - a < (b :: t).length) := by simp; omega
        rw [dif_neg h2, dif_neg h3, if_neg h1]

@[simp] theorem Memory.length_readN (m : Memory) (a n : Nat) : (m.readN a n).length = n := by
  induction n generalizing a with
  | zero => rfl
  | succ n ih => simp [Memory.readN, ih]

theorem Memory.wf_nil : Memory.wf [] = true := rfl

/-- Cells taken out of a memory keep its canonical form. -/
theorem Memory.wfFrom_filter {m : Memory} {lo : Nat} (p : Host.Cell → Bool) (h : m.wfFrom lo = true) :
    Memory.wfFrom lo (m.filter p) = true := by
  induction m generalizing lo with
  | nil => rfl
  | cons c t ih =>
    obtain ⟨k, b⟩ := c
    simp only [Memory.wfFrom, Bool.and_eq_true, decide_eq_true_eq] at h
    obtain ⟨⟨hk, hb⟩, ht⟩ := h
    simp only [List.filter]
    split
    · simp only [Memory.wfFrom, Bool.and_eq_true, decide_eq_true_eq]
      exact ⟨⟨hk, hb⟩, ih ht⟩
    · exact ih (Memory.wfFrom_mono ht (by omega))

/-- Writes of a list of cells, each to a place that depends on it, keep the canonical form. -/
theorem Memory.wf_foldl {m : Memory} (l : List Host.Cell) (f : Host.Cell → Nat) (h : m.wf = true) :
    Memory.wf (l.foldl (fun t c => Memory.write t (f c) c.2) m) = true := by
  induction l generalizing m with
  | nil => exact h
  | cons c t ih => exact ih (Memory.wf_write (f c) c.2 h)

/-- A cleared range keeps the canonical form. -/
theorem Memory.wf_clear {m : Memory} (a n : Nat) (h : m.wf = true) : (m.clear a n).wf = true := Memory.wfFrom_filter _ h

/-- A copied range keeps the canonical form. -/
theorem Memory.wf_copy {m : Memory} (src dst n : Nat) (h : m.wf = true) : (m.copy src dst n).wf = true :=
  Memory.wf_foldl _ _ (Memory.wf_clear dst n h)

end Sys2Proof.Machine
end

