-- ==== Sys2Proof/Laws/Messages.lean ====
section
/-! SUPPORT. The laws of host messages: what one that is taken up or refused does, and that its acceptance and its acknowledgement
change the host interface alone (R42 to R44, R46). -/

namespace Sys2Proof.Machine

open Sys2Proof Sys2Proof.Safety

/-- The acceptance of a message changes the host interface alone, and there neither the unreported faults nor the queue. -/
theorem State.accept_only (s : State) (h : MsgHdr) :
    ∃ n, s.accept h = { s with nmp := n } ∧ n.flts = s.nmp.flts ∧ n.queue = s.nmp.queue := by
  unfold State.accept State.acknowledge
  simp only []
  split <;> exact ⟨_, rfl, rfl, rfl⟩

/-- A device message that is queued changes the host interface alone. -/
theorem State.send_only (s : State) (m : DMsg) : ∃ n, s.send m = { s with nmp := n } ∧ n.flts = s.nmp.flts := by
  unfold State.send
  split
  · exact ⟨s.nmp, rfl, rfl⟩
  · split <;> exact ⟨_, rfl, rfl⟩

/-- A message that is accepted and acknowledged has so far changed the host interface alone. -/
theorem acked_only (s : State) (h : MsgHdr) (kind status : Nat) :
    ∃ n, acked s h kind status = { s with nmp := n } ∧ n.flts = s.nmp.flts := by
  obtain ⟨n, hn, hf, -⟩ := State.accept_only s h
  obtain ⟨n', hn', hf'⟩ := State.send_only (s.accept h) _
  refine ⟨n', ?_, ?_⟩
  · unfold acked State.ack; rw [hn', hn]
  · rw [hf', hn]; exact hf

/-- What a message that arrives in order, with a sound header, of an allowed kind and with its body sound, does: its effect where
the check of its kind passes, and only the acknowledgement of the status where it does not. -/
theorem received {i : Instr} {s : State} {h : MsgHdr} {k : Nat} {m b : Bool} {c : Nat} {e : State → State}
    (he : exec i s = go (s.receive i h k m b c e)) (ha : Arrives s h) (hw : WellSent s h m) (hb : b = false) :
    exec i s = .next (if c = 0 then e (acked s h k 0) else acked s h k c) := by
  obtain ⟨⟨h0, h1, h2, h3⟩, hs, hw'⟩ := ha
  obtain ⟨hh, hm, hs'⟩ := hw
  have hd' : seqDist s.nmp.hacc h.seq = 1 := by rw [hs]; simp [seqDist]
  have : (s.accept h).sends h.func.toNat = true := by
    obtain ⟨n, hn, -⟩ := State.accept_only s h
    rw [hn]; exact hs'
  rw [he]
  simp only [State.receive, h0, if_false, h1, h2, h3, Bool.or_self, Bool.false_eq_true, seqCase, hd', go, if_true, hw']
  have hst : (s.accept h).msgStatus h m b c = c := by
    subst hb
    cases m <;> simp_all [State.msgStatus]
  simp only [State.takeUp, hst]
  split <;> simp_all [acked]

/-- A message whose check passes is taken up. -/
theorem takenUp {i : Instr} {s : State} {h : MsgHdr} {k : Nat} {m b : Bool} {c : Nat} {e : State → State}
    (he : exec i s = go (s.receive i h k m b c e)) (hb : b = false) (hc : c = 0) : TakenUp i s h k m e := by
  intro ha hw
  rw [received he ha hw hb, if_pos hc]

/-- A message whose check does not pass is refused with its status. -/
theorem refusedWith {i : Instr} {s : State} {h : MsgHdr} {k : Nat} {m b : Bool} {c : Nat} {e : State → State}
    (he : exec i s = go (s.receive i h k m b c e)) (hb : b = false) {c' : Nat} (hc : c = c') (h0 : c' ≠ 0) :
    RefusedWith i s h k m c' := by
  intro ha hw
  rw [received he ha hw hb, if_neg (hc ▸ h0), hc]

/-- The next open latency takes one entry of the list of latencies, and changes nothing else. -/
theorem State.lat_only (s : State) : ∃ l, s.lat.2 = { s with lats := l } := by
  unfold State.lat
  split <;> exact ⟨_, rfl⟩

end Sys2Proof.Machine
end

