-- ==== Sys2Proof/Laws/PerInstr.lean ====
section
/-! SUPPORT. The family RoundTrip: decoding the payload of a fabric entry under its own opcode gives the
entry back, one lemma per constructor of `Instr`; a device step has no opcode, and its lemma says nothing
of a word. Beneath them, one lemma for each of the seven formats of R294. -/
namespace Sys2Proof.Laws.RoundTrip
open Sys2Proof

/-- The opcode and the payload of the instruction, read as an entry's bits 47 to 0, name the instruction. -/
def Statement (i : Instr) : Prop := ∀ o, i.opc = some o → Instr.ofOpc o.toNat i.payload = some i

/-- The number of two fields side by side. -/
theorem toNat_app {n m : Nat} (x : BitVec n) (y : BitVec m) : (x ++ y).toNat = x.toNat * 2 ^ m + y.toNat := by
  rw [BitVec.toNat_append, ← Nat.shiftLeft_add_eq_or_of_lt y.isLt, Nat.shiftLeft_eq]

/-- Format T comes back whole. -/
theorem unT_pkT (f : FT) : unT (pkT f) = f := by
  obtain ⟨d, a, am, b, bm, ty, sub⟩ := f
  have h : (pkT ⟨d, a, am, b, bm, ty, sub⟩).toNat =
      ((((((d.toNat) * 128 + a.toNat) * 8 + am.toNat) * 128 + b.toNat) * 8 + bm.toNat) * 16 + ty.toNat) * 16 + sub.toNat :=
    (show (d ++ a ++ am ++ b ++ bm ++ ty ++ sub).toNat = _ by simp only [toNat_app]; rfl)
  simp only [unT, FT.mk.injEq]
  have := d.isLt; have := a.isLt; have := am.isLt; have := b.isLt; have := bm.isLt; have := ty.isLt; have := sub.isLt
  refine ⟨?_, ?_, ?_, ?_, ?_, ?_, ?_⟩ <;> apply BitVec.eq_of_toNat_eq <;>
    rw [BitVec.extractLsb'_toNat, h, Nat.shiftRight_eq_div_pow] <;> omega

/-- Format F comes back whole. -/
theorem unF_pkF (f : FF) : unF (pkF f) = f := by
  obtain ⟨d, a, am, b, bm, c, ty3⟩ := f
  have h : (pkF ⟨d, a, am, b, bm, c, ty3⟩).toNat =
      ((((((d.toNat) * 128 + a.toNat) * 4 + am.toNat) * 128 + b.toNat) * 4 + bm.toNat) * 128 + c.toNat) * 8 + ty3.toNat :=
    (show (d ++ a ++ am ++ b ++ bm ++ c ++ ty3).toNat = _ by simp only [toNat_app]; rfl)
  simp only [unF, FF.mk.injEq]
  have := d.isLt; have := a.isLt; have := am.isLt; have := b.isLt; have := bm.isLt; have := c.isLt; have := ty3.isLt
  refine ⟨?_, ?_, ?_, ?_, ?_, ?_, ?_⟩ <;> apply BitVec.eq_of_toNat_eq <;>
    rw [BitVec.extractLsb'_toNat, h, Nat.shiftRight_eq_div_pow] <;> omega

/-- Format I comes back whole. -/
theorem unI_pkI (f : FI) : unI (pkI f) = f := by
  obtain ⟨d, a, imm⟩ := f
  have h : (pkI ⟨d, a, imm⟩).toNat =
      ((d.toNat) * 128 + a.toNat) * 2097152 + imm.toNat :=
    (show (d ++ a ++ imm).toNat = _ by simp only [toNat_app]; rfl)
  simp only [unI, FI.mk.injEq]
  have := d.isLt; have := a.isLt; have := imm.isLt
  refine ⟨?_, ?_, ?_⟩ <;> apply BitVec.eq_of_toNat_eq <;>
    rw [BitVec.extractLsb'_toNat, h, Nat.shiftRight_eq_div_pow] <;> omega

/-- Format M comes back whole. -/
theorem unM_pkM (f : FM) : unM (pkM f) = f := by
  obtain ⟨d, strm, mode, off⟩ := f
  have h : (pkM ⟨d, strm, mode, off⟩).toNat =
      (((d.toNat) * 8 + strm.toNat) * 16 + mode.toNat) * 2097152 + off.toNat :=
    (show (d ++ strm ++ mode ++ off).toNat = _ by simp only [toNat_app]; rfl)
  simp only [unM, FM.mk.injEq]
  have := d.isLt; have := strm.isLt; have := mode.isLt; have := off.isLt
  refine ⟨?_, ?_, ?_, ?_⟩ <;> apply BitVec.eq_of_toNat_eq <;>
    rw [BitVec.extractLsb'_toNat, h, Nat.shiftRight_eq_div_pow] <;> omega

/-- Format W comes back whole. -/
theorem unW_pkW (f : FW) : unW (pkW f) = f := by
  obtain ⟨d, a, b, win, wm, sub⟩ := f
  have h : (pkW ⟨d, a, b, win, wm, sub⟩).toNat =
      (((((d.toNat) * 128 + a.toNat) * 128 + b.toNat) * 512 + win.toNat) * 4 + wm.toNat) * 8 + sub.toNat :=
    (show (d ++ a ++ b ++ win ++ wm ++ sub).toNat = _ by simp only [toNat_app]; rfl)
  simp only [unW, FW.mk.injEq]
  have := d.isLt; have := a.isLt; have := b.isLt; have := win.isLt; have := wm.isLt; have := sub.isLt
  refine ⟨?_, ?_, ?_, ?_, ?_, ?_⟩ <;> apply BitVec.eq_of_toNat_eq <;>
    rw [BitVec.extractLsb'_toNat, h, Nat.shiftRight_eq_div_pow] <;> omega

/-- Format X comes back whole. -/
theorem unX_pkX (f : FX) : unX (pkX f) = f := by
  obtain ⟨asl, bsl, acc, shp, opt, d, rsv⟩ := f
  have h : (pkX ⟨asl, bsl, acc, shp, opt, d, rsv⟩).toNat =
      ((((((asl.toNat) * 64 + bsl.toNat) * 4 + acc.toNat) * 16 + shp.toNat) * 8 + opt.toNat) * 128 + d.toNat) * 128 + rsv.toNat :=
    (show (asl ++ bsl ++ acc ++ shp ++ opt ++ d ++ rsv).toNat = _ by simp only [toNat_app]; rfl)
  simp only [unX, FX.mk.injEq]
  have := asl.isLt; have := bsl.isLt; have := acc.isLt; have := shp.isLt; have := opt.isLt; have := d.isLt; have := rsv.isLt
  refine ⟨?_, ?_, ?_, ?_, ?_, ?_, ?_⟩ <;> apply BitVec.eq_of_toNat_eq <;>
    rw [BitVec.extractLsb'_toNat, h, Nat.shiftRight_eq_div_pow] <;> omega

/-- Format K comes back whole. -/
theorem unK_pkK (f : FK) : unK (pkK f) = f := by
  obtain ⟨d, a, param⟩ := f
  have h : (pkK ⟨d, a, param⟩).toNat =
      ((d.toNat) * 128 + a.toNat) * 2097152 + param.toNat :=
    (show (d ++ a ++ param).toNat = _ by simp only [toNat_app]; rfl)
  simp only [unK, FK.mk.injEq]
  have := d.isLt; have := a.isLt; have := param.isLt
  refine ⟨?_, ?_, ?_⟩ <;> apply BitVec.eq_of_toNat_eq <;>
    rw [BitVec.extractLsb'_toNat, h, Nat.shiftRight_eq_div_pow] <;> omega

theorem tenantCreate (h : MsgHdr) (tgt : Byte) (cls : Byte) (ways : BitVec 16) (pages : Byte) (prio : Byte) (keys : BitVec 16) (rows : Word) (quant : Word) (rate : Word) : Statement (.tenantCreate h tgt cls ways pages prio keys rows quant rate) := by
  rintro _ ⟨⟩
theorem tenantBudget (h : MsgHdr) (tgt : Byte) (cls : Byte) (ways : BitVec 16) (pages : Byte) (prio : Byte) (keys : BitVec 16) (rows : Word) (quant : Word) (rate : Word) : Statement (.tenantBudget h tgt cls ways pages prio keys rows quant rate) := by
  rintro _ ⟨⟩
theorem tenantDestroy (h : MsgHdr) (tgt : Byte) : Statement (.tenantDestroy h tgt) := by
  rintro _ ⟨⟩
theorem tenantDestroyDone (func : Nat) : Statement (.tenantDestroyDone func) := by
  rintro _ ⟨⟩
theorem imageLoad (h : MsgHdr) (slot : Byte) (haddr : BitVec 64) (len : Word) : Statement (.imageLoad h slot haddr len) := by
  rintro _ ⟨⟩
theorem imageLoadDone (func : Nat) (slot : Nat) (readOk : Bool) : Statement (.imageLoadDone func slot readOk) := by
  rintro _ ⟨⟩
theorem endpointBind (h : MsgHdr) (slot : Byte) (set : Byte) (ep : Byte) (haddr : BitVec 64) (ext : BitVec 64) : Statement (.endpointBind h slot set ep haddr ext) := by
  rintro _ ⟨⟩
theorem launch (h : MsgHdr) (slot : Byte) (set : Byte) (graph : BitVec 16) (prio : Byte) (plen : Byte) (param : BitVec 384) : Statement (.launch h slot set graph prio plen param) := by
  rintro _ ⟨⟩
theorem signalValue (h : MsgHdr) (ltag : Word) (value : Word) : Statement (.signalValue h ltag value) := by
  rintro _ ⟨⟩
theorem signalResume (h : MsgHdr) (ltag : Word) (fid : Word) : Statement (.signalResume h ltag fid) := by
  rintro _ ⟨⟩
theorem signalAbort (h : MsgHdr) (ltag : Word) (fid : Word) : Statement (.signalAbort h ltag fid) := by
  rintro _ ⟨⟩
theorem cancel (h : MsgHdr) (scope : Byte) (ltag : Word) : Statement (.cancel h scope ltag) := by
  rintro _ ⟨⟩
theorem query (h : MsgHdr) (sel : Byte) (ltag : Word) : Statement (.query h sel ltag) := by
  rintro _ ⟨⟩
theorem fwStage (h : MsgHdr) (haddr : BitVec 64) (len : Word) : Statement (.fwStage h haddr len) := by
  rintro _ ⟨⟩
theorem fwStageDone (readOk : Bool) : Statement (.fwStageDone readOk) := by
  rintro _ ⟨⟩
theorem fwActivate (h : MsgHdr) (dies : Byte) (comp : Byte) : Statement (.fwActivate h dies comp) := by
  rintro _ ⟨⟩
theorem fwActivateDieDone (ok : Bool) : Statement (.fwActivateDieDone ok) := by
  rintro _ ⟨⟩
theorem calRun (h : MsgHdr) (tkind : Byte) (index : Byte) : Statement (.calRun h tkind index) := by
  rintro _ ⟨⟩
theorem calRunDone (ok : Bool) : Statement (.calRunDone ok) := by
  rintro _ ⟨⟩
theorem retire (h : MsgHdr) (tkind : Byte) (index : Byte) (lane : Byte) (base : BitVec 64) (ext : BitVec 64) : Statement (.retire h tkind index lane base ext) := by
  rintro _ ⟨⟩
theorem launchComplete (func : Nat) (ltag : Word) : Statement (.launchComplete func ltag) := by
  rintro _ ⟨⟩
theorem resetSequence (fwOk : Bool) (badPages : List Nat) (badDies : List Nat) (badModules : List Nat) : Statement (.resetSequence fwOk badPages badDies badModules) := by
  rintro _ ⟨⟩
theorem droopCountClear (die : Nat) : Statement (.droopCountClear die) := by
  rintro _ ⟨⟩
theorem nmpdackWrite (v : Word) : Statement (.nmpdackWrite v) := by
  rintro _ ⟨⟩
theorem nmperrClear (v : Word) : Statement (.nmperrClear v) := by
  rintro _ ⟨⟩
theorem eccCountClear (uncorrectable : Bool) : Statement (.eccCountClear uncorrectable) := by
  rintro _ ⟨⟩
theorem registerWriteIgnored (off : Word) (v : Word) : Statement (.registerWriteIgnored off v) := by
  rintro _ ⟨⟩
theorem flitReceive (port : Nat) (f : Flit) : Statement (.flitReceive port f) := by
  rintro _ ⟨⟩
theorem replayRequest (port : Nat) : Statement (.replayRequest port) := by
  rintro _ ⟨⟩
theorem laneEyeFail (port : Nat) (lane : Nat) : Statement (.laneEyeFail port lane) := by
  rintro _ ⟨⟩
theorem portRetrainDone (port : Nat) (failedLanes : List Nat) (farAcc : BitVec 12) : Statement (.portRetrainDone port failedLanes farAcc) := by
  rintro _ ⟨⟩
theorem hostLinkModuleLoss (module : Nat) : Statement (.hostLinkModuleLoss module) := by
  rintro _ ⟨⟩
theorem portWrite (port : Nat) (pa : Nat) (data : List Byte) : Statement (.portWrite port pa data) := by
  rintro _ ⟨⟩
theorem portRead (port : Nat) (pa : Nat) (n : Nat) : Statement (.portRead port pa n) := by
  rintro _ ⟨⟩
theorem droopDetect (die : Nat) : Statement (.droopDetect die) := by
  rintro _ ⟨⟩
theorem droopRecover (die : Nat) : Statement (.droopRecover die) := by
  rintro _ ⟨⟩
theorem thermalLimit (die : Nat) : Statement (.thermalLimit die) := by
  rintro _ ⟨⟩
theorem thermalRecover (die : Nat) : Statement (.thermalRecover die) := by
  rintro _ ⟨⟩
theorem l2WayGate (die : Nat) (way : Nat) (gate : Bool) : Statement (.l2WayGate die way gate) := by
  rintro _ ⟨⟩
theorem scrubPass (shared : Bool) : Statement (.scrubPass shared) := by
  rintro _ ⟨⟩
theorem launchActivate (func : Nat) (ltag : Word) : Statement (.launchActivate func ltag) := by
  rintro _ ⟨⟩
theorem fabricLoadRelease (func : Nat) (ltag : Word) (load : Nat) : Statement (.fabricLoadRelease func ltag load) := by
  rintro _ ⟨⟩
theorem walkComplete (id : Nat) : Statement (.walkComplete id) := by
  rintro _ ⟨⟩
theorem holdTakesEffect (line : Nat) : Statement (.holdTakesEffect line) := by
  rintro _ ⟨⟩
theorem holdSuspend (row : Nat) : Statement (.holdSuspend row) := by
  rintro _ ⟨⟩
theorem holdResume (row : Nat) : Statement (.holdResume row) := by
  rintro _ ⟨⟩
theorem hotBlockTimeout (block : Nat) : Statement (.hotBlockTimeout block) := by
  rintro _ ⟨⟩
theorem mov (f : FT) : Statement (.mov f) := by
  rintro _ ⟨⟩; exact congrArg (fun g => some (Instr.mov g)) (unT_pkT f)
theorem movi (f : FI) : Statement (.movi f) := by
  rintro _ ⟨⟩; exact congrArg (fun g => some (Instr.movi g)) (unI_pkI f)
theorem movhi (f : FI) : Statement (.movhi f) := by
  rintro _ ⟨⟩; exact congrArg (fun g => some (Instr.movhi g)) (unI_pkI f)
theorem add (f : FT) : Statement (.add f) := by
  rintro _ ⟨⟩; exact congrArg (fun g => some (Instr.add g)) (unT_pkT f)
theorem addi (f : FI) : Statement (.addi f) := by
  rintro _ ⟨⟩; exact congrArg (fun g => some (Instr.addi g)) (unI_pkI f)
theorem sub (f : FT) : Statement (.sub f) := by
  rintro _ ⟨⟩; exact congrArg (fun g => some (Instr.sub g)) (unT_pkT f)
theorem adds (f : FT) : Statement (.adds f) := by
  rintro _ ⟨⟩; exact congrArg (fun g => some (Instr.adds g)) (unT_pkT f)
theorem subs (f : FT) : Statement (.subs f) := by
  rintro _ ⟨⟩; exact congrArg (fun g => some (Instr.subs g)) (unT_pkT f)
theorem neg (f : FT) : Statement (.neg f) := by
  rintro _ ⟨⟩; exact congrArg (fun g => some (Instr.neg g)) (unT_pkT f)
theorem abs (f : FT) : Statement (.abs f) := by
  rintro _ ⟨⟩; exact congrArg (fun g => some (Instr.abs g)) (unT_pkT f)
theorem min (f : FT) : Statement (.min f) := by
  rintro _ ⟨⟩; exact congrArg (fun g => some (Instr.min g)) (unT_pkT f)
theorem max (f : FT) : Statement (.max f) := by
  rintro _ ⟨⟩; exact congrArg (fun g => some (Instr.max g)) (unT_pkT f)
theorem mul (f : FT) : Statement (.mul f) := by
  rintro _ ⟨⟩; exact congrArg (fun g => some (Instr.mul g)) (unT_pkT f)
theorem mulh (f : FT) : Statement (.mulh f) := by
  rintro _ ⟨⟩; exact congrArg (fun g => some (Instr.mulh g)) (unT_pkT f)
theorem mad (f : FF) : Statement (.mad f) := by
  rintro _ ⟨⟩; exact congrArg (fun g => some (Instr.mad g)) (unF_pkF f)
theorem div (f : FW) : Statement (.div f) := by
  rintro _ ⟨⟩; exact congrArg (fun g => some (Instr.div g)) (unW_pkW f)
theorem rem (f : FW) : Statement (.rem f) := by
  rintro _ ⟨⟩; exact congrArg (fun g => some (Instr.rem g)) (unW_pkW f)
theorem andW (f : FT) : Statement (.andW f) := by
  rintro _ ⟨⟩; exact congrArg (fun g => some (Instr.andW g)) (unT_pkT f)
theorem orW (f : FT) : Statement (.orW f) := by
  rintro _ ⟨⟩; exact congrArg (fun g => some (Instr.orW g)) (unT_pkT f)
theorem xorW (f : FT) : Statement (.xorW f) := by
  rintro _ ⟨⟩; exact congrArg (fun g => some (Instr.xorW g)) (unT_pkT f)
theorem andn (f : FT) : Statement (.andn f) := by
  rintro _ ⟨⟩; exact congrArg (fun g => some (Instr.andn g)) (unT_pkT f)
theorem andi (f : FI) : Statement (.andi f) := by
  rintro _ ⟨⟩; exact congrArg (fun g => some (Instr.andi g)) (unI_pkI f)
theorem ori (f : FI) : Statement (.ori f) := by
  rintro _ ⟨⟩; exact congrArg (fun g => some (Instr.ori g)) (unI_pkI f)
theorem xori (f : FI) : Statement (.xori f) := by
  rintro _ ⟨⟩; exact congrArg (fun g => some (Instr.xori g)) (unI_pkI f)
theorem shl (f : FT) : Statement (.shl f) := by
  rintro _ ⟨⟩; exact congrArg (fun g => some (Instr.shl g)) (unT_pkT f)
theorem shr (f : FT) : Statement (.shr f) := by
  rintro _ ⟨⟩; exact congrArg (fun g => some (Instr.shr g)) (unT_pkT f)
theorem shra (f : FT) : Statement (.shra f) := by
  rintro _ ⟨⟩; exact congrArg (fun g => some (Instr.shra g)) (unT_pkT f)
theorem rot (f : FT) : Statement (.rot f) := by
  rintro _ ⟨⟩; exact congrArg (fun g => some (Instr.rot g)) (unT_pkT f)
theorem shi (f : FI) : Statement (.shi f) := by
  rintro _ ⟨⟩; exact congrArg (fun g => some (Instr.shi g)) (unI_pkI f)
theorem clz (f : FT) : Statement (.clz f) := by
  rintro _ ⟨⟩; exact congrArg (fun g => some (Instr.clz g)) (unT_pkT f)
theorem popc (f : FT) : Statement (.popc f) := by
  rintro _ ⟨⟩; exact congrArg (fun g => some (Instr.popc g)) (unT_pkT f)
theorem brev (f : FT) : Statement (.brev f) := by
  rintro _ ⟨⟩; exact congrArg (fun g => some (Instr.brev g)) (unT_pkT f)
theorem bfx (f : FI) : Statement (.bfx f) := by
  rintro _ ⟨⟩; exact congrArg (fun g => some (Instr.bfx g)) (unI_pkI f)
theorem bfi (f : FI) : Statement (.bfi f) := by
  rintro _ ⟨⟩; exact congrArg (fun g => some (Instr.bfi g)) (unI_pkI f)
theorem cmp (f : FT) : Statement (.cmp f) := by
  rintro _ ⟨⟩; exact congrArg (fun g => some (Instr.cmp g)) (unT_pkT f)
theorem sel (f : FF) : Statement (.sel f) := by
  rintro _ ⟨⟩; exact congrArg (fun g => some (Instr.sel g)) (unF_pkF f)
theorem pset (f : FK) : Statement (.pset f) := by
  rintro _ ⟨⟩; exact congrArg (fun g => some (Instr.pset g)) (unK_pkK f)
theorem lea (f : FT) : Statement (.lea f) := by
  rintro _ ⟨⟩; exact congrArg (fun g => some (Instr.lea g)) (unT_pkT f)
theorem addc (f : FT) : Statement (.addc f) := by
  rintro _ ⟨⟩; exact congrArg (fun g => some (Instr.addc g)) (unT_pkT f)
theorem pack (f : FT) : Statement (.pack f) := by
  rintro _ ⟨⟩; exact congrArg (fun g => some (Instr.pack g)) (unT_pkT f)
theorem unpk (f : FT) : Statement (.unpk f) := by
  rintro _ ⟨⟩; exact congrArg (fun g => some (Instr.unpk g)) (unT_pkT f)
theorem shuf (f : FI) : Statement (.shuf f) := by
  rintro _ ⟨⟩; exact congrArg (fun g => some (Instr.shuf g)) (unI_pkI f)
theorem dot4 (f : FF) : Statement (.dot4 f) := by
  rintro _ ⟨⟩; exact congrArg (fun g => some (Instr.dot4 g)) (unF_pkF f)
theorem dot2 (f : FF) : Statement (.dot2 f) := by
  rintro _ ⟨⟩; exact congrArg (fun g => some (Instr.dot2 g)) (unF_pkF f)
theorem cnti (f : FK) : Statement (.cnti f) := by
  rintro _ ⟨⟩; exact congrArg (fun g => some (Instr.cnti g)) (unK_pkK f)
theorem cnts (f : FK) : Statement (.cnts f) := by
  rintro _ ⟨⟩; exact congrArg (fun g => some (Instr.cnts g)) (unK_pkK f)
theorem cntv (f : FK) : Statement (.cntv f) := by
  rintro _ ⟨⟩; exact congrArg (fun g => some (Instr.cntv g)) (unK_pkK f)
theorem cntt (f : FK) : Statement (.cntt f) := by
  rintro _ ⟨⟩; exact congrArg (fun g => some (Instr.cntt g)) (unK_pkK f)
theorem sws (f : FK) : Statement (.sws f) := by
  rintro _ ⟨⟩; exact congrArg (fun g => some (Instr.sws g)) (unK_pkK f)
theorem rotb (f : FK) : Statement (.rotb f) := by
  rintro _ ⟨⟩; exact congrArg (fun g => some (Instr.rotb g)) (unK_pkK f)
theorem toks (f : FK) : Statement (.toks f) := by
  rintro _ ⟨⟩; exact congrArg (fun g => some (Instr.toks g)) (unK_pkK f)
theorem tokw (f : FW) : Statement (.tokw f) := by
  rintro _ ⟨⟩; exact congrArg (fun g => some (Instr.tokw g)) (unW_pkW f)
theorem tokt (f : FK) : Statement (.tokt f) := by
  rintro _ ⟨⟩; exact congrArg (fun g => some (Instr.tokt g)) (unK_pkK f)
theorem loopb (f : FK) : Statement (.loopb f) := by
  rintro _ ⟨⟩; exact congrArg (fun g => some (Instr.loopb g)) (unK_pkK f)
theorem loope (f : FK) : Statement (.loope f) := by
  rintro _ ⟨⟩; exact congrArg (fun g => some (Instr.loope g)) (unK_pkK f)
theorem waitw (f : FW) : Statement (.waitw f) := by
  rintro _ ⟨⟩; exact congrArg (fun g => some (Instr.waitw g)) (unW_pkW f)
theorem latch (f : FW) : Statement (.latch f) := by
  rintro _ ⟨⟩; exact congrArg (fun g => some (Instr.latch g)) (unW_pkW f)
theorem handl (f : FK) : Statement (.handl f) := by
  rintro _ ⟨⟩; exact congrArg (fun g => some (Instr.handl g)) (unK_pkK f)
theorem ldl (f : FM) : Statement (.ldl f) := by
  rintro _ ⟨⟩; exact congrArg (fun g => some (Instr.ldl g)) (unM_pkM f)
theorem stl (f : FM) : Statement (.stl f) := by
  rintro _ ⟨⟩; exact congrArg (fun g => some (Instr.stl g)) (unM_pkM f)
theorem lds (f : FM) : Statement (.lds f) := by
  rintro _ ⟨⟩; exact congrArg (fun g => some (Instr.lds g)) (unM_pkM f)
theorem sts (f : FM) : Statement (.sts f) := by
  rintro _ ⟨⟩; exact congrArg (fun g => some (Instr.sts g)) (unM_pkM f)
theorem sopen (f : FK) : Statement (.sopen f) := by
  rintro _ ⟨⟩; exact congrArg (fun g => some (Instr.sopen g)) (unK_pkK f)
theorem smark (f : FM) : Statement (.smark f) := by
  rintro _ ⟨⟩; exact congrArg (fun g => some (Instr.smark g)) (unM_pkM f)
theorem srew (f : FM) : Statement (.srew f) := by
  rintro _ ⟨⟩; exact congrArg (fun g => some (Instr.srew g)) (unM_pkM f)
theorem sclose (f : FM) : Statement (.sclose f) := by
  rintro _ ⟨⟩; exact congrArg (fun g => some (Instr.sclose g)) (unM_pkM f)
theorem fpush (f : FM) : Statement (.fpush f) := by
  rintro _ ⟨⟩; exact congrArg (fun g => some (Instr.fpush g)) (unM_pkM f)
theorem fpop (f : FM) : Statement (.fpop f) := by
  rintro _ ⟨⟩; exact congrArg (fun g => some (Instr.fpop g)) (unM_pkM f)
theorem lbsh (f : FM) : Statement (.lbsh f) := by
  rintro _ ⟨⟩; exact congrArg (fun g => some (Instr.lbsh g)) (unM_pkM f)
theorem lbrd (f : FM) : Statement (.lbrd f) := by
  rintro _ ⟨⟩; exact congrArg (fun g => some (Instr.lbrd g)) (unM_pkM f)
theorem cpy (f : FK) : Statement (.cpy f) := by
  rintro _ ⟨⟩; exact congrArg (fun g => some (Instr.cpy g)) (unK_pkK f)
theorem cpyw (f : FW) : Statement (.cpyw f) := by
  rintro _ ⟨⟩; exact congrArg (fun g => some (Instr.cpyw g)) (unW_pkW f)
theorem cpyt (f : FK) : Statement (.cpyt f) := by
  rintro _ ⟨⟩; exact congrArg (fun g => some (Instr.cpyt g)) (unK_pkK f)
theorem gath (f : FM) : Statement (.gath f) := by
  rintro _ ⟨⟩; exact congrArg (fun g => some (Instr.gath g)) (unM_pkM f)
theorem scat (f : FM) : Statement (.scat f) := by
  rintro _ ⟨⟩; exact congrArg (fun g => some (Instr.scat g)) (unM_pkM f)
theorem rmw (f : FM) : Statement (.rmw f) := by
  rintro _ ⟨⟩; exact congrArg (fun g => some (Instr.rmw g)) (unM_pkM f)
theorem red (f : FM) : Statement (.red f) := by
  rintro _ ⟨⟩; exact congrArg (fun g => some (Instr.red g)) (unM_pkM f)
theorem cmo (f : FK) : Statement (.cmo f) := by
  rintro _ ⟨⟩; exact congrArg (fun g => some (Instr.cmo g)) (unK_pkK f)
theorem retn (f : FK) : Statement (.retn f) := by
  rintro _ ⟨⟩; exact congrArg (fun g => some (Instr.retn g)) (unK_pkK f)
theorem unpin (f : FK) : Statement (.unpin f) := by
  rintro _ ⟨⟩; exact congrArg (fun g => some (Instr.unpin g)) (unK_pkK f)
theorem hint (f : FM) : Statement (.hint f) := by
  rintro _ ⟨⟩; exact congrArg (fun g => some (Instr.hint g)) (unM_pkM f)
theorem pref (f : FM) : Statement (.pref f) := by
  rintro _ ⟨⟩; exact congrArg (fun g => some (Instr.pref g)) (unM_pkM f)
theorem hepr (f : FM) : Statement (.hepr f) := by
  rintro _ ⟨⟩; exact congrArg (fun g => some (Instr.hepr g)) (unM_pkM f)
theorem hepw (f : FM) : Statement (.hepw f) := by
  rintro _ ⟨⟩; exact congrArg (fun g => some (Instr.hepw g)) (unM_pkM f)
theorem stag (f : FM) : Statement (.stag f) := by
  rintro _ ⟨⟩; exact congrArg (fun g => some (Instr.stag g)) (unM_pkM f)
theorem bufsw (f : FM) : Statement (.bufsw f) := by
  rintro _ ⟨⟩; exact congrArg (fun g => some (Instr.bufsw g)) (unM_pkM f)
theorem sbar (f : FK) : Statement (.sbar f) := by
  rintro _ ⟨⟩; exact congrArg (fun g => some (Instr.sbar g)) (unK_pkK f)
theorem fence (f : FK) : Statement (.fence f) := by
  rintro _ ⟨⟩; exact congrArg (fun g => some (Instr.fence g)) (unK_pkK f)
theorem bara (f : FK) : Statement (.bara f) := by
  rintro _ ⟨⟩; exact congrArg (fun g => some (Instr.bara g)) (unK_pkK f)
theorem barw (f : FW) : Statement (.barw f) := by
  rintro _ ⟨⟩; exact congrArg (fun g => some (Instr.barw g)) (unW_pkW f)
theorem bart (f : FK) : Statement (.bart f) := by
  rintro _ ⟨⟩; exact congrArg (fun g => some (Instr.bart g)) (unK_pkK f)
theorem keyw (f : FW) : Statement (.keyw f) := by
  rintro _ ⟨⟩; exact congrArg (fun g => some (Instr.keyw g)) (unW_pkW f)
theorem acq (f : FK) : Statement (.acq f) := by
  rintro _ ⟨⟩; exact congrArg (fun g => some (Instr.acq g)) (unK_pkK f)
theorem rel (f : FK) : Statement (.rel f) := by
  rintro _ ⟨⟩; exact congrArg (fun g => some (Instr.rel g)) (unK_pkK f)
theorem drain (f : FW) : Statement (.drain f) := by
  rintro _ ⟨⟩; exact congrArg (fun g => some (Instr.drain g)) (unW_pkW f)
theorem fadd (f : FT) : Statement (.fadd f) := by
  rintro _ ⟨⟩; exact congrArg (fun g => some (Instr.fadd g)) (unT_pkT f)
theorem fsub (f : FT) : Statement (.fsub f) := by
  rintro _ ⟨⟩; exact congrArg (fun g => some (Instr.fsub g)) (unT_pkT f)
theorem fmul (f : FT) : Statement (.fmul f) := by
  rintro _ ⟨⟩; exact congrArg (fun g => some (Instr.fmul g)) (unT_pkT f)
theorem fma (f : FF) : Statement (.fma f) := by
  rintro _ ⟨⟩; exact congrArg (fun g => some (Instr.fma g)) (unF_pkF f)
theorem fmin (f : FT) : Statement (.fmin f) := by
  rintro _ ⟨⟩; exact congrArg (fun g => some (Instr.fmin g)) (unT_pkT f)
theorem fmax (f : FT) : Statement (.fmax f) := by
  rintro _ ⟨⟩; exact congrArg (fun g => some (Instr.fmax g)) (unT_pkT f)
theorem fabs (f : FT) : Statement (.fabs f) := by
  rintro _ ⟨⟩; exact congrArg (fun g => some (Instr.fabs g)) (unT_pkT f)
theorem fneg (f : FT) : Statement (.fneg f) := by
  rintro _ ⟨⟩; exact congrArg (fun g => some (Instr.fneg g)) (unT_pkT f)
theorem fcmp (f : FT) : Statement (.fcmp f) := by
  rintro _ ⟨⟩; exact congrArg (fun g => some (Instr.fcmp g)) (unT_pkT f)
theorem fcls (f : FT) : Statement (.fcls f) := by
  rintro _ ⟨⟩; exact congrArg (fun g => some (Instr.fcls g)) (unT_pkT f)
theorem fdiv (f : FW) : Statement (.fdiv f) := by
  rintro _ ⟨⟩; exact congrArg (fun g => some (Instr.fdiv g)) (unW_pkW f)
theorem fsqrt (f : FW) : Statement (.fsqrt f) := by
  rintro _ ⟨⟩; exact congrArg (fun g => some (Instr.fsqrt g)) (unW_pkW f)
theorem fex2 (f : FT) : Statement (.fex2 f) := by
  rintro _ ⟨⟩; exact congrArg (fun g => some (Instr.fex2 g)) (unT_pkT f)
theorem flg2 (f : FT) : Statement (.flg2 f) := by
  rintro _ ⟨⟩; exact congrArg (fun g => some (Instr.flg2 g)) (unT_pkT f)
theorem frnd (f : FT) : Statement (.frnd f) := by
  rintro _ ⟨⟩; exact congrArg (fun g => some (Instr.frnd g)) (unT_pkT f)
theorem cvt (f : FT) : Statement (.cvt f) := by
  rintro _ ⟨⟩; exact congrArg (fun g => some (Instr.cvt g)) (unT_pkT f)
theorem cvti (f : FT) : Statement (.cvti f) := by
  rintro _ ⟨⟩; exact congrArg (fun g => some (Instr.cvti g)) (unT_pkT f)
theorem cvtf (f : FT) : Statement (.cvtf f) := by
  rintro _ ⟨⟩; exact congrArg (fun g => some (Instr.cvtf g)) (unT_pkT f)
theorem qnt (f : FF) : Statement (.qnt f) := by
  rintro _ ⟨⟩; exact congrArg (fun g => some (Instr.qnt g)) (unF_pkF f)
theorem dqnt (f : FF) : Statement (.dqnt f) := by
  rintro _ ⟨⟩; exact congrArg (fun g => some (Instr.dqnt g)) (unF_pkF f)
theorem bsc (f : FT) : Statement (.bsc f) := by
  rintro _ ⟨⟩; exact congrArg (fun g => some (Instr.bsc g)) (unT_pkT f)
theorem hdrw (f : FT) : Statement (.hdrw f) := by
  rintro _ ⟨⟩; exact congrArg (fun g => some (Instr.hdrw g)) (unT_pkT f)
theorem hdrr (f : FT) : Statement (.hdrr f) := by
  rintro _ ⟨⟩; exact congrArg (fun g => some (Instr.hdrr g)) (unT_pkT f)
theorem bfly (f : FT) : Statement (.bfly f) := by
  rintro _ ⟨⟩; exact congrArg (fun g => some (Instr.bfly g)) (unT_pkT f)
theorem fsum (f : FT) : Statement (.fsum f) := by
  rintro _ ⟨⟩; exact congrArg (fun g => some (Instr.fsum g)) (unT_pkT f)
theorem fdot (f : FF) : Statement (.fdot f) := by
  rintro _ ⟨⟩; exact congrArg (fun g => some (Instr.fdot g)) (unF_pkF f)
theorem fmaxa (f : FT) : Statement (.fmaxa f) := by
  rintro _ ⟨⟩; exact congrArg (fun g => some (Instr.fmaxa g)) (unT_pkT f)
theorem fscl (f : FT) : Statement (.fscl f) := by
  rintro _ ⟨⟩; exact congrArg (fun g => some (Instr.fscl g)) (unT_pkT f)
theorem mclm (f : FX) : Statement (.mclm f) := by
  rintro _ ⟨⟩; exact congrArg (fun g => some (Instr.mclm g)) (unX_pkX f)
theorem mrel (f : FX) : Statement (.mrel f) := by
  rintro _ ⟨⟩; exact congrArg (fun g => some (Instr.mrel g)) (unX_pkX f)
theorem mld (f : FX) : Statement (.mld f) := by
  rintro _ ⟨⟩; exact congrArg (fun g => some (Instr.mld g)) (unX_pkX f)
theorem mst (f : FX) : Statement (.mst f) := by
  rintro _ ⟨⟩; exact congrArg (fun g => some (Instr.mst g)) (unX_pkX f)
theorem mzro (f : FX) : Statement (.mzro f) := by
  rintro _ ⟨⟩; exact congrArg (fun g => some (Instr.mzro g)) (unX_pkX f)
theorem mma (f : FX) : Statement (.mma f) := by
  rintro _ ⟨⟩; exact congrArg (fun g => some (Instr.mma g)) (unX_pkX f)
theorem mmas (f : FX) : Statement (.mmas f) := by
  rintro _ ⟨⟩; exact congrArg (fun g => some (Instr.mmas g)) (unX_pkX f)
theorem mout (f : FX) : Statement (.mout f) := by
  rintro _ ⟨⟩; exact congrArg (fun g => some (Instr.mout g)) (unX_pkX f)
theorem mtrn (f : FX) : Statement (.mtrn f) := by
  rintro _ ⟨⟩; exact congrArg (fun g => some (Instr.mtrn g)) (unX_pkX f)
theorem mctr (f : FX) : Statement (.mctr f) := by
  rintro _ ⟨⟩; exact congrArg (fun g => some (Instr.mctr g)) (unX_pkX f)
theorem msrt (f : FX) : Statement (.msrt f) := by
  rintro _ ⟨⟩; exact congrArg (fun g => some (Instr.msrt g)) (unX_pkX f)
theorem mkey (f : FX) : Statement (.mkey f) := by
  rintro _ ⟨⟩; exact congrArg (fun g => some (Instr.mkey g)) (unX_pkX f)
theorem macc (f : FX) : Statement (.macc f) := by
  rintro _ ⟨⟩; exact congrArg (fun g => some (Instr.macc g)) (unX_pkX f)
theorem folb (f : FK) : Statement (.folb f) := by
  rintro _ ⟨⟩; exact congrArg (fun g => some (Instr.folb g)) (unK_pkK f)
theorem folv (f : FK) : Statement (.folv f) := by
  rintro _ ⟨⟩; exact congrArg (fun g => some (Instr.folv g)) (unK_pkK f)
theorem fold (f : FM) : Statement (.fold f) := by
  rintro _ ⟨⟩; exact congrArg (fun g => some (Instr.fold g)) (unM_pkM f)
theorem folm (f : FX) : Statement (.folm f) := by
  rintro _ ⟨⟩; exact congrArg (fun g => some (Instr.folm g)) (unX_pkX f)
theorem folc (f : FK) : Statement (.folc f) := by
  rintro _ ⟨⟩; exact congrArg (fun g => some (Instr.folc g)) (unK_pkK f)
theorem folr (f : FK) : Statement (.folr f) := by
  rintro _ ⟨⟩; exact congrArg (fun g => some (Instr.folr g)) (unK_pkK f)
theorem foli (f : FK) : Statement (.foli f) := by
  rintro _ ⟨⟩; exact congrArg (fun g => some (Instr.foli g)) (unK_pkK f)
theorem folq (f : FK) : Statement (.folq f) := by
  rintro _ ⟨⟩; exact congrArg (fun g => some (Instr.folq g)) (unK_pkK f)
theorem rowopen (f : FK) : Statement (.rowopen f) := by
  rintro _ ⟨⟩; exact congrArg (fun g => some (Instr.rowopen g)) (unK_pkK f)
theorem rowhold (f : FK) : Statement (.rowhold f) := by
  rintro _ ⟨⟩; exact congrArg (fun g => some (Instr.rowhold g)) (unK_pkK f)
theorem rowrel (f : FK) : Statement (.rowrel f) := by
  rintro _ ⟨⟩; exact congrArg (fun g => some (Instr.rowrel g)) (unK_pkK f)
theorem rowrd (f : FM) : Statement (.rowrd f) := by
  rintro _ ⟨⟩; exact congrArg (fun g => some (Instr.rowrd g)) (unM_pkM f)
theorem rowwr (f : FM) : Statement (.rowwr f) := by
  rintro _ ⟨⟩; exact congrArg (fun g => some (Instr.rowwr g)) (unM_pkM f)
theorem rowq (f : FK) : Statement (.rowq f) := by
  rintro _ ⟨⟩; exact congrArg (fun g => some (Instr.rowq g)) (unK_pkK f)
theorem stkh (f : FK) : Statement (.stkh f) := by
  rintro _ ⟨⟩; exact congrArg (fun g => some (Instr.stkh g)) (unK_pkK f)
theorem stkm (f : FK) : Statement (.stkm f) := by
  rintro _ ⟨⟩; exact congrArg (fun g => some (Instr.stkm g)) (unK_pkK f)
theorem stka (f : FK) : Statement (.stka f) := by
  rintro _ ⟨⟩; exact congrArg (fun g => some (Instr.stka g)) (unK_pkK f)
theorem stkn (f : FK) : Statement (.stkn f) := by
  rintro _ ⟨⟩; exact congrArg (fun g => some (Instr.stkn g)) (unK_pkK f)
theorem stke (f : FM) : Statement (.stke f) := by
  rintro _ ⟨⟩; exact congrArg (fun g => some (Instr.stke g)) (unM_pkM f)
theorem stkq (f : FK) : Statement (.stkq f) := by
  rintro _ ⟨⟩; exact congrArg (fun g => some (Instr.stkq g)) (unK_pkK f)
theorem collapse (f : FK) : Statement (.collapse f) := by
  rintro _ ⟨⟩; exact congrArg (fun g => some (Instr.collapse g)) (unK_pkK f)
theorem gmsk (f : FK) : Statement (.gmsk f) := by
  rintro _ ⟨⟩; exact congrArg (fun g => some (Instr.gmsk g)) (unK_pkK f)
theorem gstp (f : FK) : Statement (.gstp f) := by
  rintro _ ⟨⟩; exact congrArg (fun g => some (Instr.gstp g)) (unK_pkK f)
theorem vtxt (f : FW) : Statement (.vtxt f) := by
  rintro _ ⟨⟩; exact congrArg (fun g => some (Instr.vtxt g)) (unW_pkW f)
theorem stopStr (f : FK) : Statement (.stopStr f) := by
  rintro _ ⟨⟩; exact congrArg (fun g => some (Instr.stopStr g)) (unK_pkK f)
theorem plog (f : FK) : Statement (.plog f) := by
  rintro _ ⟨⟩; exact congrArg (fun g => some (Instr.plog g)) (unK_pkK f)
theorem phsh (f : FW) : Statement (.phsh f) := by
  rintro _ ⟨⟩; exact congrArg (fun g => some (Instr.phsh g)) (unW_pkW f)
theorem prpl (f : FK) : Statement (.prpl f) := by
  rintro _ ⟨⟩; exact congrArg (fun g => some (Instr.prpl g)) (unK_pkK f)
theorem trap (f : FK) : Statement (.trap f) := by
  rintro _ ⟨⟩; exact congrArg (fun g => some (Instr.trap g)) (unK_pkK f)
theorem idnt (f : FK) : Statement (.idnt f) := by
  rintro _ ⟨⟩; exact congrArg (fun g => some (Instr.idnt g)) (unK_pkK f)
theorem time (f : FK) : Statement (.time f) := by
  rintro _ ⟨⟩; exact congrArg (fun g => some (Instr.time g)) (unK_pkK f)
theorem pmcf (f : FK) : Statement (.pmcf f) := by
  rintro _ ⟨⟩; exact congrArg (fun g => some (Instr.pmcf g)) (unK_pkK f)
theorem pmrd (f : FK) : Statement (.pmrd f) := by
  rintro _ ⟨⟩; exact congrArg (fun g => some (Instr.pmrd g)) (unK_pkK f)
theorem pmwr (f : FK) : Statement (.pmwr f) := by
  rintro _ ⟨⟩; exact congrArg (fun g => some (Instr.pmwr g)) (unK_pkK f)
theorem rngs (f : FK) : Statement (.rngs f) := by
  rintro _ ⟨⟩; exact congrArg (fun g => some (Instr.rngs g)) (unK_pkK f)
theorem cfgr (f : FK) : Statement (.cfgr f) := by
  rintro _ ⟨⟩; exact congrArg (fun g => some (Instr.cfgr g)) (unK_pkK f)
theorem dbrk (f : FK) : Statement (.dbrk f) := by
  rintro _ ⟨⟩; exact congrArg (fun g => some (Instr.dbrk g)) (unK_pkK f)
theorem fltm (f : FK) : Statement (.fltm f) := by
  rintro _ ⟨⟩; exact congrArg (fun g => some (Instr.fltm g)) (unK_pkK f)
theorem sigq (f : FK) : Statement (.sigq f) := by
  rintro _ ⟨⟩; exact congrArg (fun g => some (Instr.sigq g)) (unK_pkK f)
theorem softError (kind : Nat) (loc : Nat) (uncorrectable : Bool) : Statement (.softError kind loc uncorrectable) := by
  rintro _ ⟨⟩
theorem unknownKind (h : MsgHdr) (kind : Byte) : Statement (.unknownKind h kind) := by
  rintro _ ⟨⟩
theorem hostWriteFailed (func : Nat) (ltag : Word) : Statement (.hostWriteFailed func ltag) := by
  rintro _ ⟨⟩
theorem prefixEntryReclaim (func : Nat) (idx : Nat) : Statement (.prefixEntryReclaim func idx) := by
  rintro _ ⟨⟩
theorem retireDone : Statement .retireDone := by
  rintro _ ⟨⟩
theorem deviceMessageSend : Statement .deviceMessageSend := by
  rintro _ ⟨⟩
theorem rstctlWarmReset : Statement .rstctlWarmReset := by
  rintro _ ⟨⟩
theorem rstctlColdReset : Statement .rstctlColdReset := by
  rintro _ ⟨⟩
theorem powerOn : Statement .powerOn := by
  rintro _ ⟨⟩
theorem nmpctlHoldSet : Statement .nmpctlHoldSet := by
  rintro _ ⟨⟩
theorem holdEstablished : Statement .holdEstablished := by
  rintro _ ⟨⟩
theorem nmpctlResync : Statement .nmpctlResync := by
  rintro _ ⟨⟩
theorem nmpctlHoldRelease : Statement .nmpctlHoldRelease := by
  rintro _ ⟨⟩
theorem nmpctlResend : Statement .nmpctlResend := by
  rintro _ ⟨⟩
theorem resendStart : Statement .resendStart := by
  rintro _ ⟨⟩
theorem adderElement : Statement .adderElement := by
  rintro _ ⟨⟩
theorem thermalTrip : Statement .thermalTrip := by
  rintro _ ⟨⟩
theorem firmwareFatal : Statement .firmwareFatal := by
  rintro _ ⟨⟩
theorem bankWakeDone : Statement .bankWakeDone := by
  rintro _ ⟨⟩
theorem fabricLoadBind : Statement .fabricLoadBind := by
  rintro _ ⟨⟩
theorem bindComplete : Statement .bindComplete := by
  rintro _ ⟨⟩
theorem yieldSaveDone : Statement .yieldSaveDone := by
  rintro _ ⟨⟩
theorem spanWrap : Statement .spanWrap := by
  rintro _ ⟨⟩
theorem scheduleSwitchEnd : Statement .scheduleSwitchEnd := by
  rintro _ ⟨⟩
theorem roundBoundary : Statement .roundBoundary := by
  rintro _ ⟨⟩
theorem roundStart : Statement .roundStart := by
  rintro _ ⟨⟩
theorem roundCommit : Statement .roundCommit := by
  rintro _ ⟨⟩
theorem commitEpochPerform : Statement .commitEpochPerform := by
  rintro _ ⟨⟩
theorem roundLimitExpiry : Statement .roundLimitExpiry := by
  rintro _ ⟨⟩
theorem replayStart : Statement .replayStart := by
  rintro _ ⟨⟩
theorem windowClose : Statement .windowClose := by
  rintro _ ⟨⟩
theorem freezeBoundExpiry : Statement .freezeBoundExpiry := by
  rintro _ ⟨⟩
theorem windowedResultArrival : Statement .windowedResultArrival := by
  rintro _ ⟨⟩
theorem freezeRelease : Statement .freezeRelease := by
  rintro _ ⟨⟩
theorem tokenArrival : Statement .tokenArrival := by
  rintro _ ⟨⟩
theorem handlerTokenArrival : Statement .handlerTokenArrival := by
  rintro _ ⟨⟩
theorem handlerWriteEffect : Statement .handlerWriteEffect := by
  rintro _ ⟨⟩
theorem keystoneArrival : Statement .keystoneArrival := by
  rintro _ ⟨⟩
theorem keystonePass : Statement .keystonePass := by
  rintro _ ⟨⟩
theorem barrierArrival : Statement .barrierArrival := by
  rintro _ ⟨⟩
theorem debugBreakTimeout : Statement .debugBreakTimeout := by
  rintro _ ⟨⟩
theorem streamReadReply : Statement .streamReadReply := by
  rintro _ ⟨⟩
theorem heprBeatFetch : Statement .heprBeatFetch := by
  rintro _ ⟨⟩
theorem rmwPerform : Statement .rmwPerform := by
  rintro _ ⟨⟩
theorem rmwReturn : Statement .rmwReturn := by
  rintro _ ⟨⟩
theorem copyComplete : Statement .copyComplete := by
  rintro _ ⟨⟩
theorem slotPortEffect : Statement .slotPortEffect := by
  rintro _ ⟨⟩
theorem nodeOperationLand : Statement .nodeOperationLand := by
  rintro _ ⟨⟩
theorem softTokenComplete : Statement .softTokenComplete := by
  rintro _ ⟨⟩
theorem foldComplete : Statement .foldComplete := by
  rintro _ ⟨⟩
theorem nop : Statement .nop := by
  rintro _ ⟨⟩; rfl
theorem halts : Statement .halts := by
  rintro _ ⟨⟩; rfl
theorem endp : Statement .endp := by
  rintro _ ⟨⟩; rfl
theorem keys : Statement .keys := by
  rintro _ ⟨⟩; rfl
theorem halt : Statement .halt := by
  rintro _ ⟨⟩; rfl
theorem firmwareInitiatedReset : Statement .firmwareInitiatedReset := by
  rintro _ ⟨⟩
theorem passThrough : Statement .passThrough := by
  rintro _ ⟨⟩

end Sys2Proof.Laws.RoundTrip
end

