-- ==== Sys2Proof/Laws/Tables.lean ====
section
/-! SUPPORT. The laws of tables: what a key reads after each operation. -/

namespace Sys2Proof.Machine

variable {α : Type}

@[simp] theorem Tbl.get_nil (d : α) (k : Nat) : Tbl.get d [] k = d := rfl
@[simp] theorem Tbl.find_nil (k : Nat) : Tbl.find ([] : Tbl α) k = none := rfl

@[simp] theorem Tbl.get_set_self (d v : α) (t : Tbl α) (k : Nat) : (t.set k v).get d k = v := by
  induction t with
  | nil => simp [Tbl.set, Tbl.get]
  | cons p t ih => obtain ⟨a, b⟩ := p; by_cases h : a = k <;> simp [Tbl.set, Tbl.get, h, ih]

theorem Tbl.get_set_of_ne (d v : α) (t : Tbl α) {k j : Nat} (h : k ≠ j) : (t.set k v).get d j = t.get d j := by
  induction t with
  | nil => simp [Tbl.set, Tbl.get, h]
  | cons p t ih =>
    obtain ⟨a, b⟩ := p
    by_cases ha : a = k
    · subst ha; simp [Tbl.set, Tbl.get, h]
    · by_cases hj : a = j
      · subst hj; simp [Tbl.set, Tbl.get, ha]
      · simp [Tbl.set, Tbl.get, ha, hj, ih]

theorem Tbl.get_set (d v : α) (t : Tbl α) (k j : Nat) : (t.set k v).get d j = if k = j then v else t.get d j := by
  by_cases h : k = j
  · subst h; simp
  · simp [h, Tbl.get_set_of_ne]

@[simp] theorem Tbl.find_set_self (v : α) (t : Tbl α) (k : Nat) : (t.set k v).find k = some v := by
  induction t with
  | nil => simp [Tbl.set, Tbl.find]
  | cons p t ih => obtain ⟨a, b⟩ := p; by_cases h : a = k <;> simp [Tbl.set, Tbl.find, h, ih]

theorem Tbl.find_set_of_ne (v : α) (t : Tbl α) {k j : Nat} (h : k ≠ j) : (t.set k v).find j = t.find j := by
  induction t with
  | nil => simp [Tbl.set, Tbl.find, h]
  | cons p t ih =>
    obtain ⟨a, b⟩ := p
    by_cases ha : a = k
    · subst ha; simp [Tbl.set, Tbl.find, h]
    · by_cases hj : a = j
      · subst hj; simp [Tbl.set, Tbl.find, ha]
      · simp [Tbl.set, Tbl.find, ha, hj, ih]

/-- The default read and the listed value of a key agree. -/
theorem Tbl.get_eq_find (d : α) (t : Tbl α) (k : Nat) : t.get d k = (t.find k).getD d := by
  induction t with
  | nil => rfl
  | cons p t ih => obtain ⟨a, b⟩ := p; by_cases h : a = k <;> simp [Tbl.get, Tbl.find, h, ih]

theorem Tbl.find_modify (t : Tbl α) (k j : Nat) (f : α → α) :
    (t.modify k f).find j = if k = j then (t.find j).map f else t.find j := by
  induction t with
  | nil => simp [Tbl.modify, Tbl.find]
  | cons p t ih =>
    obtain ⟨a, b⟩ := p
    by_cases ha : a = k
    · subst ha; by_cases hj : a = j <;> simp [Tbl.modify, Tbl.find, hj]
    · by_cases hk : k = j
      · subst hk; simp [Tbl.modify, Tbl.find, ha, ih]
      · by_cases hj : a = j
        · subst hj; simp [Tbl.modify, Tbl.find, ha, hk]
        · simp [Tbl.modify, Tbl.find, ha, hj, hk, ih]

@[simp] theorem Tbl.find_modify_self (t : Tbl α) (k : Nat) (f : α → α) : (t.modify k f).find k = (t.find k).map f := by
  simp [Tbl.find_modify]

theorem Tbl.find_modify_of_ne (t : Tbl α) {k j : Nat} (f : α → α) (h : k ≠ j) : (t.modify k f).find j = t.find j := by
  simp [Tbl.find_modify, h]

theorem Tbl.find_del (t : Tbl α) (k j : Nat) : (t.del k).find j = if k = j then none else t.find j := by
  induction t with
  | nil => simp [Tbl.del, Tbl.find]
  | cons p t ih =>
    obtain ⟨a, b⟩ := p
    by_cases ha : a = k
    · subst ha
      by_cases hj : a = j
      · subst hj; simp [Tbl.del, ih]
      · simp [Tbl.del, Tbl.find, hj, ih]
    · by_cases hj : a = j
      · subst hj
        have hk : ¬ k = a := fun h => ha h.symm
        simp [Tbl.del, Tbl.find, ha, hk]
      · simp [Tbl.del, Tbl.find, ha, hj, ih]

end Sys2Proof.Machine
end

