-- ==== Sys2Proof/Laws/Regions.lean ====
section
/-! SUPPORT. The laws of a change to the region in focus: what it reads afterwards, and that nothing else differs. -/

namespace Sys2Proof.Machine

open Sys2Proof Sys2Proof.Safety

/-- A change to the region in focus changes that region alone. -/
theorem State.modR_only (s : State) (f : Region → Region) : OnlyRegion s (s.modR f) := by
  refine ⟨rfl, fun r hr => ?_⟩
  simp [State.modR, State.modReg, Tbl.find_modify, Ne.symm hr]

/-- The region in focus after a change to it, where it is bound. -/
theorem State.modR_rg {s : State} (hb : Bound s) (f : Region → Region) : (s.modR f).rg = f s.rg := by
  unfold Bound at hb
  cases h : s.regions.find s.focus.r with
  | none => simp [h] at hb
  | some g => simp [State.rg, State.reg, State.modR, State.modReg, Tbl.get_eq_find, h]

/-- A change to the region in focus leaves it bound. -/
theorem State.modR_bound {s : State} (f : Region → Region) : Bound (s.modR f) ↔ Bound s := by
  simp [Bound, State.modR, State.modReg]

/-- A change to the running fabric changes nothing else. -/
theorem State.modNow_only {s : State} (hb : Bound s) (f : Fabric → Fabric) : OnlyFabric s (s.modNow f) :=
  ⟨State.modR_only s _, by rw [State.modNow, State.modR_rg hb]⟩

/-- The running fabric after a change to it, where the region is bound. -/
theorem State.modNow_now {s : State} (hb : Bound s) (f : Fabric → Fabric) : (s.modNow f).rg.now = f s.rg.now := by
  rw [State.modNow, State.modR_rg hb]

end Sys2Proof.Machine
end

