-- ==== Sys2Proof/Laws/State.lean ====
section
/-! SUPPORT. What each update of the state leaves as it was, one lemma per field. -/

namespace Sys2Proof.Machine

open Sys2Proof

variable (s : State)

@[simp] theorem State.modReg_cycle (r : Nat) (f : Region → Region) : (s.modReg r f).cycle = s.cycle := rfl
@[simp] theorem State.modReg_phase (r : Nat) (f : Region → Region) : (s.modReg r f).phase = s.phase := rfl
@[simp] theorem State.modReg_ready (r : Nat) (f : Region → Region) : (s.modReg r f).ready = s.ready := rfl
@[simp] theorem State.modReg_agenda (r : Nat) (f : Region → Region) : (s.modReg r f).agenda = s.agenda := rfl
@[simp] theorem State.modReg_timers (r : Nat) (f : Region → Region) : (s.modReg r f).timers = s.timers := rfl
@[simp] theorem State.modReg_focus (r : Nat) (f : Region → Region) : (s.modReg r f).focus = s.focus := rfl
@[simp] theorem State.modReg_lats (r : Nat) (f : Region → Region) : (s.modReg r f).lats = s.lats := rfl
@[simp] theorem State.modReg_latDefault (r : Nat) (f : Region → Region) : (s.modReg r f).latDefault = s.latDefault := rfl
@[simp] theorem State.modReg_nsPer (r : Nat) (f : Region → Region) : (s.modReg r f).nsPer = s.nsPer := rfl
@[simp] theorem State.modReg_nextId (r : Nat) (f : Region → Region) : (s.modReg r f).nextId = s.nextId := rfl
@[simp] theorem State.modReg_rstCause (r : Nat) (f : Region → Region) : (s.modReg r f).rstCause = s.rstCause := rfl
@[simp] theorem State.modReg_viral (r : Nat) (f : Region → Region) : (s.modReg r f).viral = s.viral := rfl
@[simp] theorem State.modReg_viralCause (r : Nat) (f : Region → Region) : (s.modReg r f).viralCause = s.viralCause := rfl
@[simp] theorem State.modReg_held (r : Nat) (f : Region → Region) : (s.modReg r f).held = s.held := rfl
@[simp] theorem State.modReg_resetPend (r : Nat) (f : Region → Region) : (s.modReg r f).resetPend = s.resetPend := rfl
@[simp] theorem State.modReg_hlmod (r : Nat) (f : Region → Region) : (s.modReg r f).hlmod = s.hlmod := rfl
@[simp] theorem State.modReg_eccc (r : Nat) (f : Region → Region) : (s.modReg r f).eccc = s.eccc := rfl
@[simp] theorem State.modReg_eccu (r : Nat) (f : Region → Region) : (s.modReg r f).eccu = s.eccu := rfl
@[simp] theorem State.modReg_eccloc (r : Nat) (f : Region → Region) : (s.modReg r f).eccloc = s.eccloc := rfl
@[simp] theorem State.modReg_ns (r : Nat) (f : Region → Region) : (s.modReg r f).ns = s.ns := rfl
@[simp] theorem State.modReg_nsTenth (r : Nat) (f : Region → Region) : (s.modReg r f).nsTenth = s.nsTenth := rfl
@[simp] theorem State.modReg_dies (r : Nat) (f : Region → Region) : (s.modReg r f).dies = s.dies := rfl
@[simp] theorem State.modReg_ports (r : Nat) (f : Region → Region) : (s.modReg r f).ports = s.ports := rfl
@[simp] theorem State.modReg_nmp (r : Nat) (f : Region → Region) : (s.modReg r f).nmp = s.nmp := rfl
@[simp] theorem State.modReg_mgmt (r : Nat) (f : Region → Region) : (s.modReg r f).mgmt = s.mgmt := rfl
@[simp] theorem State.modReg_bundle (r : Nat) (f : Region → Region) : (s.modReg r f).bundle = s.bundle := rfl
@[simp] theorem State.modReg_bootKeys (r : Nat) (f : Region → Region) : (s.modReg r f).bootKeys = s.bootKeys := rfl
@[simp] theorem State.modReg_tenants (r : Nat) (f : Region → Region) : (s.modReg r f).tenants = s.tenants := rfl
@[simp] theorem State.modReg_bufs (r : Nat) (f : Region → Region) : (s.modReg r f).bufs = s.bufs := rfl
@[simp] theorem State.modReg_items (r : Nat) (f : Region → Region) : (s.modReg r f).items = s.items := rfl
@[simp] theorem State.modReg_chosen (r : Nat) (f : Region → Region) : (s.modReg r f).chosen = s.chosen := rfl
@[simp] theorem State.modReg_choicePend (r : Nat) (f : Region → Region) : (s.modReg r f).choicePend = s.choicePend := rfl
@[simp] theorem State.modReg_served (r : Nat) (f : Region → Region) : (s.modReg r f).served = s.served := rfl
@[simp] theorem State.modReg_retired (r : Nat) (f : Region → Region) : (s.modReg r f).retired = s.retired := rfl
@[simp] theorem State.modReg_retiredMem (r : Nat) (f : Region → Region) : (s.modReg r f).retiredMem = s.retiredMem := rfl
@[simp] theorem State.modReg_coh (r : Nat) (f : Region → Region) : (s.modReg r f).coh = s.coh := rfl
@[simp] theorem State.modReg_dram (r : Nat) (f : Region → Region) : (s.modReg r f).dram = s.dram := rfl
@[simp] theorem State.modReg_host (r : Nat) (f : Region → Region) : (s.modReg r f).host = s.host := rfl
@[simp] theorem State.modReg_poison (r : Nat) (f : Region → Region) : (s.modReg r f).poison = s.poison := rfl
@[simp] theorem State.modReg_l2 (r : Nat) (f : Region → Region) : (s.modReg r f).l2 = s.l2 := rfl
@[simp] theorem State.modReg_slices (r : Nat) (f : Region → Region) : (s.modReg r f).slices = s.slices := rfl
@[simp] theorem State.modReg_gatedWays (r : Nat) (f : Region → Region) : (s.modReg r f).gatedWays = s.gatedWays := rfl
@[simp] theorem State.modReg_hot (r : Nat) (f : Region → Region) : (s.modReg r f).hot = s.hot := rfl
@[simp] theorem State.modReg_rows (r : Nat) (f : Region → Region) : (s.modReg r f).rows = s.rows := rfl
@[simp] theorem State.modReg_openRows (r : Nat) (f : Region → Region) : (s.modReg r f).openRows = s.openRows := rfl
@[simp] theorem State.modReg_ranges (r : Nat) (f : Region → Region) : (s.modReg r f).ranges = s.ranges := rfl
@[simp] theorem State.modReg_ntlb (r : Nat) (f : Region → Region) : (s.modReg r f).ntlb = s.ntlb := rfl
@[simp] theorem State.modReg_walks (r : Nat) (f : Region → Region) : (s.modReg r f).walks = s.walks := rfl
@[simp] theorem State.modReg_hostDead (r : Nat) (f : Region → Region) : (s.modReg r f).hostDead = s.hostDead := rfl
@[simp] theorem State.modReg_upsets (r : Nat) (f : Region → Region) : (s.modReg r f).upsets = s.upsets := rfl
@[simp] theorem State.modReg_vcache (r : Nat) (f : Region → Region) : (s.modReg r f).vcache = s.vcache := rfl
@[simp] theorem State.modReg_wheel (r : Nat) (f : Region → Region) : (s.modReg r f).wheel = s.wheel := rfl
@[simp] theorem State.modReg_left (r : Nat) (f : Region → Region) : (s.modReg r f).left = s.left := rfl

@[simp] theorem State.modTenant_cycle (n : Nat) (f : Tenant → Tenant) : (s.modTenant n f).cycle = s.cycle := rfl
@[simp] theorem State.modTenant_phase (n : Nat) (f : Tenant → Tenant) : (s.modTenant n f).phase = s.phase := rfl
@[simp] theorem State.modTenant_ready (n : Nat) (f : Tenant → Tenant) : (s.modTenant n f).ready = s.ready := rfl
@[simp] theorem State.modTenant_agenda (n : Nat) (f : Tenant → Tenant) : (s.modTenant n f).agenda = s.agenda := rfl
@[simp] theorem State.modTenant_timers (n : Nat) (f : Tenant → Tenant) : (s.modTenant n f).timers = s.timers := rfl
@[simp] theorem State.modTenant_focus (n : Nat) (f : Tenant → Tenant) : (s.modTenant n f).focus = s.focus := rfl
@[simp] theorem State.modTenant_lats (n : Nat) (f : Tenant → Tenant) : (s.modTenant n f).lats = s.lats := rfl
@[simp] theorem State.modTenant_latDefault (n : Nat) (f : Tenant → Tenant) : (s.modTenant n f).latDefault = s.latDefault := rfl
@[simp] theorem State.modTenant_nsPer (n : Nat) (f : Tenant → Tenant) : (s.modTenant n f).nsPer = s.nsPer := rfl
@[simp] theorem State.modTenant_nextId (n : Nat) (f : Tenant → Tenant) : (s.modTenant n f).nextId = s.nextId := rfl
@[simp] theorem State.modTenant_rstCause (n : Nat) (f : Tenant → Tenant) : (s.modTenant n f).rstCause = s.rstCause := rfl
@[simp] theorem State.modTenant_viral (n : Nat) (f : Tenant → Tenant) : (s.modTenant n f).viral = s.viral := rfl
@[simp] theorem State.modTenant_viralCause (n : Nat) (f : Tenant → Tenant) : (s.modTenant n f).viralCause = s.viralCause := rfl
@[simp] theorem State.modTenant_held (n : Nat) (f : Tenant → Tenant) : (s.modTenant n f).held = s.held := rfl
@[simp] theorem State.modTenant_resetPend (n : Nat) (f : Tenant → Tenant) : (s.modTenant n f).resetPend = s.resetPend := rfl
@[simp] theorem State.modTenant_hlmod (n : Nat) (f : Tenant → Tenant) : (s.modTenant n f).hlmod = s.hlmod := rfl
@[simp] theorem State.modTenant_eccc (n : Nat) (f : Tenant → Tenant) : (s.modTenant n f).eccc = s.eccc := rfl
@[simp] theorem State.modTenant_eccu (n : Nat) (f : Tenant → Tenant) : (s.modTenant n f).eccu = s.eccu := rfl
@[simp] theorem State.modTenant_eccloc (n : Nat) (f : Tenant → Tenant) : (s.modTenant n f).eccloc = s.eccloc := rfl
@[simp] theorem State.modTenant_ns (n : Nat) (f : Tenant → Tenant) : (s.modTenant n f).ns = s.ns := rfl
@[simp] theorem State.modTenant_nsTenth (n : Nat) (f : Tenant → Tenant) : (s.modTenant n f).nsTenth = s.nsTenth := rfl
@[simp] theorem State.modTenant_dies (n : Nat) (f : Tenant → Tenant) : (s.modTenant n f).dies = s.dies := rfl
@[simp] theorem State.modTenant_ports (n : Nat) (f : Tenant → Tenant) : (s.modTenant n f).ports = s.ports := rfl
@[simp] theorem State.modTenant_nmp (n : Nat) (f : Tenant → Tenant) : (s.modTenant n f).nmp = s.nmp := rfl
@[simp] theorem State.modTenant_mgmt (n : Nat) (f : Tenant → Tenant) : (s.modTenant n f).mgmt = s.mgmt := rfl
@[simp] theorem State.modTenant_bundle (n : Nat) (f : Tenant → Tenant) : (s.modTenant n f).bundle = s.bundle := rfl
@[simp] theorem State.modTenant_bootKeys (n : Nat) (f : Tenant → Tenant) : (s.modTenant n f).bootKeys = s.bootKeys := rfl
@[simp] theorem State.modTenant_bufs (n : Nat) (f : Tenant → Tenant) : (s.modTenant n f).bufs = s.bufs := rfl
@[simp] theorem State.modTenant_items (n : Nat) (f : Tenant → Tenant) : (s.modTenant n f).items = s.items := rfl
@[simp] theorem State.modTenant_chosen (n : Nat) (f : Tenant → Tenant) : (s.modTenant n f).chosen = s.chosen := rfl
@[simp] theorem State.modTenant_choicePend (n : Nat) (f : Tenant → Tenant) : (s.modTenant n f).choicePend = s.choicePend := rfl
@[simp] theorem State.modTenant_served (n : Nat) (f : Tenant → Tenant) : (s.modTenant n f).served = s.served := rfl
@[simp] theorem State.modTenant_regions (n : Nat) (f : Tenant → Tenant) : (s.modTenant n f).regions = s.regions := rfl
@[simp] theorem State.modTenant_retired (n : Nat) (f : Tenant → Tenant) : (s.modTenant n f).retired = s.retired := rfl
@[simp] theorem State.modTenant_retiredMem (n : Nat) (f : Tenant → Tenant) : (s.modTenant n f).retiredMem = s.retiredMem := rfl
@[simp] theorem State.modTenant_coh (n : Nat) (f : Tenant → Tenant) : (s.modTenant n f).coh = s.coh := rfl
@[simp] theorem State.modTenant_dram (n : Nat) (f : Tenant → Tenant) : (s.modTenant n f).dram = s.dram := rfl
@[simp] theorem State.modTenant_host (n : Nat) (f : Tenant → Tenant) : (s.modTenant n f).host = s.host := rfl
@[simp] theorem State.modTenant_poison (n : Nat) (f : Tenant → Tenant) : (s.modTenant n f).poison = s.poison := rfl
@[simp] theorem State.modTenant_l2 (n : Nat) (f : Tenant → Tenant) : (s.modTenant n f).l2 = s.l2 := rfl
@[simp] theorem State.modTenant_slices (n : Nat) (f : Tenant → Tenant) : (s.modTenant n f).slices = s.slices := rfl
@[simp] theorem State.modTenant_gatedWays (n : Nat) (f : Tenant → Tenant) : (s.modTenant n f).gatedWays = s.gatedWays := rfl
@[simp] theorem State.modTenant_hot (n : Nat) (f : Tenant → Tenant) : (s.modTenant n f).hot = s.hot := rfl
@[simp] theorem State.modTenant_rows (n : Nat) (f : Tenant → Tenant) : (s.modTenant n f).rows = s.rows := rfl
@[simp] theorem State.modTenant_openRows (n : Nat) (f : Tenant → Tenant) : (s.modTenant n f).openRows = s.openRows := rfl
@[simp] theorem State.modTenant_ranges (n : Nat) (f : Tenant → Tenant) : (s.modTenant n f).ranges = s.ranges := rfl
@[simp] theorem State.modTenant_ntlb (n : Nat) (f : Tenant → Tenant) : (s.modTenant n f).ntlb = s.ntlb := rfl
@[simp] theorem State.modTenant_walks (n : Nat) (f : Tenant → Tenant) : (s.modTenant n f).walks = s.walks := rfl
@[simp] theorem State.modTenant_hostDead (n : Nat) (f : Tenant → Tenant) : (s.modTenant n f).hostDead = s.hostDead := rfl
@[simp] theorem State.modTenant_upsets (n : Nat) (f : Tenant → Tenant) : (s.modTenant n f).upsets = s.upsets := rfl
@[simp] theorem State.modTenant_vcache (n : Nat) (f : Tenant → Tenant) : (s.modTenant n f).vcache = s.vcache := rfl
@[simp] theorem State.modTenant_wheel (n : Nat) (f : Tenant → Tenant) : (s.modTenant n f).wheel = s.wheel := rfl
@[simp] theorem State.modTenant_left (n : Nat) (f : Tenant → Tenant) : (s.modTenant n f).left = s.left := rfl

@[simp] theorem State.modR_cycle (f : Region → Region) : (s.modR f).cycle = s.cycle := rfl
@[simp] theorem State.modR_phase (f : Region → Region) : (s.modR f).phase = s.phase := rfl
@[simp] theorem State.modR_ready (f : Region → Region) : (s.modR f).ready = s.ready := rfl
@[simp] theorem State.modR_agenda (f : Region → Region) : (s.modR f).agenda = s.agenda := rfl
@[simp] theorem State.modR_timers (f : Region → Region) : (s.modR f).timers = s.timers := rfl
@[simp] theorem State.modR_focus (f : Region → Region) : (s.modR f).focus = s.focus := rfl
@[simp] theorem State.modR_lats (f : Region → Region) : (s.modR f).lats = s.lats := rfl
@[simp] theorem State.modR_latDefault (f : Region → Region) : (s.modR f).latDefault = s.latDefault := rfl
@[simp] theorem State.modR_nsPer (f : Region → Region) : (s.modR f).nsPer = s.nsPer := rfl
@[simp] theorem State.modR_nextId (f : Region → Region) : (s.modR f).nextId = s.nextId := rfl
@[simp] theorem State.modR_rstCause (f : Region → Region) : (s.modR f).rstCause = s.rstCause := rfl
@[simp] theorem State.modR_viral (f : Region → Region) : (s.modR f).viral = s.viral := rfl
@[simp] theorem State.modR_viralCause (f : Region → Region) : (s.modR f).viralCause = s.viralCause := rfl
@[simp] theorem State.modR_held (f : Region → Region) : (s.modR f).held = s.held := rfl
@[simp] theorem State.modR_resetPend (f : Region → Region) : (s.modR f).resetPend = s.resetPend := rfl
@[simp] theorem State.modR_hlmod (f : Region → Region) : (s.modR f).hlmod = s.hlmod := rfl
@[simp] theorem State.modR_eccc (f : Region → Region) : (s.modR f).eccc = s.eccc := rfl
@[simp] theorem State.modR_eccu (f : Region → Region) : (s.modR f).eccu = s.eccu := rfl
@[simp] theorem State.modR_eccloc (f : Region → Region) : (s.modR f).eccloc = s.eccloc := rfl
@[simp] theorem State.modR_ns (f : Region → Region) : (s.modR f).ns = s.ns := rfl
@[simp] theorem State.modR_nsTenth (f : Region → Region) : (s.modR f).nsTenth = s.nsTenth := rfl
@[simp] theorem State.modR_dies (f : Region → Region) : (s.modR f).dies = s.dies := rfl
@[simp] theorem State.modR_ports (f : Region → Region) : (s.modR f).ports = s.ports := rfl
@[simp] theorem State.modR_nmp (f : Region → Region) : (s.modR f).nmp = s.nmp := rfl
@[simp] theorem State.modR_mgmt (f : Region → Region) : (s.modR f).mgmt = s.mgmt := rfl
@[simp] theorem State.modR_bundle (f : Region → Region) : (s.modR f).bundle = s.bundle := rfl
@[simp] theorem State.modR_bootKeys (f : Region → Region) : (s.modR f).bootKeys = s.bootKeys := rfl
@[simp] theorem State.modR_tenants (f : Region → Region) : (s.modR f).tenants = s.tenants := rfl
@[simp] theorem State.modR_bufs (f : Region → Region) : (s.modR f).bufs = s.bufs := rfl
@[simp] theorem State.modR_items (f : Region → Region) : (s.modR f).items = s.items := rfl
@[simp] theorem State.modR_chosen (f : Region → Region) : (s.modR f).chosen = s.chosen := rfl
@[simp] theorem State.modR_choicePend (f : Region → Region) : (s.modR f).choicePend = s.choicePend := rfl
@[simp] theorem State.modR_served (f : Region → Region) : (s.modR f).served = s.served := rfl
@[simp] theorem State.modR_retired (f : Region → Region) : (s.modR f).retired = s.retired := rfl
@[simp] theorem State.modR_retiredMem (f : Region → Region) : (s.modR f).retiredMem = s.retiredMem := rfl
@[simp] theorem State.modR_coh (f : Region → Region) : (s.modR f).coh = s.coh := rfl
@[simp] theorem State.modR_dram (f : Region → Region) : (s.modR f).dram = s.dram := rfl
@[simp] theorem State.modR_host (f : Region → Region) : (s.modR f).host = s.host := rfl
@[simp] theorem State.modR_poison (f : Region → Region) : (s.modR f).poison = s.poison := rfl
@[simp] theorem State.modR_l2 (f : Region → Region) : (s.modR f).l2 = s.l2 := rfl
@[simp] theorem State.modR_slices (f : Region → Region) : (s.modR f).slices = s.slices := rfl
@[simp] theorem State.modR_gatedWays (f : Region → Region) : (s.modR f).gatedWays = s.gatedWays := rfl
@[simp] theorem State.modR_hot (f : Region → Region) : (s.modR f).hot = s.hot := rfl
@[simp] theorem State.modR_rows (f : Region → Region) : (s.modR f).rows = s.rows := rfl
@[simp] theorem State.modR_openRows (f : Region → Region) : (s.modR f).openRows = s.openRows := rfl
@[simp] theorem State.modR_ranges (f : Region → Region) : (s.modR f).ranges = s.ranges := rfl
@[simp] theorem State.modR_ntlb (f : Region → Region) : (s.modR f).ntlb = s.ntlb := rfl
@[simp] theorem State.modR_walks (f : Region → Region) : (s.modR f).walks = s.walks := rfl
@[simp] theorem State.modR_hostDead (f : Region → Region) : (s.modR f).hostDead = s.hostDead := rfl
@[simp] theorem State.modR_upsets (f : Region → Region) : (s.modR f).upsets = s.upsets := rfl
@[simp] theorem State.modR_vcache (f : Region → Region) : (s.modR f).vcache = s.vcache := rfl
@[simp] theorem State.modR_wheel (f : Region → Region) : (s.modR f).wheel = s.wheel := rfl
@[simp] theorem State.modR_left (f : Region → Region) : (s.modR f).left = s.left := rfl

@[simp] theorem State.modNow_cycle (f : Fabric → Fabric) : (s.modNow f).cycle = s.cycle := rfl
@[simp] theorem State.modNow_phase (f : Fabric → Fabric) : (s.modNow f).phase = s.phase := rfl
@[simp] theorem State.modNow_ready (f : Fabric → Fabric) : (s.modNow f).ready = s.ready := rfl
@[simp] theorem State.modNow_agenda (f : Fabric → Fabric) : (s.modNow f).agenda = s.agenda := rfl
@[simp] theorem State.modNow_timers (f : Fabric → Fabric) : (s.modNow f).timers = s.timers := rfl
@[simp] theorem State.modNow_focus (f : Fabric → Fabric) : (s.modNow f).focus = s.focus := rfl
@[simp] theorem State.modNow_lats (f : Fabric → Fabric) : (s.modNow f).lats = s.lats := rfl
@[simp] theorem State.modNow_latDefault (f : Fabric → Fabric) : (s.modNow f).latDefault = s.latDefault := rfl
@[simp] theorem State.modNow_nsPer (f : Fabric → Fabric) : (s.modNow f).nsPer = s.nsPer := rfl
@[simp] theorem State.modNow_nextId (f : Fabric → Fabric) : (s.modNow f).nextId = s.nextId := rfl
@[simp] theorem State.modNow_rstCause (f : Fabric → Fabric) : (s.modNow f).rstCause = s.rstCause := rfl
@[simp] theorem State.modNow_viral (f : Fabric → Fabric) : (s.modNow f).viral = s.viral := rfl
@[simp] theorem State.modNow_viralCause (f : Fabric → Fabric) : (s.modNow f).viralCause = s.viralCause := rfl
@[simp] theorem State.modNow_held (f : Fabric → Fabric) : (s.modNow f).held = s.held := rfl
@[simp] theorem State.modNow_resetPend (f : Fabric → Fabric) : (s.modNow f).resetPend = s.resetPend := rfl
@[simp] theorem State.modNow_hlmod (f : Fabric → Fabric) : (s.modNow f).hlmod = s.hlmod := rfl
@[simp] theorem State.modNow_eccc (f : Fabric → Fabric) : (s.modNow f).eccc = s.eccc := rfl
@[simp] theorem State.modNow_eccu (f : Fabric → Fabric) : (s.modNow f).eccu = s.eccu := rfl
@[simp] theorem State.modNow_eccloc (f : Fabric → Fabric) : (s.modNow f).eccloc = s.eccloc := rfl
@[simp] theorem State.modNow_ns (f : Fabric → Fabric) : (s.modNow f).ns = s.ns := rfl
@[simp] theorem State.modNow_nsTenth (f : Fabric → Fabric) : (s.modNow f).nsTenth = s.nsTenth := rfl
@[simp] theorem State.modNow_dies (f : Fabric → Fabric) : (s.modNow f).dies = s.dies := rfl
@[simp] theorem State.modNow_ports (f : Fabric → Fabric) : (s.modNow f).ports = s.ports := rfl
@[simp] theorem State.modNow_nmp (f : Fabric → Fabric) : (s.modNow f).nmp = s.nmp := rfl
@[simp] theorem State.modNow_mgmt (f : Fabric → Fabric) : (s.modNow f).mgmt = s.mgmt := rfl
@[simp] theorem State.modNow_bundle (f : Fabric → Fabric) : (s.modNow f).bundle = s.bundle := rfl
@[simp] theorem State.modNow_bootKeys (f : Fabric → Fabric) : (s.modNow f).bootKeys = s.bootKeys := rfl
@[simp] theorem State.modNow_tenants (f : Fabric → Fabric) : (s.modNow f).tenants = s.tenants := rfl
@[simp] theorem State.modNow_bufs (f : Fabric → Fabric) : (s.modNow f).bufs = s.bufs := rfl
@[simp] theorem State.modNow_items (f : Fabric → Fabric) : (s.modNow f).items = s.items := rfl
@[simp] theorem State.modNow_chosen (f : Fabric → Fabric) : (s.modNow f).chosen = s.chosen := rfl
@[simp] theorem State.modNow_choicePend (f : Fabric → Fabric) : (s.modNow f).choicePend = s.choicePend := rfl
@[simp] theorem State.modNow_served (f : Fabric → Fabric) : (s.modNow f).served = s.served := rfl
@[simp] theorem State.modNow_retired (f : Fabric → Fabric) : (s.modNow f).retired = s.retired := rfl
@[simp] theorem State.modNow_retiredMem (f : Fabric → Fabric) : (s.modNow f).retiredMem = s.retiredMem := rfl
@[simp] theorem State.modNow_coh (f : Fabric → Fabric) : (s.modNow f).coh = s.coh := rfl
@[simp] theorem State.modNow_dram (f : Fabric → Fabric) : (s.modNow f).dram = s.dram := rfl
@[simp] theorem State.modNow_host (f : Fabric → Fabric) : (s.modNow f).host = s.host := rfl
@[simp] theorem State.modNow_poison (f : Fabric → Fabric) : (s.modNow f).poison = s.poison := rfl
@[simp] theorem State.modNow_l2 (f : Fabric → Fabric) : (s.modNow f).l2 = s.l2 := rfl
@[simp] theorem State.modNow_slices (f : Fabric → Fabric) : (s.modNow f).slices = s.slices := rfl
@[simp] theorem State.modNow_gatedWays (f : Fabric → Fabric) : (s.modNow f).gatedWays = s.gatedWays := rfl
@[simp] theorem State.modNow_hot (f : Fabric → Fabric) : (s.modNow f).hot = s.hot := rfl
@[simp] theorem State.modNow_rows (f : Fabric → Fabric) : (s.modNow f).rows = s.rows := rfl
@[simp] theorem State.modNow_openRows (f : Fabric → Fabric) : (s.modNow f).openRows = s.openRows := rfl
@[simp] theorem State.modNow_ranges (f : Fabric → Fabric) : (s.modNow f).ranges = s.ranges := rfl
@[simp] theorem State.modNow_ntlb (f : Fabric → Fabric) : (s.modNow f).ntlb = s.ntlb := rfl
@[simp] theorem State.modNow_walks (f : Fabric → Fabric) : (s.modNow f).walks = s.walks := rfl
@[simp] theorem State.modNow_hostDead (f : Fabric → Fabric) : (s.modNow f).hostDead = s.hostDead := rfl
@[simp] theorem State.modNow_upsets (f : Fabric → Fabric) : (s.modNow f).upsets = s.upsets := rfl
@[simp] theorem State.modNow_vcache (f : Fabric → Fabric) : (s.modNow f).vcache = s.vcache := rfl
@[simp] theorem State.modNow_wheel (f : Fabric → Fabric) : (s.modNow f).wheel = s.wheel := rfl
@[simp] theorem State.modNow_left (f : Fabric → Fabric) : (s.modNow f).left = s.left := rfl

@[simp] theorem State.modE_cycle (f : Elem → Elem) : (s.modE f).cycle = s.cycle := rfl
@[simp] theorem State.modE_phase (f : Elem → Elem) : (s.modE f).phase = s.phase := rfl
@[simp] theorem State.modE_ready (f : Elem → Elem) : (s.modE f).ready = s.ready := rfl
@[simp] theorem State.modE_agenda (f : Elem → Elem) : (s.modE f).agenda = s.agenda := rfl
@[simp] theorem State.modE_timers (f : Elem → Elem) : (s.modE f).timers = s.timers := rfl
@[simp] theorem State.modE_focus (f : Elem → Elem) : (s.modE f).focus = s.focus := rfl
@[simp] theorem State.modE_lats (f : Elem → Elem) : (s.modE f).lats = s.lats := rfl
@[simp] theorem State.modE_latDefault (f : Elem → Elem) : (s.modE f).latDefault = s.latDefault := rfl
@[simp] theorem State.modE_nsPer (f : Elem → Elem) : (s.modE f).nsPer = s.nsPer := rfl
@[simp] theorem State.modE_nextId (f : Elem → Elem) : (s.modE f).nextId = s.nextId := rfl
@[simp] theorem State.modE_rstCause (f : Elem → Elem) : (s.modE f).rstCause = s.rstCause := rfl
@[simp] theorem State.modE_viral (f : Elem → Elem) : (s.modE f).viral = s.viral := rfl
@[simp] theorem State.modE_viralCause (f : Elem → Elem) : (s.modE f).viralCause = s.viralCause := rfl
@[simp] theorem State.modE_held (f : Elem → Elem) : (s.modE f).held = s.held := rfl
@[simp] theorem State.modE_resetPend (f : Elem → Elem) : (s.modE f).resetPend = s.resetPend := rfl
@[simp] theorem State.modE_hlmod (f : Elem → Elem) : (s.modE f).hlmod = s.hlmod := rfl
@[simp] theorem State.modE_eccc (f : Elem → Elem) : (s.modE f).eccc = s.eccc := rfl
@[simp] theorem State.modE_eccu (f : Elem → Elem) : (s.modE f).eccu = s.eccu := rfl
@[simp] theorem State.modE_eccloc (f : Elem → Elem) : (s.modE f).eccloc = s.eccloc := rfl
@[simp] theorem State.modE_ns (f : Elem → Elem) : (s.modE f).ns = s.ns := rfl
@[simp] theorem State.modE_nsTenth (f : Elem → Elem) : (s.modE f).nsTenth = s.nsTenth := rfl
@[simp] theorem State.modE_dies (f : Elem → Elem) : (s.modE f).dies = s.dies := rfl
@[simp] theorem State.modE_ports (f : Elem → Elem) : (s.modE f).ports = s.ports := rfl
@[simp] theorem State.modE_nmp (f : Elem → Elem) : (s.modE f).nmp = s.nmp := rfl
@[simp] theorem State.modE_mgmt (f : Elem → Elem) : (s.modE f).mgmt = s.mgmt := rfl
@[simp] theorem State.modE_bundle (f : Elem → Elem) : (s.modE f).bundle = s.bundle := rfl
@[simp] theorem State.modE_bootKeys (f : Elem → Elem) : (s.modE f).bootKeys = s.bootKeys := rfl
@[simp] theorem State.modE_tenants (f : Elem → Elem) : (s.modE f).tenants = s.tenants := rfl
@[simp] theorem State.modE_bufs (f : Elem → Elem) : (s.modE f).bufs = s.bufs := rfl
@[simp] theorem State.modE_items (f : Elem → Elem) : (s.modE f).items = s.items := rfl
@[simp] theorem State.modE_chosen (f : Elem → Elem) : (s.modE f).chosen = s.chosen := rfl
@[simp] theorem State.modE_choicePend (f : Elem → Elem) : (s.modE f).choicePend = s.choicePend := rfl
@[simp] theorem State.modE_served (f : Elem → Elem) : (s.modE f).served = s.served := rfl
@[simp] theorem State.modE_retired (f : Elem → Elem) : (s.modE f).retired = s.retired := rfl
@[simp] theorem State.modE_retiredMem (f : Elem → Elem) : (s.modE f).retiredMem = s.retiredMem := rfl
@[simp] theorem State.modE_coh (f : Elem → Elem) : (s.modE f).coh = s.coh := rfl
@[simp] theorem State.modE_dram (f : Elem → Elem) : (s.modE f).dram = s.dram := rfl
@[simp] theorem State.modE_host (f : Elem → Elem) : (s.modE f).host = s.host := rfl
@[simp] theorem State.modE_poison (f : Elem → Elem) : (s.modE f).poison = s.poison := rfl
@[simp] theorem State.modE_l2 (f : Elem → Elem) : (s.modE f).l2 = s.l2 := rfl
@[simp] theorem State.modE_slices (f : Elem → Elem) : (s.modE f).slices = s.slices := rfl
@[simp] theorem State.modE_gatedWays (f : Elem → Elem) : (s.modE f).gatedWays = s.gatedWays := rfl
@[simp] theorem State.modE_hot (f : Elem → Elem) : (s.modE f).hot = s.hot := rfl
@[simp] theorem State.modE_rows (f : Elem → Elem) : (s.modE f).rows = s.rows := rfl
@[simp] theorem State.modE_openRows (f : Elem → Elem) : (s.modE f).openRows = s.openRows := rfl
@[simp] theorem State.modE_ranges (f : Elem → Elem) : (s.modE f).ranges = s.ranges := rfl
@[simp] theorem State.modE_ntlb (f : Elem → Elem) : (s.modE f).ntlb = s.ntlb := rfl
@[simp] theorem State.modE_walks (f : Elem → Elem) : (s.modE f).walks = s.walks := rfl
@[simp] theorem State.modE_hostDead (f : Elem → Elem) : (s.modE f).hostDead = s.hostDead := rfl
@[simp] theorem State.modE_upsets (f : Elem → Elem) : (s.modE f).upsets = s.upsets := rfl
@[simp] theorem State.modE_vcache (f : Elem → Elem) : (s.modE f).vcache = s.vcache := rfl
@[simp] theorem State.modE_wheel (f : Elem → Elem) : (s.modE f).wheel = s.wheel := rfl
@[simp] theorem State.modE_left (f : Elem → Elem) : (s.modE f).left = s.left := rfl

@[simp] theorem State.modEAt_cycle (a x y : Nat) (f : Elem → Elem) : (s.modEAt a x y f).cycle = s.cycle := rfl
@[simp] theorem State.modEAt_phase (a x y : Nat) (f : Elem → Elem) : (s.modEAt a x y f).phase = s.phase := rfl
@[simp] theorem State.modEAt_ready (a x y : Nat) (f : Elem → Elem) : (s.modEAt a x y f).ready = s.ready := rfl
@[simp] theorem State.modEAt_agenda (a x y : Nat) (f : Elem → Elem) : (s.modEAt a x y f).agenda = s.agenda := rfl
@[simp] theorem State.modEAt_timers (a x y : Nat) (f : Elem → Elem) : (s.modEAt a x y f).timers = s.timers := rfl
@[simp] theorem State.modEAt_focus (a x y : Nat) (f : Elem → Elem) : (s.modEAt a x y f).focus = s.focus := rfl
@[simp] theorem State.modEAt_lats (a x y : Nat) (f : Elem → Elem) : (s.modEAt a x y f).lats = s.lats := rfl
@[simp] theorem State.modEAt_latDefault (a x y : Nat) (f : Elem → Elem) : (s.modEAt a x y f).latDefault = s.latDefault := rfl
@[simp] theorem State.modEAt_nsPer (a x y : Nat) (f : Elem → Elem) : (s.modEAt a x y f).nsPer = s.nsPer := rfl
@[simp] theorem State.modEAt_nextId (a x y : Nat) (f : Elem → Elem) : (s.modEAt a x y f).nextId = s.nextId := rfl
@[simp] theorem State.modEAt_rstCause (a x y : Nat) (f : Elem → Elem) : (s.modEAt a x y f).rstCause = s.rstCause := rfl
@[simp] theorem State.modEAt_viral (a x y : Nat) (f : Elem → Elem) : (s.modEAt a x y f).viral = s.viral := rfl
@[simp] theorem State.modEAt_viralCause (a x y : Nat) (f : Elem → Elem) : (s.modEAt a x y f).viralCause = s.viralCause := rfl
@[simp] theorem State.modEAt_held (a x y : Nat) (f : Elem → Elem) : (s.modEAt a x y f).held = s.held := rfl
@[simp] theorem State.modEAt_resetPend (a x y : Nat) (f : Elem → Elem) : (s.modEAt a x y f).resetPend = s.resetPend := rfl
@[simp] theorem State.modEAt_hlmod (a x y : Nat) (f : Elem → Elem) : (s.modEAt a x y f).hlmod = s.hlmod := rfl
@[simp] theorem State.modEAt_eccc (a x y : Nat) (f : Elem → Elem) : (s.modEAt a x y f).eccc = s.eccc := rfl
@[simp] theorem State.modEAt_eccu (a x y : Nat) (f : Elem → Elem) : (s.modEAt a x y f).eccu = s.eccu := rfl
@[simp] theorem State.modEAt_eccloc (a x y : Nat) (f : Elem → Elem) : (s.modEAt a x y f).eccloc = s.eccloc := rfl
@[simp] theorem State.modEAt_ns (a x y : Nat) (f : Elem → Elem) : (s.modEAt a x y f).ns = s.ns := rfl
@[simp] theorem State.modEAt_nsTenth (a x y : Nat) (f : Elem → Elem) : (s.modEAt a x y f).nsTenth = s.nsTenth := rfl
@[simp] theorem State.modEAt_dies (a x y : Nat) (f : Elem → Elem) : (s.modEAt a x y f).dies = s.dies := rfl
@[simp] theorem State.modEAt_ports (a x y : Nat) (f : Elem → Elem) : (s.modEAt a x y f).ports = s.ports := rfl
@[simp] theorem State.modEAt_nmp (a x y : Nat) (f : Elem → Elem) : (s.modEAt a x y f).nmp = s.nmp := rfl
@[simp] theorem State.modEAt_mgmt (a x y : Nat) (f : Elem → Elem) : (s.modEAt a x y f).mgmt = s.mgmt := rfl
@[simp] theorem State.modEAt_bundle (a x y : Nat) (f : Elem → Elem) : (s.modEAt a x y f).bundle = s.bundle := rfl
@[simp] theorem State.modEAt_bootKeys (a x y : Nat) (f : Elem → Elem) : (s.modEAt a x y f).bootKeys = s.bootKeys := rfl
@[simp] theorem State.modEAt_tenants (a x y : Nat) (f : Elem → Elem) : (s.modEAt a x y f).tenants = s.tenants := rfl
@[simp] theorem State.modEAt_bufs (a x y : Nat) (f : Elem → Elem) : (s.modEAt a x y f).bufs = s.bufs := rfl
@[simp] theorem State.modEAt_items (a x y : Nat) (f : Elem → Elem) : (s.modEAt a x y f).items = s.items := rfl
@[simp] theorem State.modEAt_chosen (a x y : Nat) (f : Elem → Elem) : (s.modEAt a x y f).chosen = s.chosen := rfl
@[simp] theorem State.modEAt_choicePend (a x y : Nat) (f : Elem → Elem) : (s.modEAt a x y f).choicePend = s.choicePend := rfl
@[simp] theorem State.modEAt_served (a x y : Nat) (f : Elem → Elem) : (s.modEAt a x y f).served = s.served := rfl
@[simp] theorem State.modEAt_retired (a x y : Nat) (f : Elem → Elem) : (s.modEAt a x y f).retired = s.retired := rfl
@[simp] theorem State.modEAt_retiredMem (a x y : Nat) (f : Elem → Elem) : (s.modEAt a x y f).retiredMem = s.retiredMem := rfl
@[simp] theorem State.modEAt_coh (a x y : Nat) (f : Elem → Elem) : (s.modEAt a x y f).coh = s.coh := rfl
@[simp] theorem State.modEAt_dram (a x y : Nat) (f : Elem → Elem) : (s.modEAt a x y f).dram = s.dram := rfl
@[simp] theorem State.modEAt_host (a x y : Nat) (f : Elem → Elem) : (s.modEAt a x y f).host = s.host := rfl
@[simp] theorem State.modEAt_poison (a x y : Nat) (f : Elem → Elem) : (s.modEAt a x y f).poison = s.poison := rfl
@[simp] theorem State.modEAt_l2 (a x y : Nat) (f : Elem → Elem) : (s.modEAt a x y f).l2 = s.l2 := rfl
@[simp] theorem State.modEAt_slices (a x y : Nat) (f : Elem → Elem) : (s.modEAt a x y f).slices = s.slices := rfl
@[simp] theorem State.modEAt_gatedWays (a x y : Nat) (f : Elem → Elem) : (s.modEAt a x y f).gatedWays = s.gatedWays := rfl
@[simp] theorem State.modEAt_hot (a x y : Nat) (f : Elem → Elem) : (s.modEAt a x y f).hot = s.hot := rfl
@[simp] theorem State.modEAt_rows (a x y : Nat) (f : Elem → Elem) : (s.modEAt a x y f).rows = s.rows := rfl
@[simp] theorem State.modEAt_openRows (a x y : Nat) (f : Elem → Elem) : (s.modEAt a x y f).openRows = s.openRows := rfl
@[simp] theorem State.modEAt_ranges (a x y : Nat) (f : Elem → Elem) : (s.modEAt a x y f).ranges = s.ranges := rfl
@[simp] theorem State.modEAt_ntlb (a x y : Nat) (f : Elem → Elem) : (s.modEAt a x y f).ntlb = s.ntlb := rfl
@[simp] theorem State.modEAt_walks (a x y : Nat) (f : Elem → Elem) : (s.modEAt a x y f).walks = s.walks := rfl
@[simp] theorem State.modEAt_hostDead (a x y : Nat) (f : Elem → Elem) : (s.modEAt a x y f).hostDead = s.hostDead := rfl
@[simp] theorem State.modEAt_upsets (a x y : Nat) (f : Elem → Elem) : (s.modEAt a x y f).upsets = s.upsets := rfl
@[simp] theorem State.modEAt_vcache (a x y : Nat) (f : Elem → Elem) : (s.modEAt a x y f).vcache = s.vcache := rfl
@[simp] theorem State.modEAt_wheel (a x y : Nat) (f : Elem → Elem) : (s.modEAt a x y f).wheel = s.wheel := rfl
@[simp] theorem State.modEAt_left (a x y : Nat) (f : Elem → Elem) : (s.modEAt a x y f).left = s.left := rfl

@[simp] theorem State.modSpan_cycle (f : Span → Span) : (s.modSpan f).cycle = s.cycle := rfl
@[simp] theorem State.modSpan_phase (f : Span → Span) : (s.modSpan f).phase = s.phase := rfl
@[simp] theorem State.modSpan_ready (f : Span → Span) : (s.modSpan f).ready = s.ready := rfl
@[simp] theorem State.modSpan_agenda (f : Span → Span) : (s.modSpan f).agenda = s.agenda := rfl
@[simp] theorem State.modSpan_timers (f : Span → Span) : (s.modSpan f).timers = s.timers := rfl
@[simp] theorem State.modSpan_focus (f : Span → Span) : (s.modSpan f).focus = s.focus := rfl
@[simp] theorem State.modSpan_lats (f : Span → Span) : (s.modSpan f).lats = s.lats := rfl
@[simp] theorem State.modSpan_latDefault (f : Span → Span) : (s.modSpan f).latDefault = s.latDefault := rfl
@[simp] theorem State.modSpan_nsPer (f : Span → Span) : (s.modSpan f).nsPer = s.nsPer := rfl
@[simp] theorem State.modSpan_nextId (f : Span → Span) : (s.modSpan f).nextId = s.nextId := rfl
@[simp] theorem State.modSpan_rstCause (f : Span → Span) : (s.modSpan f).rstCause = s.rstCause := rfl
@[simp] theorem State.modSpan_viral (f : Span → Span) : (s.modSpan f).viral = s.viral := rfl
@[simp] theorem State.modSpan_viralCause (f : Span → Span) : (s.modSpan f).viralCause = s.viralCause := rfl
@[simp] theorem State.modSpan_held (f : Span → Span) : (s.modSpan f).held = s.held := rfl
@[simp] theorem State.modSpan_resetPend (f : Span → Span) : (s.modSpan f).resetPend = s.resetPend := rfl
@[simp] theorem State.modSpan_hlmod (f : Span → Span) : (s.modSpan f).hlmod = s.hlmod := rfl
@[simp] theorem State.modSpan_eccc (f : Span → Span) : (s.modSpan f).eccc = s.eccc := rfl
@[simp] theorem State.modSpan_eccu (f : Span → Span) : (s.modSpan f).eccu = s.eccu := rfl
@[simp] theorem State.modSpan_eccloc (f : Span → Span) : (s.modSpan f).eccloc = s.eccloc := rfl
@[simp] theorem State.modSpan_ns (f : Span → Span) : (s.modSpan f).ns = s.ns := rfl
@[simp] theorem State.modSpan_nsTenth (f : Span → Span) : (s.modSpan f).nsTenth = s.nsTenth := rfl
@[simp] theorem State.modSpan_dies (f : Span → Span) : (s.modSpan f).dies = s.dies := rfl
@[simp] theorem State.modSpan_ports (f : Span → Span) : (s.modSpan f).ports = s.ports := rfl
@[simp] theorem State.modSpan_nmp (f : Span → Span) : (s.modSpan f).nmp = s.nmp := rfl
@[simp] theorem State.modSpan_mgmt (f : Span → Span) : (s.modSpan f).mgmt = s.mgmt := rfl
@[simp] theorem State.modSpan_bundle (f : Span → Span) : (s.modSpan f).bundle = s.bundle := rfl
@[simp] theorem State.modSpan_bootKeys (f : Span → Span) : (s.modSpan f).bootKeys = s.bootKeys := rfl
@[simp] theorem State.modSpan_tenants (f : Span → Span) : (s.modSpan f).tenants = s.tenants := rfl
@[simp] theorem State.modSpan_bufs (f : Span → Span) : (s.modSpan f).bufs = s.bufs := rfl
@[simp] theorem State.modSpan_items (f : Span → Span) : (s.modSpan f).items = s.items := rfl
@[simp] theorem State.modSpan_chosen (f : Span → Span) : (s.modSpan f).chosen = s.chosen := rfl
@[simp] theorem State.modSpan_choicePend (f : Span → Span) : (s.modSpan f).choicePend = s.choicePend := rfl
@[simp] theorem State.modSpan_served (f : Span → Span) : (s.modSpan f).served = s.served := rfl
@[simp] theorem State.modSpan_retired (f : Span → Span) : (s.modSpan f).retired = s.retired := rfl
@[simp] theorem State.modSpan_retiredMem (f : Span → Span) : (s.modSpan f).retiredMem = s.retiredMem := rfl
@[simp] theorem State.modSpan_coh (f : Span → Span) : (s.modSpan f).coh = s.coh := rfl
@[simp] theorem State.modSpan_dram (f : Span → Span) : (s.modSpan f).dram = s.dram := rfl
@[simp] theorem State.modSpan_host (f : Span → Span) : (s.modSpan f).host = s.host := rfl
@[simp] theorem State.modSpan_poison (f : Span → Span) : (s.modSpan f).poison = s.poison := rfl
@[simp] theorem State.modSpan_l2 (f : Span → Span) : (s.modSpan f).l2 = s.l2 := rfl
@[simp] theorem State.modSpan_slices (f : Span → Span) : (s.modSpan f).slices = s.slices := rfl
@[simp] theorem State.modSpan_gatedWays (f : Span → Span) : (s.modSpan f).gatedWays = s.gatedWays := rfl
@[simp] theorem State.modSpan_hot (f : Span → Span) : (s.modSpan f).hot = s.hot := rfl
@[simp] theorem State.modSpan_rows (f : Span → Span) : (s.modSpan f).rows = s.rows := rfl
@[simp] theorem State.modSpan_openRows (f : Span → Span) : (s.modSpan f).openRows = s.openRows := rfl
@[simp] theorem State.modSpan_ranges (f : Span → Span) : (s.modSpan f).ranges = s.ranges := rfl
@[simp] theorem State.modSpan_ntlb (f : Span → Span) : (s.modSpan f).ntlb = s.ntlb := rfl
@[simp] theorem State.modSpan_walks (f : Span → Span) : (s.modSpan f).walks = s.walks := rfl
@[simp] theorem State.modSpan_hostDead (f : Span → Span) : (s.modSpan f).hostDead = s.hostDead := rfl
@[simp] theorem State.modSpan_upsets (f : Span → Span) : (s.modSpan f).upsets = s.upsets := rfl
@[simp] theorem State.modSpan_vcache (f : Span → Span) : (s.modSpan f).vcache = s.vcache := rfl
@[simp] theorem State.modSpan_wheel (f : Span → Span) : (s.modSpan f).wheel = s.wheel := rfl
@[simp] theorem State.modSpan_left (f : Span → Span) : (s.modSpan f).left = s.left := rfl

@[simp] theorem State.stall_cycle : (s.stall).cycle = s.cycle := rfl
@[simp] theorem State.stall_phase : (s.stall).phase = s.phase := rfl
@[simp] theorem State.stall_ready : (s.stall).ready = s.ready := rfl
@[simp] theorem State.stall_agenda : (s.stall).agenda = s.agenda := rfl
@[simp] theorem State.stall_timers : (s.stall).timers = s.timers := rfl
@[simp] theorem State.stall_focus : (s.stall).focus = s.focus := rfl
@[simp] theorem State.stall_lats : (s.stall).lats = s.lats := rfl
@[simp] theorem State.stall_latDefault : (s.stall).latDefault = s.latDefault := rfl
@[simp] theorem State.stall_nsPer : (s.stall).nsPer = s.nsPer := rfl
@[simp] theorem State.stall_nextId : (s.stall).nextId = s.nextId := rfl
@[simp] theorem State.stall_rstCause : (s.stall).rstCause = s.rstCause := rfl
@[simp] theorem State.stall_viral : (s.stall).viral = s.viral := rfl
@[simp] theorem State.stall_viralCause : (s.stall).viralCause = s.viralCause := rfl
@[simp] theorem State.stall_held : (s.stall).held = s.held := rfl
@[simp] theorem State.stall_resetPend : (s.stall).resetPend = s.resetPend := rfl
@[simp] theorem State.stall_hlmod : (s.stall).hlmod = s.hlmod := rfl
@[simp] theorem State.stall_eccc : (s.stall).eccc = s.eccc := rfl
@[simp] theorem State.stall_eccu : (s.stall).eccu = s.eccu := rfl
@[simp] theorem State.stall_eccloc : (s.stall).eccloc = s.eccloc := rfl
@[simp] theorem State.stall_ns : (s.stall).ns = s.ns := rfl
@[simp] theorem State.stall_nsTenth : (s.stall).nsTenth = s.nsTenth := rfl
@[simp] theorem State.stall_dies : (s.stall).dies = s.dies := rfl
@[simp] theorem State.stall_ports : (s.stall).ports = s.ports := rfl
@[simp] theorem State.stall_nmp : (s.stall).nmp = s.nmp := rfl
@[simp] theorem State.stall_mgmt : (s.stall).mgmt = s.mgmt := rfl
@[simp] theorem State.stall_bundle : (s.stall).bundle = s.bundle := rfl
@[simp] theorem State.stall_bootKeys : (s.stall).bootKeys = s.bootKeys := rfl
@[simp] theorem State.stall_tenants : (s.stall).tenants = s.tenants := rfl
@[simp] theorem State.stall_bufs : (s.stall).bufs = s.bufs := rfl
@[simp] theorem State.stall_items : (s.stall).items = s.items := rfl
@[simp] theorem State.stall_chosen : (s.stall).chosen = s.chosen := rfl
@[simp] theorem State.stall_choicePend : (s.stall).choicePend = s.choicePend := rfl
@[simp] theorem State.stall_served : (s.stall).served = s.served := rfl
@[simp] theorem State.stall_retired : (s.stall).retired = s.retired := rfl
@[simp] theorem State.stall_retiredMem : (s.stall).retiredMem = s.retiredMem := rfl
@[simp] theorem State.stall_coh : (s.stall).coh = s.coh := rfl
@[simp] theorem State.stall_dram : (s.stall).dram = s.dram := rfl
@[simp] theorem State.stall_host : (s.stall).host = s.host := rfl
@[simp] theorem State.stall_poison : (s.stall).poison = s.poison := rfl
@[simp] theorem State.stall_l2 : (s.stall).l2 = s.l2 := rfl
@[simp] theorem State.stall_slices : (s.stall).slices = s.slices := rfl
@[simp] theorem State.stall_gatedWays : (s.stall).gatedWays = s.gatedWays := rfl
@[simp] theorem State.stall_hot : (s.stall).hot = s.hot := rfl
@[simp] theorem State.stall_rows : (s.stall).rows = s.rows := rfl
@[simp] theorem State.stall_openRows : (s.stall).openRows = s.openRows := rfl
@[simp] theorem State.stall_ranges : (s.stall).ranges = s.ranges := rfl
@[simp] theorem State.stall_ntlb : (s.stall).ntlb = s.ntlb := rfl
@[simp] theorem State.stall_walks : (s.stall).walks = s.walks := rfl
@[simp] theorem State.stall_hostDead : (s.stall).hostDead = s.hostDead := rfl
@[simp] theorem State.stall_upsets : (s.stall).upsets = s.upsets := rfl
@[simp] theorem State.stall_vcache : (s.stall).vcache = s.vcache := rfl
@[simp] theorem State.stall_wheel : (s.stall).wheel = s.wheel := rfl
@[simp] theorem State.stall_left : (s.stall).left = s.left := rfl

@[simp] theorem State.raise_cycle (f : Flt) : (s.raise f).cycle = s.cycle := rfl
@[simp] theorem State.raise_phase (f : Flt) : (s.raise f).phase = s.phase := rfl
@[simp] theorem State.raise_ready (f : Flt) : (s.raise f).ready = s.ready := rfl
@[simp] theorem State.raise_agenda (f : Flt) : (s.raise f).agenda = s.agenda := rfl
@[simp] theorem State.raise_timers (f : Flt) : (s.raise f).timers = s.timers := rfl
@[simp] theorem State.raise_focus (f : Flt) : (s.raise f).focus = s.focus := rfl
@[simp] theorem State.raise_lats (f : Flt) : (s.raise f).lats = s.lats := rfl
@[simp] theorem State.raise_latDefault (f : Flt) : (s.raise f).latDefault = s.latDefault := rfl
@[simp] theorem State.raise_nsPer (f : Flt) : (s.raise f).nsPer = s.nsPer := rfl
@[simp] theorem State.raise_nextId (f : Flt) : (s.raise f).nextId = s.nextId := rfl
@[simp] theorem State.raise_rstCause (f : Flt) : (s.raise f).rstCause = s.rstCause := rfl
@[simp] theorem State.raise_viral (f : Flt) : (s.raise f).viral = s.viral := rfl
@[simp] theorem State.raise_viralCause (f : Flt) : (s.raise f).viralCause = s.viralCause := rfl
@[simp] theorem State.raise_held (f : Flt) : (s.raise f).held = s.held := rfl
@[simp] theorem State.raise_resetPend (f : Flt) : (s.raise f).resetPend = s.resetPend := rfl
@[simp] theorem State.raise_hlmod (f : Flt) : (s.raise f).hlmod = s.hlmod := rfl
@[simp] theorem State.raise_eccc (f : Flt) : (s.raise f).eccc = s.eccc := rfl
@[simp] theorem State.raise_eccu (f : Flt) : (s.raise f).eccu = s.eccu := rfl
@[simp] theorem State.raise_eccloc (f : Flt) : (s.raise f).eccloc = s.eccloc := rfl
@[simp] theorem State.raise_ns (f : Flt) : (s.raise f).ns = s.ns := rfl
@[simp] theorem State.raise_nsTenth (f : Flt) : (s.raise f).nsTenth = s.nsTenth := rfl
@[simp] theorem State.raise_dies (f : Flt) : (s.raise f).dies = s.dies := rfl
@[simp] theorem State.raise_ports (f : Flt) : (s.raise f).ports = s.ports := rfl
@[simp] theorem State.raise_nmp (f : Flt) : (s.raise f).nmp = s.nmp := rfl
@[simp] theorem State.raise_mgmt (f : Flt) : (s.raise f).mgmt = s.mgmt := rfl
@[simp] theorem State.raise_bundle (f : Flt) : (s.raise f).bundle = s.bundle := rfl
@[simp] theorem State.raise_bootKeys (f : Flt) : (s.raise f).bootKeys = s.bootKeys := rfl
@[simp] theorem State.raise_tenants (f : Flt) : (s.raise f).tenants = s.tenants := rfl
@[simp] theorem State.raise_bufs (f : Flt) : (s.raise f).bufs = s.bufs := rfl
@[simp] theorem State.raise_items (f : Flt) : (s.raise f).items = s.items := rfl
@[simp] theorem State.raise_chosen (f : Flt) : (s.raise f).chosen = s.chosen := rfl
@[simp] theorem State.raise_choicePend (f : Flt) : (s.raise f).choicePend = s.choicePend := rfl
@[simp] theorem State.raise_served (f : Flt) : (s.raise f).served = s.served := rfl
@[simp] theorem State.raise_retired (f : Flt) : (s.raise f).retired = s.retired := rfl
@[simp] theorem State.raise_retiredMem (f : Flt) : (s.raise f).retiredMem = s.retiredMem := rfl
@[simp] theorem State.raise_coh (f : Flt) : (s.raise f).coh = s.coh := rfl
@[simp] theorem State.raise_dram (f : Flt) : (s.raise f).dram = s.dram := rfl
@[simp] theorem State.raise_host (f : Flt) : (s.raise f).host = s.host := rfl
@[simp] theorem State.raise_poison (f : Flt) : (s.raise f).poison = s.poison := rfl
@[simp] theorem State.raise_l2 (f : Flt) : (s.raise f).l2 = s.l2 := rfl
@[simp] theorem State.raise_slices (f : Flt) : (s.raise f).slices = s.slices := rfl
@[simp] theorem State.raise_gatedWays (f : Flt) : (s.raise f).gatedWays = s.gatedWays := rfl
@[simp] theorem State.raise_hot (f : Flt) : (s.raise f).hot = s.hot := rfl
@[simp] theorem State.raise_rows (f : Flt) : (s.raise f).rows = s.rows := rfl
@[simp] theorem State.raise_openRows (f : Flt) : (s.raise f).openRows = s.openRows := rfl
@[simp] theorem State.raise_ranges (f : Flt) : (s.raise f).ranges = s.ranges := rfl
@[simp] theorem State.raise_ntlb (f : Flt) : (s.raise f).ntlb = s.ntlb := rfl
@[simp] theorem State.raise_walks (f : Flt) : (s.raise f).walks = s.walks := rfl
@[simp] theorem State.raise_hostDead (f : Flt) : (s.raise f).hostDead = s.hostDead := rfl
@[simp] theorem State.raise_upsets (f : Flt) : (s.raise f).upsets = s.upsets := rfl
@[simp] theorem State.raise_vcache (f : Flt) : (s.raise f).vcache = s.vcache := rfl
@[simp] theorem State.raise_wheel (f : Flt) : (s.raise f).wheel = s.wheel := rfl
@[simp] theorem State.raise_left (f : Flt) : (s.raise f).left = s.left := rfl

@[simp] theorem State.count_cycle (n : Nat) : (s.count n).cycle = s.cycle := rfl
@[simp] theorem State.count_phase (n : Nat) : (s.count n).phase = s.phase := rfl
@[simp] theorem State.count_ready (n : Nat) : (s.count n).ready = s.ready := rfl
@[simp] theorem State.count_agenda (n : Nat) : (s.count n).agenda = s.agenda := rfl
@[simp] theorem State.count_timers (n : Nat) : (s.count n).timers = s.timers := rfl
@[simp] theorem State.count_focus (n : Nat) : (s.count n).focus = s.focus := rfl
@[simp] theorem State.count_lats (n : Nat) : (s.count n).lats = s.lats := rfl
@[simp] theorem State.count_latDefault (n : Nat) : (s.count n).latDefault = s.latDefault := rfl
@[simp] theorem State.count_nsPer (n : Nat) : (s.count n).nsPer = s.nsPer := rfl
@[simp] theorem State.count_nextId (n : Nat) : (s.count n).nextId = s.nextId := rfl
@[simp] theorem State.count_rstCause (n : Nat) : (s.count n).rstCause = s.rstCause := rfl
@[simp] theorem State.count_viral (n : Nat) : (s.count n).viral = s.viral := rfl
@[simp] theorem State.count_viralCause (n : Nat) : (s.count n).viralCause = s.viralCause := rfl
@[simp] theorem State.count_held (n : Nat) : (s.count n).held = s.held := rfl
@[simp] theorem State.count_resetPend (n : Nat) : (s.count n).resetPend = s.resetPend := rfl
@[simp] theorem State.count_hlmod (n : Nat) : (s.count n).hlmod = s.hlmod := rfl
@[simp] theorem State.count_eccc (n : Nat) : (s.count n).eccc = s.eccc := rfl
@[simp] theorem State.count_eccu (n : Nat) : (s.count n).eccu = s.eccu := rfl
@[simp] theorem State.count_eccloc (n : Nat) : (s.count n).eccloc = s.eccloc := rfl
@[simp] theorem State.count_ns (n : Nat) : (s.count n).ns = s.ns := rfl
@[simp] theorem State.count_nsTenth (n : Nat) : (s.count n).nsTenth = s.nsTenth := rfl
@[simp] theorem State.count_dies (n : Nat) : (s.count n).dies = s.dies := rfl
@[simp] theorem State.count_ports (n : Nat) : (s.count n).ports = s.ports := rfl
@[simp] theorem State.count_nmp (n : Nat) : (s.count n).nmp = s.nmp := rfl
@[simp] theorem State.count_mgmt (n : Nat) : (s.count n).mgmt = s.mgmt := rfl
@[simp] theorem State.count_bundle (n : Nat) : (s.count n).bundle = s.bundle := rfl
@[simp] theorem State.count_bootKeys (n : Nat) : (s.count n).bootKeys = s.bootKeys := rfl
@[simp] theorem State.count_tenants (n : Nat) : (s.count n).tenants = s.tenants := rfl
@[simp] theorem State.count_bufs (n : Nat) : (s.count n).bufs = s.bufs := rfl
@[simp] theorem State.count_items (n : Nat) : (s.count n).items = s.items := rfl
@[simp] theorem State.count_chosen (n : Nat) : (s.count n).chosen = s.chosen := rfl
@[simp] theorem State.count_choicePend (n : Nat) : (s.count n).choicePend = s.choicePend := rfl
@[simp] theorem State.count_served (n : Nat) : (s.count n).served = s.served := rfl
@[simp] theorem State.count_retired (n : Nat) : (s.count n).retired = s.retired := rfl
@[simp] theorem State.count_retiredMem (n : Nat) : (s.count n).retiredMem = s.retiredMem := rfl
@[simp] theorem State.count_coh (n : Nat) : (s.count n).coh = s.coh := rfl
@[simp] theorem State.count_dram (n : Nat) : (s.count n).dram = s.dram := rfl
@[simp] theorem State.count_host (n : Nat) : (s.count n).host = s.host := rfl
@[simp] theorem State.count_poison (n : Nat) : (s.count n).poison = s.poison := rfl
@[simp] theorem State.count_l2 (n : Nat) : (s.count n).l2 = s.l2 := rfl
@[simp] theorem State.count_slices (n : Nat) : (s.count n).slices = s.slices := rfl
@[simp] theorem State.count_gatedWays (n : Nat) : (s.count n).gatedWays = s.gatedWays := rfl
@[simp] theorem State.count_hot (n : Nat) : (s.count n).hot = s.hot := rfl
@[simp] theorem State.count_rows (n : Nat) : (s.count n).rows = s.rows := rfl
@[simp] theorem State.count_openRows (n : Nat) : (s.count n).openRows = s.openRows := rfl
@[simp] theorem State.count_ranges (n : Nat) : (s.count n).ranges = s.ranges := rfl
@[simp] theorem State.count_ntlb (n : Nat) : (s.count n).ntlb = s.ntlb := rfl
@[simp] theorem State.count_walks (n : Nat) : (s.count n).walks = s.walks := rfl
@[simp] theorem State.count_hostDead (n : Nat) : (s.count n).hostDead = s.hostDead := rfl
@[simp] theorem State.count_upsets (n : Nat) : (s.count n).upsets = s.upsets := rfl
@[simp] theorem State.count_vcache (n : Nat) : (s.count n).vcache = s.vcache := rfl
@[simp] theorem State.count_wheel (n : Nat) : (s.count n).wheel = s.wheel := rfl
@[simp] theorem State.count_left (n : Nat) : (s.count n).left = s.left := rfl

@[simp] theorem State.lat_cycle : s.lat.2.cycle = s.cycle := by unfold State.lat; split <;> rfl
@[simp] theorem State.lat_phase : s.lat.2.phase = s.phase := by unfold State.lat; split <;> rfl
@[simp] theorem State.lat_ready : s.lat.2.ready = s.ready := by unfold State.lat; split <;> rfl
@[simp] theorem State.lat_agenda : s.lat.2.agenda = s.agenda := by unfold State.lat; split <;> rfl
@[simp] theorem State.lat_timers : s.lat.2.timers = s.timers := by unfold State.lat; split <;> rfl
@[simp] theorem State.lat_focus : s.lat.2.focus = s.focus := by unfold State.lat; split <;> rfl
@[simp] theorem State.lat_latDefault : s.lat.2.latDefault = s.latDefault := by unfold State.lat; split <;> rfl
@[simp] theorem State.lat_nsPer : s.lat.2.nsPer = s.nsPer := by unfold State.lat; split <;> rfl
@[simp] theorem State.lat_nextId : s.lat.2.nextId = s.nextId := by unfold State.lat; split <;> rfl
@[simp] theorem State.lat_rstCause : s.lat.2.rstCause = s.rstCause := by unfold State.lat; split <;> rfl
@[simp] theorem State.lat_viral : s.lat.2.viral = s.viral := by unfold State.lat; split <;> rfl
@[simp] theorem State.lat_viralCause : s.lat.2.viralCause = s.viralCause := by unfold State.lat; split <;> rfl
@[simp] theorem State.lat_held : s.lat.2.held = s.held := by unfold State.lat; split <;> rfl
@[simp] theorem State.lat_resetPend : s.lat.2.resetPend = s.resetPend := by unfold State.lat; split <;> rfl
@[simp] theorem State.lat_hlmod : s.lat.2.hlmod = s.hlmod := by unfold State.lat; split <;> rfl
@[simp] theorem State.lat_eccc : s.lat.2.eccc = s.eccc := by unfold State.lat; split <;> rfl
@[simp] theorem State.lat_eccu : s.lat.2.eccu = s.eccu := by unfold State.lat; split <;> rfl
@[simp] theorem State.lat_eccloc : s.lat.2.eccloc = s.eccloc := by unfold State.lat; split <;> rfl
@[simp] theorem State.lat_ns : s.lat.2.ns = s.ns := by unfold State.lat; split <;> rfl
@[simp] theorem State.lat_nsTenth : s.lat.2.nsTenth = s.nsTenth := by unfold State.lat; split <;> rfl
@[simp] theorem State.lat_dies : s.lat.2.dies = s.dies := by unfold State.lat; split <;> rfl
@[simp] theorem State.lat_ports : s.lat.2.ports = s.ports := by unfold State.lat; split <;> rfl
@[simp] theorem State.lat_nmp : s.lat.2.nmp = s.nmp := by unfold State.lat; split <;> rfl
@[simp] theorem State.lat_mgmt : s.lat.2.mgmt = s.mgmt := by unfold State.lat; split <;> rfl
@[simp] theorem State.lat_bundle : s.lat.2.bundle = s.bundle := by unfold State.lat; split <;> rfl
@[simp] theorem State.lat_bootKeys : s.lat.2.bootKeys = s.bootKeys := by unfold State.lat; split <;> rfl
@[simp] theorem State.lat_tenants : s.lat.2.tenants = s.tenants := by unfold State.lat; split <;> rfl
@[simp] theorem State.lat_bufs : s.lat.2.bufs = s.bufs := by unfold State.lat; split <;> rfl
@[simp] theorem State.lat_items : s.lat.2.items = s.items := by unfold State.lat; split <;> rfl
@[simp] theorem State.lat_chosen : s.lat.2.chosen = s.chosen := by unfold State.lat; split <;> rfl
@[simp] theorem State.lat_choicePend : s.lat.2.choicePend = s.choicePend := by unfold State.lat; split <;> rfl
@[simp] theorem State.lat_served : s.lat.2.served = s.served := by unfold State.lat; split <;> rfl
@[simp] theorem State.lat_regions : s.lat.2.regions = s.regions := by unfold State.lat; split <;> rfl
@[simp] theorem State.lat_retired : s.lat.2.retired = s.retired := by unfold State.lat; split <;> rfl
@[simp] theorem State.lat_retiredMem : s.lat.2.retiredMem = s.retiredMem := by unfold State.lat; split <;> rfl
@[simp] theorem State.lat_coh : s.lat.2.coh = s.coh := by unfold State.lat; split <;> rfl
@[simp] theorem State.lat_dram : s.lat.2.dram = s.dram := by unfold State.lat; split <;> rfl
@[simp] theorem State.lat_host : s.lat.2.host = s.host := by unfold State.lat; split <;> rfl
@[simp] theorem State.lat_poison : s.lat.2.poison = s.poison := by unfold State.lat; split <;> rfl
@[simp] theorem State.lat_l2 : s.lat.2.l2 = s.l2 := by unfold State.lat; split <;> rfl
@[simp] theorem State.lat_slices : s.lat.2.slices = s.slices := by unfold State.lat; split <;> rfl
@[simp] theorem State.lat_gatedWays : s.lat.2.gatedWays = s.gatedWays := by unfold State.lat; split <;> rfl
@[simp] theorem State.lat_hot : s.lat.2.hot = s.hot := by unfold State.lat; split <;> rfl
@[simp] theorem State.lat_rows : s.lat.2.rows = s.rows := by unfold State.lat; split <;> rfl
@[simp] theorem State.lat_openRows : s.lat.2.openRows = s.openRows := by unfold State.lat; split <;> rfl
@[simp] theorem State.lat_ranges : s.lat.2.ranges = s.ranges := by unfold State.lat; split <;> rfl
@[simp] theorem State.lat_ntlb : s.lat.2.ntlb = s.ntlb := by unfold State.lat; split <;> rfl
@[simp] theorem State.lat_walks : s.lat.2.walks = s.walks := by unfold State.lat; split <;> rfl
@[simp] theorem State.lat_hostDead : s.lat.2.hostDead = s.hostDead := by unfold State.lat; split <;> rfl
@[simp] theorem State.lat_upsets : s.lat.2.upsets = s.upsets := by unfold State.lat; split <;> rfl
@[simp] theorem State.lat_vcache : s.lat.2.vcache = s.vcache := by unfold State.lat; split <;> rfl
@[simp] theorem State.lat_wheel : s.lat.2.wheel = s.wheel := by unfold State.lat; split <;> rfl
@[simp] theorem State.lat_left : s.lat.2.left = s.left := by unfold State.lat; split <;> rfl

@[simp] theorem State.latMost_cycle (n : Nat) : (s.latMost n).2.cycle = s.cycle := State.lat_cycle s
@[simp] theorem State.latMost_phase (n : Nat) : (s.latMost n).2.phase = s.phase := State.lat_phase s
@[simp] theorem State.latMost_ready (n : Nat) : (s.latMost n).2.ready = s.ready := State.lat_ready s
@[simp] theorem State.latMost_agenda (n : Nat) : (s.latMost n).2.agenda = s.agenda := State.lat_agenda s
@[simp] theorem State.latMost_timers (n : Nat) : (s.latMost n).2.timers = s.timers := State.lat_timers s
@[simp] theorem State.latMost_focus (n : Nat) : (s.latMost n).2.focus = s.focus := State.lat_focus s
@[simp] theorem State.latMost_latDefault (n : Nat) : (s.latMost n).2.latDefault = s.latDefault := State.lat_latDefault s
@[simp] theorem State.latMost_nsPer (n : Nat) : (s.latMost n).2.nsPer = s.nsPer := State.lat_nsPer s
@[simp] theorem State.latMost_nextId (n : Nat) : (s.latMost n).2.nextId = s.nextId := State.lat_nextId s
@[simp] theorem State.latMost_rstCause (n : Nat) : (s.latMost n).2.rstCause = s.rstCause := State.lat_rstCause s
@[simp] theorem State.latMost_viral (n : Nat) : (s.latMost n).2.viral = s.viral := State.lat_viral s
@[simp] theorem State.latMost_viralCause (n : Nat) : (s.latMost n).2.viralCause = s.viralCause := State.lat_viralCause s
@[simp] theorem State.latMost_held (n : Nat) : (s.latMost n).2.held = s.held := State.lat_held s
@[simp] theorem State.latMost_resetPend (n : Nat) : (s.latMost n).2.resetPend = s.resetPend := State.lat_resetPend s
@[simp] theorem State.latMost_hlmod (n : Nat) : (s.latMost n).2.hlmod = s.hlmod := State.lat_hlmod s
@[simp] theorem State.latMost_eccc (n : Nat) : (s.latMost n).2.eccc = s.eccc := State.lat_eccc s
@[simp] theorem State.latMost_eccu (n : Nat) : (s.latMost n).2.eccu = s.eccu := State.lat_eccu s
@[simp] theorem State.latMost_eccloc (n : Nat) : (s.latMost n).2.eccloc = s.eccloc := State.lat_eccloc s
@[simp] theorem State.latMost_ns (n : Nat) : (s.latMost n).2.ns = s.ns := State.lat_ns s
@[simp] theorem State.latMost_nsTenth (n : Nat) : (s.latMost n).2.nsTenth = s.nsTenth := State.lat_nsTenth s
@[simp] theorem State.latMost_dies (n : Nat) : (s.latMost n).2.dies = s.dies := State.lat_dies s
@[simp] theorem State.latMost_ports (n : Nat) : (s.latMost n).2.ports = s.ports := State.lat_ports s
@[simp] theorem State.latMost_nmp (n : Nat) : (s.latMost n).2.nmp = s.nmp := State.lat_nmp s
@[simp] theorem State.latMost_mgmt (n : Nat) : (s.latMost n).2.mgmt = s.mgmt := State.lat_mgmt s
@[simp] theorem State.latMost_bundle (n : Nat) : (s.latMost n).2.bundle = s.bundle := State.lat_bundle s
@[simp] theorem State.latMost_bootKeys (n : Nat) : (s.latMost n).2.bootKeys = s.bootKeys := State.lat_bootKeys s
@[simp] theorem State.latMost_tenants (n : Nat) : (s.latMost n).2.tenants = s.tenants := State.lat_tenants s
@[simp] theorem State.latMost_bufs (n : Nat) : (s.latMost n).2.bufs = s.bufs := State.lat_bufs s
@[simp] theorem State.latMost_items (n : Nat) : (s.latMost n).2.items = s.items := State.lat_items s
@[simp] theorem State.latMost_chosen (n : Nat) : (s.latMost n).2.chosen = s.chosen := State.lat_chosen s
@[simp] theorem State.latMost_choicePend (n : Nat) : (s.latMost n).2.choicePend = s.choicePend := State.lat_choicePend s
@[simp] theorem State.latMost_served (n : Nat) : (s.latMost n).2.served = s.served := State.lat_served s
@[simp] theorem State.latMost_regions (n : Nat) : (s.latMost n).2.regions = s.regions := State.lat_regions s
@[simp] theorem State.latMost_retired (n : Nat) : (s.latMost n).2.retired = s.retired := State.lat_retired s
@[simp] theorem State.latMost_retiredMem (n : Nat) : (s.latMost n).2.retiredMem = s.retiredMem := State.lat_retiredMem s
@[simp] theorem State.latMost_coh (n : Nat) : (s.latMost n).2.coh = s.coh := State.lat_coh s
@[simp] theorem State.latMost_dram (n : Nat) : (s.latMost n).2.dram = s.dram := State.lat_dram s
@[simp] theorem State.latMost_host (n : Nat) : (s.latMost n).2.host = s.host := State.lat_host s
@[simp] theorem State.latMost_poison (n : Nat) : (s.latMost n).2.poison = s.poison := State.lat_poison s
@[simp] theorem State.latMost_l2 (n : Nat) : (s.latMost n).2.l2 = s.l2 := State.lat_l2 s
@[simp] theorem State.latMost_slices (n : Nat) : (s.latMost n).2.slices = s.slices := State.lat_slices s
@[simp] theorem State.latMost_gatedWays (n : Nat) : (s.latMost n).2.gatedWays = s.gatedWays := State.lat_gatedWays s
@[simp] theorem State.latMost_hot (n : Nat) : (s.latMost n).2.hot = s.hot := State.lat_hot s
@[simp] theorem State.latMost_rows (n : Nat) : (s.latMost n).2.rows = s.rows := State.lat_rows s
@[simp] theorem State.latMost_openRows (n : Nat) : (s.latMost n).2.openRows = s.openRows := State.lat_openRows s
@[simp] theorem State.latMost_ranges (n : Nat) : (s.latMost n).2.ranges = s.ranges := State.lat_ranges s
@[simp] theorem State.latMost_ntlb (n : Nat) : (s.latMost n).2.ntlb = s.ntlb := State.lat_ntlb s
@[simp] theorem State.latMost_walks (n : Nat) : (s.latMost n).2.walks = s.walks := State.lat_walks s
@[simp] theorem State.latMost_hostDead (n : Nat) : (s.latMost n).2.hostDead = s.hostDead := State.lat_hostDead s
@[simp] theorem State.latMost_upsets (n : Nat) : (s.latMost n).2.upsets = s.upsets := State.lat_upsets s
@[simp] theorem State.latMost_vcache (n : Nat) : (s.latMost n).2.vcache = s.vcache := State.lat_vcache s
@[simp] theorem State.latMost_wheel (n : Nat) : (s.latMost n).2.wheel = s.wheel := State.lat_wheel s
@[simp] theorem State.latMost_left (n : Nat) : (s.latMost n).2.left = s.left := State.lat_left s

/-- A latency with a bound keeps to it. -/
theorem State.latMost_le (n : Nat) : (s.latMost n).1 ≤ n := Nat.min_le_right _ _

@[simp] theorem State.fresh_cycle : s.fresh.2.cycle = s.cycle := rfl
@[simp] theorem State.fresh_phase : s.fresh.2.phase = s.phase := rfl
@[simp] theorem State.fresh_ready : s.fresh.2.ready = s.ready := rfl
@[simp] theorem State.fresh_agenda : s.fresh.2.agenda = s.agenda := rfl
@[simp] theorem State.fresh_timers : s.fresh.2.timers = s.timers := rfl
@[simp] theorem State.fresh_focus : s.fresh.2.focus = s.focus := rfl
@[simp] theorem State.fresh_lats : s.fresh.2.lats = s.lats := rfl
@[simp] theorem State.fresh_latDefault : s.fresh.2.latDefault = s.latDefault := rfl
@[simp] theorem State.fresh_nsPer : s.fresh.2.nsPer = s.nsPer := rfl
@[simp] theorem State.fresh_rstCause : s.fresh.2.rstCause = s.rstCause := rfl
@[simp] theorem State.fresh_viral : s.fresh.2.viral = s.viral := rfl
@[simp] theorem State.fresh_viralCause : s.fresh.2.viralCause = s.viralCause := rfl
@[simp] theorem State.fresh_held : s.fresh.2.held = s.held := rfl
@[simp] theorem State.fresh_resetPend : s.fresh.2.resetPend = s.resetPend := rfl
@[simp] theorem State.fresh_hlmod : s.fresh.2.hlmod = s.hlmod := rfl
@[simp] theorem State.fresh_eccc : s.fresh.2.eccc = s.eccc := rfl
@[simp] theorem State.fresh_eccu : s.fresh.2.eccu = s.eccu := rfl
@[simp] theorem State.fresh_eccloc : s.fresh.2.eccloc = s.eccloc := rfl
@[simp] theorem State.fresh_ns : s.fresh.2.ns = s.ns := rfl
@[simp] theorem State.fresh_nsTenth : s.fresh.2.nsTenth = s.nsTenth := rfl
@[simp] theorem State.fresh_dies : s.fresh.2.dies = s.dies := rfl
@[simp] theorem State.fresh_ports : s.fresh.2.ports = s.ports := rfl
@[simp] theorem State.fresh_nmp : s.fresh.2.nmp = s.nmp := rfl
@[simp] theorem State.fresh_mgmt : s.fresh.2.mgmt = s.mgmt := rfl
@[simp] theorem State.fresh_bundle : s.fresh.2.bundle = s.bundle := rfl
@[simp] theorem State.fresh_bootKeys : s.fresh.2.bootKeys = s.bootKeys := rfl
@[simp] theorem State.fresh_tenants : s.fresh.2.tenants = s.tenants := rfl
@[simp] theorem State.fresh_bufs : s.fresh.2.bufs = s.bufs := rfl
@[simp] theorem State.fresh_items : s.fresh.2.items = s.items := rfl
@[simp] theorem State.fresh_chosen : s.fresh.2.chosen = s.chosen := rfl
@[simp] theorem State.fresh_choicePend : s.fresh.2.choicePend = s.choicePend := rfl
@[simp] theorem State.fresh_served : s.fresh.2.served = s.served := rfl
@[simp] theorem State.fresh_regions : s.fresh.2.regions = s.regions := rfl
@[simp] theorem State.fresh_retired : s.fresh.2.retired = s.retired := rfl
@[simp] theorem State.fresh_retiredMem : s.fresh.2.retiredMem = s.retiredMem := rfl
@[simp] theorem State.fresh_coh : s.fresh.2.coh = s.coh := rfl
@[simp] theorem State.fresh_dram : s.fresh.2.dram = s.dram := rfl
@[simp] theorem State.fresh_host : s.fresh.2.host = s.host := rfl
@[simp] theorem State.fresh_poison : s.fresh.2.poison = s.poison := rfl
@[simp] theorem State.fresh_l2 : s.fresh.2.l2 = s.l2 := rfl
@[simp] theorem State.fresh_slices : s.fresh.2.slices = s.slices := rfl
@[simp] theorem State.fresh_gatedWays : s.fresh.2.gatedWays = s.gatedWays := rfl
@[simp] theorem State.fresh_hot : s.fresh.2.hot = s.hot := rfl
@[simp] theorem State.fresh_rows : s.fresh.2.rows = s.rows := rfl
@[simp] theorem State.fresh_openRows : s.fresh.2.openRows = s.openRows := rfl
@[simp] theorem State.fresh_ranges : s.fresh.2.ranges = s.ranges := rfl
@[simp] theorem State.fresh_ntlb : s.fresh.2.ntlb = s.ntlb := rfl
@[simp] theorem State.fresh_walks : s.fresh.2.walks = s.walks := rfl
@[simp] theorem State.fresh_hostDead : s.fresh.2.hostDead = s.hostDead := rfl
@[simp] theorem State.fresh_upsets : s.fresh.2.upsets = s.upsets := rfl
@[simp] theorem State.fresh_vcache : s.fresh.2.vcache = s.vcache := rfl
@[simp] theorem State.fresh_wheel : s.fresh.2.wheel = s.wheel := rfl
@[simp] theorem State.fresh_left : s.fresh.2.left = s.left := rfl

end Sys2Proof.Machine
end

