-- ==== Sys2Proof/Laws/Rounds.lean ====
section
/-! SUPPORT. What a void, the end of a launch and the scheduler's requests leave as it was: the commits of the bound regions, their
signatures, and the counter files of the tenants. -/

namespace Sys2Proof.Machine

open Sys2Proof

/-- Two states with the same focus, whose regions have the same commits and signatures, and whose tenants the same counter files. -/
structure Steady (s t : State) : Prop where
  focus : t.focus = s.focus
  commit : ∀ r, (t.reg r).commit = (s.reg r).commit
  commitOn : ∀ r, (t.reg r).commitOn = (s.reg r).commitOn
  sigs : ∀ r, (t.reg r).sigs = (s.reg r).sigs
  files : ∀ f, (t.tenants.find f).map Tenant.pmFile = (s.tenants.find f).map Tenant.pmFile

theorem Steady.refl (s : State) : Steady s s := ⟨rfl, fun _ => rfl, fun _ => rfl, fun _ => rfl, fun _ => rfl⟩

theorem Steady.trans {s t u : State} (h : Steady s t) (k : Steady t u) : Steady s u :=
  ⟨k.focus.trans h.focus, fun r => (k.commit r).trans (h.commit r), fun r => (k.commitOn r).trans (h.commitOn r),
    fun r => (k.sigs r).trans (h.sigs r), fun f => (k.files f).trans (h.files f)⟩

/-- A state that differs in nothing that `Steady` looks at. -/
theorem Steady.of {s t : State} (hf : t.focus = s.focus) (hr : t.regions = s.regions) (ht : t.tenants = s.tenants) : Steady s t :=
  ⟨hf, fun r => by simp [State.reg, hr], fun r => by simp [State.reg, hr], fun r => by simp [State.reg, hr], fun f => by rw [ht]⟩

theorem State.reg_modReg (s : State) (r k : Nat) (g : Region → Region) :
    (s.modReg r g).reg k = if r = k ∧ (s.regions.find r).isSome = true then g (s.reg k) else s.reg k := by
  simp only [State.reg, State.modReg, Tbl.get_eq_find, Tbl.find_modify]
  by_cases h : r = k
  · subst h; cases s.regions.find r <;> simp
  · simp [h]

theorem Steady.modReg (s : State) (r : Nat) {g : Region → Region}
    (h : ∀ x, (g x).commit = x.commit ∧ (g x).commitOn = x.commitOn ∧ (g x).sigs = x.sigs) : Steady s (s.modReg r g) := by
  refine ⟨rfl, fun k => ?_, fun k => ?_, fun k => ?_, fun _ => rfl⟩ <;> rw [State.reg_modReg] <;> split <;> simp [h]

theorem Steady.modTenant (s : State) (f : Nat) {g : Tenant → Tenant} (h : ∀ x, (g x).pmFile = x.pmFile) : Steady s (s.modTenant f g) := by
  refine ⟨rfl, fun _ => rfl, fun _ => rfl, fun _ => rfl, fun k => ?_⟩
  simp only [State.modTenant, Tbl.find_modify]
  split <;> cases s.tenants.find _ <;> simp [h]

theorem Steady.modLaunch (s : State) (f : Nat) (tag : Word) (g : Launch → Launch) : Steady s (s.modLaunch f tag g) :=
  Steady.modTenant s f (fun _ => rfl)

theorem Steady.send (s : State) (m : DMsg) : Steady s (s.send m) := by
  unfold State.send
  split
  · exact .refl s
  · split <;> exact .of rfl rfl rfl

theorem Tenant.charge_pmFile (t : Tenant) (pc bytes : Nat) : (t.charge pc bytes).pmFile = t.pmFile := by
  simp only [Tenant.charge, Tenant.pmFile]

theorem Steady.chargeOwn (s : State) (g : Region) (pc bytes : Nat) : Steady s (s.chargeOwn g pc bytes) := by
  unfold State.chargeOwn
  exact (Steady.modTenant s g.func (fun t => t.charge_pmFile pc bytes)).trans (Steady.modLaunch _ _ _ _)

theorem Steady.chargeSave (s : State) (g : Region) (own : Bool) (pc bytes : Nat) : Steady s (s.chargeSave g own pc bytes) := by
  unfold State.chargeSave
  split
  · exact Steady.chargeOwn s g pc bytes
  · exact Steady.modTenant s 0 (fun t => t.charge_pmFile pc bytes)

theorem Steady.creditClear (s : State) (f : Nat) : Steady s (s.creditClear f) := by
  unfold State.creditClear
  split
  · exact .refl s
  · exact Steady.modTenant s f (fun _ => rfl)

theorem Steady.postAmount (s : State) (r pc bytes : Nat) : Steady s (s.postAmount r pc bytes) := by
  unfold State.postAmount
  refine Steady.trans ?_ (Steady.modReg _ r (fun _ => ⟨rfl, rfl, rfl⟩))
  split
  · exact (Steady.chargeOwn s _ 0 bytes).trans (Steady.chargeSave _ _ _ pc 0)
  · exact Steady.chargeOwn s _ pc bytes

theorem Steady.voidRound (s : State) (r : Nat) (charged : Bool) : Steady s (s.voidRound r charged) := by
  unfold State.voidRound
  extract_lets g t t1 t2
  have h : Steady s t := by
    unfold t
    split
    · exact Steady.postAmount s r _ _
    · exact Steady.postAmount s r _ _
  have h1 : Steady t t1 := Steady.modReg t r (fun _ => ⟨rfl, rfl, rfl⟩)
  have h2 : Steady t1 t2 := Steady.modTenant t1 _ (fun _ => rfl)
  exact ((h.trans h1).trans h2).trans (Steady.of rfl rfl rfl)

theorem Steady.report (s : State) (r : Nat) (f : Flt) : Steady s (s.report r f).2 := by
  unfold State.report State.takeFid State.faultMsg
  simp only []
  exact ((Steady.modTenant s _ (g := fun t => { t with nfid := t.nfid + 1 }) (fun _ => rfl)).trans (Steady.modLaunch _ _ _ _)).trans
    (Steady.send _ _)

theorem Steady.voidLast (s : State) (r : Nat) : Steady s (s.voidLast r) := by
  unfold State.voidLast
  split
  · exact (Steady.voidRound s r true).trans (Steady.report _ _ _)
  · exact Steady.voidRound s r true

/-- A fold of steps each of which is steady is steady. -/
theorem Steady.foldl {α : Type} (g : State → α → State) (h : ∀ s a, Steady s (g s a)) (l : List α) (s : State) :
    Steady s (l.foldl g s) := by
  induction l generalizing s with
  | nil => exact .refl s
  | cons a l ih => exact (h s a).trans (ih _)

theorem Steady.endLaunch (s : State) (f : Nat) (tag : Word) (status : Nat) : Steady s (s.endLaunch f tag status) := by
  unfold State.endLaunch
  extract_lets gone nums t u
  have h : Steady s t := Steady.modLaunch s f tag _
  have h1 : Steady t u := Steady.of rfl rfl rfl
  refine ((h.trans h1).trans (Steady.creditClear _ f)).trans (Steady.foldl _ (fun u p => ?_) _ _)
  split
  · split
    · exact Steady.modReg _ _ (fun _ => ⟨rfl, rfl, rfl⟩)
    · exact .refl _
    · exact (Steady.voidLast _ _).trans (Steady.modReg _ _ (fun _ => ⟨rfl, rfl, rfl⟩))
  · exact .refl _

theorem Steady.endByFault (s : State) (r : Nat) (f : Flt) (charged : Bool) : Steady s (s.endByFault r f charged) :=
  ((Steady.voidRound s r charged).trans (Steady.report _ r f)).trans (Steady.endLaunch _ _ _ _)

theorem Steady.latMost (s : State) (n : Nat) : Steady s (s.latMost n).2 := by
  unfold State.latMost State.lat; split <;> exact .of rfl rfl rfl

theorem Steady.saveAt (s : State) (r m n : Nat) (b : Bool) :
    Steady s ((s.latMost m).2.modReg r (fun g => { g with mode := .saving n b })) :=
  (Steady.latMost s m).trans (Steady.modReg _ _ (fun _ => ⟨rfl, rfl, rfl⟩))

theorem Steady.yieldBreak (s : State) (r : Nat) : Steady s (s.yieldBreak r) := by
  unfold State.yieldBreak
  split
  · exact Steady.endByFault s r _ true
  · exact (Steady.voidRound s r true).trans (Steady.saveAt (s.voidRound r true) r ((s.reg r).saveMost s.cycle) _ true)

/-- A region asked to yield keeps its commit (R86). -/
theorem Steady.askYield (s : State) (r : Nat) (own : Bool) : Steady s (s.askYield r own) := by
  unfold State.askYield
  extract_lets g t save
  have ask : Steady s t := Steady.modReg s r (fun _ => ⟨rfl, rfl, rfl⟩)
  have sv : ∀ (b : Bool) (u : State), Steady u (save b u) := fun b u =>
    Steady.saveAt u r ((u.reg r).saveMost s.cycle) _ b
  split
  · exact .refl s
  · refine ask.trans ?_
    split
    · exact (Steady.postAmount t r _ _).trans (sv _ _)
    · exact (Steady.postAmount t r _ _).trans (sv _ _)
    · split
      · exact sv _ _
      · exact .refl _
    · split
      · exact Steady.yieldBreak t r
      · exact .refl _
    · exact .refl _

/-- The requests that debts make keep every commit (R85). -/
theorem Steady.askBudget (s : State) : Steady s s.askBudget :=
  Steady.foldl _ (fun t p => by split; exact Steady.askYield _ _ _; exact .refl _) _ _

end Sys2Proof.Machine
end

