-- ==== Sys2Proof/Laws/Shadow.lean ====
section
/-! SUPPORT. Why the comparison of a firing is of the flipped lanes alone: an operation that keeps to the shift of its class gives the
shadow the primary's result, realigned (R210, R211). -/

namespace Sys2Proof.Machine

open Sys2Proof

/-- Flips stand where they are when 32 of the 33 bits are taken. -/
theorem extract_xor (a up : BitVec 33) (k : Nat) : (a ^^^ up).extractLsb' k 32 = a.extractLsb' k 32 ^^^ up.extractLsb' k 32 := by
  ext i hi
  simp [BitVec.getElem_extractLsb', BitVec.getLsbD_xor]

/-- A result one bit higher, realigned, is the result. -/
theorem extract_raised (a b : Int) (h0 : 0 ≤ b) (h1 : b ≤ 1) : (BitVec.ofInt 33 (2 * a + b)).extractLsb' 1 32 = BitVec.ofInt 32 a := by
  apply BitVec.eq_of_toNat_eq
  simp [BitVec.toNat_ofInt, Nat.shiftRight_eq_div_pow]
  omega

/-- The low 32 bits of a result of 33. -/
theorem extract_level (a : Int) : (BitVec.ofInt 33 a).extractLsb' 0 32 = BitVec.ofInt 32 a := by
  apply BitVec.eq_of_toNat_eq
  simp [BitVec.toNat_ofInt]
  omega

/-- WHAT THE COMPARISON FINDS (R211): where the shift of the operands puts the result one bit higher, or leaves it, as the class says,
the two results differ exactly when the flipped lanes do. -/
theorem shadow_differs (c : ShadowClass) (f g : List Int → Int) (xs : List Int) (prim : Word) (shadow : BitVec 33)
    (h : if c.raised then ∃ b, 0 ≤ b ∧ b ≤ 1 ∧ c.shadowVal f g xs = 2 * fireVal f g xs + b else c.shadowVal f g xs = fireVal f g xs) :
    c.shadowFire f g xs shadow ≠ primaryFire f g xs prim ↔ c.differs prim shadow = true := by
  have key : c.realign (BitVec.ofInt 33 (c.shadowVal f g xs) ^^^ shadow) = BitVec.ofInt 32 (fireVal f g xs) ^^^ c.realign shadow := by
    unfold ShadowClass.realign
    cases hr : c.raised
    · simp only [hr, Bool.false_eq_true, if_false] at h ⊢
      rw [extract_xor, h, extract_level]
    · simp only [hr, if_true] at h ⊢
      obtain ⟨b, h0, h1, hb⟩ := h
      rw [extract_xor, hb, extract_raised _ _ h0 h1]
  simp only [ShadowClass.shadowFire, primaryFire, ShadowClass.differs, key, bne_iff_ne, ne_eq]
  rw [not_iff_not]
  exact ⟨fun e => by simpa [← BitVec.xor_assoc] using congrArg (BitVec.ofInt 32 (fireVal f g xs) ^^^ ·) e, fun e => by rw [e]⟩

/-- Adding is of the class whose operands are both shifted. -/
theorem shadow_add (a b : Int) : ShadowClass.linear.shadowVal List.sum (fun _ => 0) [a, b] = 2 * fireVal List.sum (fun _ => 0) [a, b] + 0 := by
  simp [ShadowClass.shadowVal, fireVal, List.mapIdx_cons, ShadowClass.operand, ShadowClass.shifts]; ring

/-- A product is of the class whose first operand is. -/
theorem shadow_mul (a b : Int) : ShadowClass.product.shadowVal List.prod (fun _ => 0) [a, b] = 2 * fireVal List.prod (fun _ => 0) [a, b] + 0 := by
  simp [ShadowClass.shadowVal, fireVal, List.mapIdx_cons, ShadowClass.operand, ShadowClass.shifts]; ring

/-- A product plus an addend is of the class that realigns the product alone. -/
theorem shadow_mad (a b c : Int) : ShadowClass.sum.shadowVal (fun l => (l.take 2).prod) (fun l => (l.drop 2).sum) [a, b, c] =
    fireVal (fun l => (l.take 2).prod) (fun l => (l.drop 2).sum) [a, b, c] := by
  have h : 2 * a * b / 2 = a * b := by rw [mul_assoc]; exact Int.mul_ediv_cancel_left _ (by decide)
  simp [ShadowClass.shadowVal, fireVal, List.mapIdx_cons, ShadowClass.operand, ShadowClass.shifts, h]

end Sys2Proof.Machine
end

