-- ==== Sys2Proof/Tests/Slice0.lean ====
section
/-! SUPPORT. The model's own tests: words written out from the spec's encodings, an ill-formed term for each check of WellFormed,
sample results that the spec prints, and for every statement that has hypotheses a state and operands that meet them. -/

namespace Sys2Proof.Tests

open Sys2Proof Sys2Proof.Machine Sys2Proof.Safety

/-! ## A bench -/

/-- The state after an instruction that gives a next state. -/
def after (i : Instr) (s : State) : State :=
  match exec i s with
  | .next t => t
  | _ => s

/-- ce(0,0), and me(1,0) with an operand store of four buffers, a FIFO and a line buffer. -/
def benchElems : List ElemDecl :=
  [{ ElemDecl.none 0 0 with g := 32, k := 32, p := 8, c := 8, win := 8, recv := 6 },
   { ElemDecl.none 1 0 with g := 16, p := 8, win := 8, groups :=
      [{ i := 0, lo := 0, hi := 3, mode := .store, n := 4, wd := 0 }, { i := 1, lo := 4, hi := 4, mode := .fifo, n := 16, wd := 0 },
       { i := 2, lo := 5, hi := 5, mode := .line, n := 4, wd := 8 }] }]

/-- A signature of one tile with one span, one row, one folio of me(1,0) and ce(0,0), and streams of me(1,0). -/
def benchSig : SigDecl :=
  { SigDecl.none with
    debug := true
    spans := [{ n := 0, x0 := 0, y0 := 0, x1 := 3, y1 := 3, waiting := false, period := 8, round := 0 }]
    folios := [{ layer := 0, hx := 1, hy := 0, mx := 0, my := 0, keep := true, n := 32, m := 16, buf := 0, off := 0, ext := 64
                 tau := 0#32, dmax := 0x3F800000#32, nref := 0 }]
    rows := [{ buf := 0, reopen := true, off := 0 }]
    streams := [{ x := 1, y := 0, sn := 0, endpoint := false, idx := 0, kind := 3, hint := 0, off := 0 },
                { x := 1, y := 0, sn := 2, endpoint := true, idx := 0, kind := 1, hint := 0, off := 0 }]
    elems := benchElems }

/-- A region of function 0 that runs the signature on page 0, its elements as given, in cycle 100, with element (x, 0) in focus. -/
def bench (x : Nat) (es : List (Nat × Elem)) : State :=
  let f : Fabric := { Fabric.empty with elems := es.map (fun p => (elemKey 0 p.1 0, p.2)), spans := [(0, Span.fresh .running)] }
  { State.reset with
    cycle := 100, focus := { Focus.none with x := x }
    regions := [(0, { Region.empty with sigs := [{ decl := benchSig, idx := 0, page := 0, passed := false, final := false, done := false }]
                                        old := f, now := f, ckpt := f, mode := .running })] }

/-- ce(0,0) with general registers as given, and the register it holds after an entry. -/
def ce (g : List (Nat × Word)) : State := bench 0 [(0, { Elem.fresh .ce with g := g })]
def rd (i : Instr) (s : State) (c : Nat) : Word := (after i s).nowE.g.get 0#32 c

/-- me(1,0) as given. -/
def me (e : Elem) : State := bench 1 [(1, e)]

/-- Fields of a format-T entry of d, a, b, ty and sub, without modifiers, and of a format-F entry. -/
def fT (d a b ty sub : Nat) : FT := ⟨BitVec.ofNat 7 d, BitVec.ofNat 7 a, 0#3, BitVec.ofNat 7 b, 0#3, BitVec.ofNat 4 ty, BitVec.ofNat 4 sub⟩
def fF (d a b c ty : Nat) : FF := ⟨BitVec.ofNat 7 d, BitVec.ofNat 7 a, 0#2, BitVec.ofNat 7 b, 0#2, BitVec.ofNat 7 c, BitVec.ofNat 3 ty⟩
def fI (d a imm : Nat) : FI := ⟨BitVec.ofNat 7 d, BitVec.ofNat 7 a, BitVec.ofNat 21 imm⟩
def fM (d strm mode off : Nat) : FM := ⟨BitVec.ofNat 7 d, BitVec.ofNat 3 strm, BitVec.ofNat 4 mode, BitVec.ofNat 21 off⟩
def fW (d a b win wm sub : Nat) : FW :=
  ⟨BitVec.ofNat 7 d, BitVec.ofNat 7 a, BitVec.ofNat 7 b, BitVec.ofNat 9 win, BitVec.ofNat 2 wm, BitVec.ofNat 3 sub⟩
def fX (asl bsl acc shp opt d : Nat) : FX :=
  ⟨BitVec.ofNat 6 asl, BitVec.ofNat 6 bsl, BitVec.ofNat 2 acc, BitVec.ofNat 4 shp, BitVec.ofNat 3 opt, BitVec.ofNat 7 d, 0#7⟩
def fK (d a param : Nat) : FK := ⟨BitVec.ofNat 7 d, BitVec.ofNat 7 a, BitVec.ofNat 21 param⟩

/-! ## Decoding: one word of every fabric entry, written from R291, R294 and R302 -/

/-- An entry with stamp 0x123, predicate p5 negated and route context 9. -/
def hd (i : Instr) : Entry := ⟨0x123#12, 5#3, 1#1, 9#5, i⟩

/-- Every word of a list decodes to its instruction under that header. -/
def decodes (l : List (EWord × Instr)) : Bool := l.all (fun p => decide (entryOf p.1 = some (hd p.2)))

theorem test_words_integerA : decodes [
  (0x123B004800000000#64, .nop),
  (0x123B014A12564AB6#64, .mov ⟨33#7, 18#7, 5#3, 73#7, 2#3, 11#4, 6#4⟩),
  (0x123B024A1253579A#64, .movi ⟨33#7, 18#7, 1267610#21⟩),
  (0x123B034A1253579A#64, .movhi ⟨33#7, 18#7, 1267610#21⟩),
  (0x123B044A12564AB6#64, .add ⟨33#7, 18#7, 5#3, 73#7, 2#3, 11#4, 6#4⟩),
  (0x123B054A1253579A#64, .addi ⟨33#7, 18#7, 1267610#21⟩),
  (0x123B064A12564AB6#64, .sub ⟨33#7, 18#7, 5#3, 73#7, 2#3, 11#4, 6#4⟩),
  (0x123B074A12564AB6#64, .adds ⟨33#7, 18#7, 5#3, 73#7, 2#3, 11#4, 6#4⟩),
  (0x123B084A12564AB6#64, .subs ⟨33#7, 18#7, 5#3, 73#7, 2#3, 11#4, 6#4⟩),
  (0x123B094A12564AB6#64, .neg ⟨33#7, 18#7, 5#3, 73#7, 2#3, 11#4, 6#4⟩),
  (0x123B0A4A12564AB6#64, .abs ⟨33#7, 18#7, 5#3, 73#7, 2#3, 11#4, 6#4⟩),
  (0x123B0B4A12564AB6#64, .min ⟨33#7, 18#7, 5#3, 73#7, 2#3, 11#4, 6#4⟩),
  (0x123B0C4A12564AB6#64, .max ⟨33#7, 18#7, 5#3, 73#7, 2#3, 11#4, 6#4⟩),
  (0x123B0D4A12564AB6#64, .mul ⟨33#7, 18#7, 5#3, 73#7, 2#3, 11#4, 6#4⟩),
  (0x123B0E4A12564AB6#64, .mulh ⟨33#7, 18#7, 5#3, 73#7, 2#3, 11#4, 6#4⟩)] = true := by decide

theorem test_words_integerB : decodes [
  (0x123B0F4A124C9ABE#64, .mad ⟨33#7, 18#7, 1#2, 73#7, 2#2, 87#7, 6#3⟩),
  (0x123B104A12526AB5#64, .div ⟨33#7, 18#7, 73#7, 341#9, 2#2, 5#3⟩),
  (0x123B114A12526AB5#64, .rem ⟨33#7, 18#7, 73#7, 341#9, 2#2, 5#3⟩),
  (0x123B124A12564AB6#64, .andW ⟨33#7, 18#7, 5#3, 73#7, 2#3, 11#4, 6#4⟩),
  (0x123B134A12564AB6#64, .orW ⟨33#7, 18#7, 5#3, 73#7, 2#3, 11#4, 6#4⟩),
  (0x123B144A12564AB6#64, .xorW ⟨33#7, 18#7, 5#3, 73#7, 2#3, 11#4, 6#4⟩),
  (0x123B154A12564AB6#64, .andn ⟨33#7, 18#7, 5#3, 73#7, 2#3, 11#4, 6#4⟩),
  (0x123B164A1253579A#64, .andi ⟨33#7, 18#7, 1267610#21⟩),
  (0x123B174A1253579A#64, .ori ⟨33#7, 18#7, 1267610#21⟩),
  (0x123B184A1253579A#64, .xori ⟨33#7, 18#7, 1267610#21⟩),
  (0x123B194A12564AB6#64, .shl ⟨33#7, 18#7, 5#3, 73#7, 2#3, 11#4, 6#4⟩),
  (0x123B1A4A12564AB6#64, .shr ⟨33#7, 18#7, 5#3, 73#7, 2#3, 11#4, 6#4⟩),
  (0x123B1B4A12564AB6#64, .shra ⟨33#7, 18#7, 5#3, 73#7, 2#3, 11#4, 6#4⟩),
  (0x123B1C4A12564AB6#64, .rot ⟨33#7, 18#7, 5#3, 73#7, 2#3, 11#4, 6#4⟩),
  (0x123B1D4A1253579A#64, .shi ⟨33#7, 18#7, 1267610#21⟩)] = true := by decide

theorem test_words_integerC : decodes [
  (0x123B1E4A12564AB6#64, .clz ⟨33#7, 18#7, 5#3, 73#7, 2#3, 11#4, 6#4⟩),
  (0x123B1F4A12564AB6#64, .popc ⟨33#7, 18#7, 5#3, 73#7, 2#3, 11#4, 6#4⟩),
  (0x123B204A12564AB6#64, .brev ⟨33#7, 18#7, 5#3, 73#7, 2#3, 11#4, 6#4⟩),
  (0x123B214A1253579A#64, .bfx ⟨33#7, 18#7, 1267610#21⟩),
  (0x123B224A1253579A#64, .bfi ⟨33#7, 18#7, 1267610#21⟩),
  (0x123B234A12564AB6#64, .cmp ⟨33#7, 18#7, 5#3, 73#7, 2#3, 11#4, 6#4⟩),
  (0x123B244A124C9ABE#64, .sel ⟨33#7, 18#7, 1#2, 73#7, 2#2, 87#7, 6#3⟩),
  (0x123B254A124ACE35#64, .pset ⟨33#7, 18#7, 708149#21⟩),
  (0x123B264A12564AB6#64, .lea ⟨33#7, 18#7, 5#3, 73#7, 2#3, 11#4, 6#4⟩),
  (0x123B274A12564AB6#64, .addc ⟨33#7, 18#7, 5#3, 73#7, 2#3, 11#4, 6#4⟩),
  (0x123B284A12564AB6#64, .pack ⟨33#7, 18#7, 5#3, 73#7, 2#3, 11#4, 6#4⟩),
  (0x123B294A12564AB6#64, .unpk ⟨33#7, 18#7, 5#3, 73#7, 2#3, 11#4, 6#4⟩),
  (0x123B2A4A1253579A#64, .shuf ⟨33#7, 18#7, 1267610#21⟩),
  (0x123B2B4A124C9ABE#64, .dot4 ⟨33#7, 18#7, 1#2, 73#7, 2#2, 87#7, 6#3⟩),
  (0x123B2C4A124C9ABE#64, .dot2 ⟨33#7, 18#7, 1#2, 73#7, 2#2, 87#7, 6#3⟩)] = true := by decide

theorem test_words_controlA : decodes [
  (0x123B404A124ACE35#64, .cnti ⟨33#7, 18#7, 708149#21⟩),
  (0x123B414A124ACE35#64, .cnts ⟨33#7, 18#7, 708149#21⟩),
  (0x123B424A124ACE35#64, .cntv ⟨33#7, 18#7, 708149#21⟩),
  (0x123B434A124ACE35#64, .cntt ⟨33#7, 18#7, 708149#21⟩),
  (0x123B444A124ACE35#64, .sws ⟨33#7, 18#7, 708149#21⟩),
  (0x123B454A124ACE35#64, .rotb ⟨33#7, 18#7, 708149#21⟩),
  (0x123B464A124ACE35#64, .toks ⟨33#7, 18#7, 708149#21⟩),
  (0x123B474A12526AB5#64, .tokw ⟨33#7, 18#7, 73#7, 341#9, 2#2, 5#3⟩),
  (0x123B484A124ACE35#64, .tokt ⟨33#7, 18#7, 708149#21⟩),
  (0x123B494A124ACE35#64, .loopb ⟨33#7, 18#7, 708149#21⟩),
  (0x123B4A4A124ACE35#64, .loope ⟨33#7, 18#7, 708149#21⟩),
  (0x123B4B4800000000#64, .halts),
  (0x123B4C4A12526AB5#64, .waitw ⟨33#7, 18#7, 73#7, 341#9, 2#2, 5#3⟩),
  (0x123B4D4A12526AB5#64, .latch ⟨33#7, 18#7, 73#7, 341#9, 2#2, 5#3⟩),
  (0x123B4E4800000000#64, .endp)] = true := by decide

theorem test_words_controlB : decodes [
  (0x123B4F4A124ACE35#64, .handl ⟨33#7, 18#7, 708149#21⟩)] = true := by decide

theorem test_words_memoryA : decodes [
  (0x123B604A1B4BCDE9#64, .ldl ⟨33#7, 5#3, 10#4, 773609#21⟩),
  (0x123B614A1B4BCDE9#64, .stl ⟨33#7, 5#3, 10#4, 773609#21⟩),
  (0x123B624A1B4BCDE9#64, .lds ⟨33#7, 5#3, 10#4, 773609#21⟩),
  (0x123B634A1B4BCDE9#64, .sts ⟨33#7, 5#3, 10#4, 773609#21⟩),
  (0x123B644A124ACE35#64, .sopen ⟨33#7, 18#7, 708149#21⟩),
  (0x123B654A1B4BCDE9#64, .smark ⟨33#7, 5#3, 10#4, 773609#21⟩),
  (0x123B664A1B4BCDE9#64, .srew ⟨33#7, 5#3, 10#4, 773609#21⟩),
  (0x123B674A1B4BCDE9#64, .sclose ⟨33#7, 5#3, 10#4, 773609#21⟩),
  (0x123B684A1B4BCDE9#64, .fpush ⟨33#7, 5#3, 10#4, 773609#21⟩),
  (0x123B694A1B4BCDE9#64, .fpop ⟨33#7, 5#3, 10#4, 773609#21⟩),
  (0x123B6A4A1B4BCDE9#64, .lbsh ⟨33#7, 5#3, 10#4, 773609#21⟩),
  (0x123B6B4A1B4BCDE9#64, .lbrd ⟨33#7, 5#3, 10#4, 773609#21⟩),
  (0x123B6C4A124ACE35#64, .cpy ⟨33#7, 18#7, 708149#21⟩),
  (0x123B6D4A12526AB5#64, .cpyw ⟨33#7, 18#7, 73#7, 341#9, 2#2, 5#3⟩),
  (0x123B6E4A124ACE35#64, .cpyt ⟨33#7, 18#7, 708149#21⟩)] = true := by decide

theorem test_words_memoryB : decodes [
  (0x123B6F4A1B4BCDE9#64, .gath ⟨33#7, 5#3, 10#4, 773609#21⟩),
  (0x123B704A1B4BCDE9#64, .scat ⟨33#7, 5#3, 10#4, 773609#21⟩),
  (0x123B714A1B4BCDE9#64, .rmw ⟨33#7, 5#3, 10#4, 773609#21⟩),
  (0x123B724A1B4BCDE9#64, .red ⟨33#7, 5#3, 10#4, 773609#21⟩),
  (0x123B734A124ACE35#64, .cmo ⟨33#7, 18#7, 708149#21⟩),
  (0x123B744A124ACE35#64, .retn ⟨33#7, 18#7, 708149#21⟩),
  (0x123B754A124ACE35#64, .unpin ⟨33#7, 18#7, 708149#21⟩),
  (0x123B764A1B4BCDE9#64, .hint ⟨33#7, 5#3, 10#4, 773609#21⟩),
  (0x123B774A1B4BCDE9#64, .pref ⟨33#7, 5#3, 10#4, 773609#21⟩),
  (0x123B784A1B4BCDE9#64, .hepr ⟨33#7, 5#3, 10#4, 773609#21⟩),
  (0x123B794A1B4BCDE9#64, .hepw ⟨33#7, 5#3, 10#4, 773609#21⟩),
  (0x123B7A4A1B4BCDE9#64, .stag ⟨33#7, 5#3, 10#4, 773609#21⟩),
  (0x123B7B4A1B4BCDE9#64, .bufsw ⟨33#7, 5#3, 10#4, 773609#21⟩)] = true := by decide

theorem test_words_sync : decodes [
  (0x123B804A124ACE35#64, .sbar ⟨33#7, 18#7, 708149#21⟩),
  (0x123B814A124ACE35#64, .fence ⟨33#7, 18#7, 708149#21⟩),
  (0x123B824A124ACE35#64, .bara ⟨33#7, 18#7, 708149#21⟩),
  (0x123B834A12526AB5#64, .barw ⟨33#7, 18#7, 73#7, 341#9, 2#2, 5#3⟩),
  (0x123B844A124ACE35#64, .bart ⟨33#7, 18#7, 708149#21⟩),
  (0x123B854800000000#64, .keys),
  (0x123B864A12526AB5#64, .keyw ⟨33#7, 18#7, 73#7, 341#9, 2#2, 5#3⟩),
  (0x123B874A124ACE35#64, .acq ⟨33#7, 18#7, 708149#21⟩),
  (0x123B884A124ACE35#64, .rel ⟨33#7, 18#7, 708149#21⟩),
  (0x123B894A12526AB5#64, .drain ⟨33#7, 18#7, 73#7, 341#9, 2#2, 5#3⟩)] = true := by decide

theorem test_words_floatA : decodes [
  (0x123B904A12564AB6#64, .fadd ⟨33#7, 18#7, 5#3, 73#7, 2#3, 11#4, 6#4⟩),
  (0x123B914A12564AB6#64, .fsub ⟨33#7, 18#7, 5#3, 73#7, 2#3, 11#4, 6#4⟩),
  (0x123B924A12564AB6#64, .fmul ⟨33#7, 18#7, 5#3, 73#7, 2#3, 11#4, 6#4⟩),
  (0x123B934A124C9ABE#64, .fma ⟨33#7, 18#7, 1#2, 73#7, 2#2, 87#7, 6#3⟩),
  (0x123B944A12564AB6#64, .fmin ⟨33#7, 18#7, 5#3, 73#7, 2#3, 11#4, 6#4⟩),
  (0x123B954A12564AB6#64, .fmax ⟨33#7, 18#7, 5#3, 73#7, 2#3, 11#4, 6#4⟩),
  (0x123B964A12564AB6#64, .fabs ⟨33#7, 18#7, 5#3, 73#7, 2#3, 11#4, 6#4⟩),
  (0x123B974A12564AB6#64, .fneg ⟨33#7, 18#7, 5#3, 73#7, 2#3, 11#4, 6#4⟩),
  (0x123B984A12564AB6#64, .fcmp ⟨33#7, 18#7, 5#3, 73#7, 2#3, 11#4, 6#4⟩),
  (0x123B994A12564AB6#64, .fcls ⟨33#7, 18#7, 5#3, 73#7, 2#3, 11#4, 6#4⟩),
  (0x123B9A4A12526AB5#64, .fdiv ⟨33#7, 18#7, 73#7, 341#9, 2#2, 5#3⟩),
  (0x123B9B4A12526AB5#64, .fsqrt ⟨33#7, 18#7, 73#7, 341#9, 2#2, 5#3⟩),
  (0x123B9C4A12564AB6#64, .fex2 ⟨33#7, 18#7, 5#3, 73#7, 2#3, 11#4, 6#4⟩),
  (0x123B9D4A12564AB6#64, .flg2 ⟨33#7, 18#7, 5#3, 73#7, 2#3, 11#4, 6#4⟩),
  (0x123B9E4A12564AB6#64, .frnd ⟨33#7, 18#7, 5#3, 73#7, 2#3, 11#4, 6#4⟩)] = true := by decide

theorem test_words_floatB : decodes [
  (0x123B9F4A12564AB6#64, .cvt ⟨33#7, 18#7, 5#3, 73#7, 2#3, 11#4, 6#4⟩),
  (0x123BA04A12564AB6#64, .cvti ⟨33#7, 18#7, 5#3, 73#7, 2#3, 11#4, 6#4⟩),
  (0x123BA14A12564AB6#64, .cvtf ⟨33#7, 18#7, 5#3, 73#7, 2#3, 11#4, 6#4⟩),
  (0x123BA24A124C9ABE#64, .qnt ⟨33#7, 18#7, 1#2, 73#7, 2#2, 87#7, 6#3⟩),
  (0x123BA34A124C9ABE#64, .dqnt ⟨33#7, 18#7, 1#2, 73#7, 2#2, 87#7, 6#3⟩),
  (0x123BA44A12564AB6#64, .bsc ⟨33#7, 18#7, 5#3, 73#7, 2#3, 11#4, 6#4⟩),
  (0x123BA54A12564AB6#64, .hdrw ⟨33#7, 18#7, 5#3, 73#7, 2#3, 11#4, 6#4⟩),
  (0x123BA64A12564AB6#64, .hdrr ⟨33#7, 18#7, 5#3, 73#7, 2#3, 11#4, 6#4⟩),
  (0x123BA74A12564AB6#64, .bfly ⟨33#7, 18#7, 5#3, 73#7, 2#3, 11#4, 6#4⟩),
  (0x123BA84A12564AB6#64, .fsum ⟨33#7, 18#7, 5#3, 73#7, 2#3, 11#4, 6#4⟩),
  (0x123BA94A124C9ABE#64, .fdot ⟨33#7, 18#7, 1#2, 73#7, 2#2, 87#7, 6#3⟩),
  (0x123BAA4A12564AB6#64, .fmaxa ⟨33#7, 18#7, 5#3, 73#7, 2#3, 11#4, 6#4⟩),
  (0x123BAB4A12564AB6#64, .fscl ⟨33#7, 18#7, 5#3, 73#7, 2#3, 11#4, 6#4⟩)] = true := by decide

theorem test_words_matrix : decodes [
  (0x123BC04CAD38EA80#64, .mclm ⟨37#6, 26#6, 1#2, 12#4, 3#3, 85#7, 0#7⟩),
  (0x123BC14CAD38EA80#64, .mrel ⟨37#6, 26#6, 1#2, 12#4, 3#3, 85#7, 0#7⟩),
  (0x123BC24CAD38EA80#64, .mld ⟨37#6, 26#6, 1#2, 12#4, 3#3, 85#7, 0#7⟩),
  (0x123BC34CAD38EA80#64, .mst ⟨37#6, 26#6, 1#2, 12#4, 3#3, 85#7, 0#7⟩),
  (0x123BC44CAD38EA80#64, .mzro ⟨37#6, 26#6, 1#2, 12#4, 3#3, 85#7, 0#7⟩),
  (0x123BC54CAD38EA80#64, .mma ⟨37#6, 26#6, 1#2, 12#4, 3#3, 85#7, 0#7⟩),
  (0x123BC64CAD38EA80#64, .mmas ⟨37#6, 26#6, 1#2, 12#4, 3#3, 85#7, 0#7⟩),
  (0x123BC74CAD38EA80#64, .mout ⟨37#6, 26#6, 1#2, 12#4, 3#3, 85#7, 0#7⟩),
  (0x123BC84CAD38EA80#64, .mtrn ⟨37#6, 26#6, 1#2, 12#4, 3#3, 85#7, 0#7⟩),
  (0x123BC94CAD38EA80#64, .mctr ⟨37#6, 26#6, 1#2, 12#4, 3#3, 85#7, 0#7⟩),
  (0x123BCA4CAD38EA80#64, .msrt ⟨37#6, 26#6, 1#2, 12#4, 3#3, 85#7, 0#7⟩),
  (0x123BCB4CAD38EA80#64, .mkey ⟨37#6, 26#6, 1#2, 12#4, 3#3, 85#7, 0#7⟩),
  (0x123BCC4CAD38EA80#64, .macc ⟨37#6, 26#6, 1#2, 12#4, 3#3, 85#7, 0#7⟩)] = true := by decide

theorem test_words_folio : decodes [
  (0x123BD04A124ACE35#64, .folb ⟨33#7, 18#7, 708149#21⟩),
  (0x123BD14A124ACE35#64, .folv ⟨33#7, 18#7, 708149#21⟩),
  (0x123BD24A1B4BCDE9#64, .fold ⟨33#7, 5#3, 10#4, 773609#21⟩),
  (0x123BD34CAD38EA80#64, .folm ⟨37#6, 26#6, 1#2, 12#4, 3#3, 85#7, 0#7⟩),
  (0x123BD44A124ACE35#64, .folc ⟨33#7, 18#7, 708149#21⟩),
  (0x123BD54A124ACE35#64, .folr ⟨33#7, 18#7, 708149#21⟩),
  (0x123BD64A124ACE35#64, .foli ⟨33#7, 18#7, 708149#21⟩),
  (0x123BD74A124ACE35#64, .folq ⟨33#7, 18#7, 708149#21⟩),
  (0x123BD84A124ACE35#64, .rowopen ⟨33#7, 18#7, 708149#21⟩),
  (0x123BD94A124ACE35#64, .rowhold ⟨33#7, 18#7, 708149#21⟩),
  (0x123BDA4A124ACE35#64, .rowrel ⟨33#7, 18#7, 708149#21⟩),
  (0x123BDB4A1B4BCDE9#64, .rowrd ⟨33#7, 5#3, 10#4, 773609#21⟩),
  (0x123BDC4A1B4BCDE9#64, .rowwr ⟨33#7, 5#3, 10#4, 773609#21⟩),
  (0x123BDD4A124ACE35#64, .rowq ⟨33#7, 18#7, 708149#21⟩)] = true := by decide

theorem test_words_soft : decodes [
  (0x123BE04A124ACE35#64, .stkh ⟨33#7, 18#7, 708149#21⟩),
  (0x123BE14A124ACE35#64, .stkm ⟨33#7, 18#7, 708149#21⟩),
  (0x123BE24A124ACE35#64, .stka ⟨33#7, 18#7, 708149#21⟩),
  (0x123BE34A124ACE35#64, .stkn ⟨33#7, 18#7, 708149#21⟩),
  (0x123BE44A1B4BCDE9#64, .stke ⟨33#7, 5#3, 10#4, 773609#21⟩),
  (0x123BE54A124ACE35#64, .stkq ⟨33#7, 18#7, 708149#21⟩),
  (0x123BE64A124ACE35#64, .collapse ⟨33#7, 18#7, 708149#21⟩),
  (0x123BE74A124ACE35#64, .gmsk ⟨33#7, 18#7, 708149#21⟩),
  (0x123BE84A124ACE35#64, .gstp ⟨33#7, 18#7, 708149#21⟩),
  (0x123BE94A12526AB5#64, .vtxt ⟨33#7, 18#7, 73#7, 341#9, 2#2, 5#3⟩),
  (0x123BEA4A124ACE35#64, .stopStr ⟨33#7, 18#7, 708149#21⟩),
  (0x123BEB4A124ACE35#64, .plog ⟨33#7, 18#7, 708149#21⟩),
  (0x123BEC4A12526AB5#64, .phsh ⟨33#7, 18#7, 73#7, 341#9, 2#2, 5#3⟩),
  (0x123BED4A124ACE35#64, .prpl ⟨33#7, 18#7, 708149#21⟩)] = true := by decide

theorem test_words_system : decodes [
  (0x123BF04A124ACE35#64, .trap ⟨33#7, 18#7, 708149#21⟩),
  (0x123BF14A124ACE35#64, .idnt ⟨33#7, 18#7, 708149#21⟩),
  (0x123BF24A124ACE35#64, .time ⟨33#7, 18#7, 708149#21⟩),
  (0x123BF34A124ACE35#64, .pmcf ⟨33#7, 18#7, 708149#21⟩),
  (0x123BF44A124ACE35#64, .pmrd ⟨33#7, 18#7, 708149#21⟩),
  (0x123BF54A124ACE35#64, .pmwr ⟨33#7, 18#7, 708149#21⟩),
  (0x123BF64A124ACE35#64, .rngs ⟨33#7, 18#7, 708149#21⟩),
  (0x123BF74A124ACE35#64, .cfgr ⟨33#7, 18#7, 708149#21⟩),
  (0x123BF84A124ACE35#64, .dbrk ⟨33#7, 18#7, 708149#21⟩),
  (0x123BF94800000000#64, .halt),
  (0x123BFA4A124ACE35#64, .fltm ⟨33#7, 18#7, 708149#21⟩),
  (0x123BFB4A124ACE35#64, .sigq ⟨33#7, 18#7, 708149#21⟩)] = true := by decide
/-! ## Decoding: host messages (R37, R45) and sideband writes (R32, R56, R256) -/

/-- The bytes of a message of n units whose bytes are 0 but for those listed. -/
def bytesAt (n : Nat) (l : List (Nat × Nat)) : List Byte :=
  (List.range (64 * n)).map (fun o => BitVec.ofNat 8 (((l.find? (fun p => p.1 == o)).map Prod.snd).getD 0))

/-- SEQ 5, FUNC 3, ACKN 7, TAG 0x0201. -/
def hd5 (kind units : Nat) : List (Nat × Nat) := [(0, 5), (4, kind), (5, 3), (6, units), (8, 7), (12, 1), (13, 2)]
def h5 : MsgHdr := ⟨5#32, 3#6, 7#32, 0x201#32, false⟩

theorem test_msg_create : decodeMsg (bytesAt 1 (hd5 0x01 1 ++ [(16, 9), (17, 1), (18, 0x34), (19, 0x12), (20, 64), (21, 5), (22, 3),
    (25, 2), (30, 1), (33, 1)])) = .tenantCreate h5 9#8 1#8 0x1234#16 64#8 5#8 3#16 512#32 65536#32 256#32 := by decide
theorem test_msg_budget : decodeMsg (bytesAt 1 (hd5 0x02 1 ++ [(18, 1), (28, 7)])) =
    .tenantBudget h5 0#8 0#8 1#16 0#8 0#8 0#16 0#32 7#32 0#32 := by decide
theorem test_msg_destroy : decodeMsg (bytesAt 1 (hd5 0x03 1 ++ [(16, 63)])) = .tenantDestroy h5 63#8 := by decide
theorem test_msg_load : decodeMsg (bytesAt 1 (hd5 0x04 1 ++ [(16, 8), (25, 0x10), (31, 1), (33, 0x20)])) =
    .imageLoad h5 8#8 0x0100000000001000#64 0x2000#32 := by decide
theorem test_msg_bind : decodeMsg (bytesAt 1 (hd5 0x05 1 ++ [(16, 8), (17, 15), (18, 63), (24, 0x40), (37, 1)])) =
    .endpointBind h5 8#8 15#8 63#8 0x40#64 0x10000000000#64 := by decide
set_option maxRecDepth 4000 in
theorem test_msg_launch : decodeMsg (bytesAt 2 (hd5 0x06 2 ++ [(16, 8), (17, 1), (18, 2), (20, 7), (21, 48), (64, 0xAA), (111, 1)])) =
    .launch h5 8#8 1#8 2#16 7#8 48#8 ((1#384 <<< 376) ||| 0xAA#384) := by decide
theorem test_msg_signals : [0, 1, 2].map (fun m => decodeMsg (bytesAt 1 (hd5 0x07 1 ++ [(16, m), (20, 4), (24, 6)]))) =
    [.signalValue h5 4#32 6#32, .signalResume h5 4#32 6#32, .signalAbort h5 4#32 6#32] := by decide
theorem test_msg_cancel : decodeMsg (bytesAt 1 (hd5 0x08 1 ++ [(16, 1), (23, 1)])) = .cancel h5 1#8 0x01000000#32 := by decide
theorem test_msg_query : decodeMsg (bytesAt 1 (hd5 0x09 1 ++ [(16, 2)])) = .query h5 2#8 0#32 := by decide
theorem test_msg_management : decodeMsg (bytesAt 1 (hd5 0x10 1 ++ [(25, 0x10), (32, 1)])) = .fwStage h5 0x1000#64 1#32 ∧
    decodeMsg (bytesAt 1 (hd5 0x11 1 ++ [(16, 0x81), (17, 2)])) = .fwActivate h5 0x81#8 2#8 ∧
    decodeMsg (bytesAt 1 (hd5 0x12 1 ++ [(16, 3), (17, 7)])) = .calRun h5 3#8 7#8 := by decide
theorem test_msg_retire : decodeMsg (bytesAt 1 (hd5 0x13 1 ++ [(16, 1), (17, 15), (18, 17), (26, 0x20), (34, 0x40)])) =
    .retire h5 1#8 15#8 17#8 0x200000#64 0x400000#64 := by decide
theorem test_msg_unknown : decodeMsg (bytesAt 1 (hd5 0x0A 1)) = .unknownKind h5 0x0A#8 := by decide
/-- A reserved byte, a wrong number of units and a MODE of 3 make a message malformed (R44). -/
theorem test_msg_malformed : decodeMsg (bytesAt 1 (hd5 0x03 1 ++ [(16, 1), (40, 1)])) = .tenantDestroy { h5 with bad := true } 1#8 ∧
    decodeMsg (bytesAt 1 (hd5 0x03 2 ++ [(16, 1)])) = .tenantDestroy { h5 with bad := true } 1#8 ∧
    decodeMsg (bytesAt 1 (hd5 0x07 1 ++ [(16, 3)])) = .signalValue { h5 with bad := true } 0#32 0#32 := by decide
theorem test_encode_message : (encodeMsg (.cancel h5 1#8 4#32)) = some (bytesAt 1 (hd5 0x08 1 ++ [(16, 1), (20, 4)])) := by decide

theorem test_sideband : decodeSbw 0x020#32 0xA5C10001#32 = [.rstctlWarmReset] ∧ decodeSbw 0x020#32 0xA5C10002#32 = [.rstctlColdReset] ∧
    decodeSbw 0x020#32 0xA5C00001#32 = [.registerWriteIgnored 0x020#32 0xA5C00001#32] ∧
    decodeSbw 0x05C#32 0x80000000#32 = [.droopCountClear 7] ∧ decodeSbw 0x108#32 9#32 = [.nmpdackWrite 9#32] ∧
    decodeSbw 0x10C#32 1#32 = [.nmpctlHoldSet] ∧ decodeSbw 0x10C#32 3#32 = [.nmpctlHoldSet, .nmpctlResync] ∧
    decodeSbw 0x10C#32 8#32 = [.nmpctlHoldRelease, .nmpctlResend] ∧ decodeSbw 0x110#32 1#32 = [.nmperrClear 1#32] ∧
    decodeSbw 0x180#32 0x80000000#32 = [.eccCountClear false] ∧ decodeSbw 0x184#32 0x80000000#32 = [.eccCountClear true] ∧
    decodeSbw 0x000#32 0#32 = [.registerWriteIgnored 0#32 0#32] := by decide

/-- The encoder gives the words back, and a reserved and the illegal opcode are refused by name (R303). -/
theorem test_encode : encodeEntry (hd (.movi ⟨33#7, 18#7, 1267610#21⟩)) = 0x123B024A1253579A#64 ∧
    decodeEntry 0x00002D0000000000#64 = .error .reservedOpcode ∧ decodeEntry 0x0000FF0000000000#64 = .error .illegalOpcode ∧
    decodeEntry 0x0000000000000001#64 = .error .reservedBits := by
  refine ⟨by decide, by rfl, by rfl, by rfl⟩

/-! ## Words that an element must refuse (R304) -/

theorem test_bad_kind : (Instr.mul (fT 4 3 5 4 0)).bad .me 0#32 = some .kind := by decide
theorem test_bad_field : (Instr.add (fT 4 3 5 14 0)).bad .ce 0#32 = some .field ∧
    (Instr.div (fW 6 4 7 0 0 0)).bad .ce 0#32 = some .field := by decide
theorem test_bad_reserved : (Instr.movi (fI 4 1 0)).bad .ce 0#32 = some .reserved ∧
    (Instr.pset (fK 0 0 0x40000)).bad .ce 0#32 = some .reserved := by decide
theorem test_bad_code : (Instr.add (fT 4 90 5 0 0)).bad .ce 0#32 = some .code := by decide
theorem test_bad_role : (Instr.cmp (fT 4 3 5 0 0)).bad .ce 0#32 = some .role ∧
    (Instr.add (fT 4 20 5 0 0)).bad .me 0#32 = some .role := by decide
theorem test_bad_limit : (Instr.lea (fT 4 3 5 0 5)).bad .ce 0#32 = some .limit ∧
    (Instr.bfx (fI 4 3 0x3F0)).bad .ce 0#32 = some .limit := by decide
theorem test_well_formed : (Instr.add (fT 4 3 5 0 0)).bad .ce 0#32 = none ∧ (Instr.ldl (fM 2 0 0 64)).bad .me 0#32 = none := by decide

/-! ## Sample results that the spec prints, or that follow from its figures by hand -/

def ab : State := ce [(1, 0x80FF7F01#32), (2, 0x02020202#32), (3, 0x12345678#32), (4, 100000#32), (5, 0xFFFFFFFB#32)]

/-- R310: the upper part of 0x12345678. -/
theorem test_movhi : rd (.movhi (fI 6 1 0x2468A)) (ce [(1, 0x678#32)]) 6 = 0x12345678#32 := by decide
theorem test_addi_negative : rd (.addi (fI 6 2 0x1FFFFF)) ab 6 = 0x02020201#32 := by decide
theorem test_lea : rd (.lea (fT 6 2 2 0 2)) ab 6 = 0x0A0A0A0A#32 := by decide
/-- R312: the sample lane results. -/
theorem test_add_lanes : rd (.add (fT 6 1 2 4 0)) ab 6 = 0x82018103#32 := by decide
theorem test_adds_signed : rd (.adds (fT 6 1 2 4 0)) ab 6 = 0x82017F03#32 := by decide
theorem test_adds_unsigned : rd (.adds (fT 6 1 2 5 0)) ab 6 = 0x82FF8103#32 := by decide
theorem test_subs : rd (.subs (fT 6 1 2 5 0)) ab 6 = 0x7EFD7D00#32 := by decide
theorem test_mulh : rd (.mulh (fT 6 1 2 4 0)) ab 6 = 0xFFFF0000#32 := by decide
theorem test_shra : rd (.shra (fT 6 1 2 4 0)) ab 6 = 0xE0FF1F00#32 := by decide
theorem test_clz : rd (.clz (fT 6 1 0 5 0)) ab 6 = 0x00000107#32 := by decide
theorem test_sub_wraps : rd (.sub (fT 6 2 1 0 0)) ab 6 = 0x81028301#32 := by decide
theorem test_neg_saturates : rd (.neg (fT 6 1 0 0 1)) (ce [(1, 0x80000000#32)]) 6 = 0x7FFFFFFF#32 := by decide
theorem test_abs_wraps : rd (.abs (fT 6 1 0 0 0)) (ce [(1, 0x80000000#32)]) 6 = 0x80000000#32 := by decide
theorem test_min_signed : rd (.min (fT 6 1 2 4 0)) ab 6 = 0x80FF0201#32 := by decide
theorem test_max_unsigned : rd (.max (fT 6 1 2 5 0)) ab 6 = 0x80FF7F02#32 := by decide
theorem test_mul : rd (.mul (fT 6 4 4 0 0)) ab 6 = 0x540BE400#32 := by decide
theorem test_logic : rd (.andW (fT 6 1 2 0 0)) ab 6 = 0x00020200#32 ∧ rd (.orW (fT 6 1 2 0 0)) ab 6 = 0x82FF7F03#32 ∧
    rd (.xorW (fT 6 1 2 0 0)) ab 6 = 0x82FD7D03#32 ∧ rd (.andn (fT 6 1 2 0 0)) ab 6 = 0x80FD7D01#32 := by decide
theorem test_shl_full_width : rd (.shl (fT 6 1 2 0 0)) (ce [(1, 1#32), (2, 32#32)]) 6 = 0#32 := by decide
theorem test_shr_lanes : rd (.shr (fT 6 1 2 5 0)) ab 6 = 0x203F1F00#32 := by decide
theorem test_rot : rd (.rot (fT 6 1 2 4 0)) ab 6 = 0x02FFFD04#32 := by decide
theorem test_popc : rd (.popc (fT 6 1 0 4 0)) ab 6 = 0x01080701#32 := by decide
theorem test_brev : rd (.brev (fT 6 1 0 4 0)) ab 6 = 0x01FFFE80#32 := by decide
theorem test_shi_rotates : rd (.shi (fI 6 3 (3 * 32 + 8))) ab 6 = 0x34567812#32 := by decide
/-- R317: packing 100,000 and -5, and widening 0x80FF7F01. -/
theorem test_pack : rd (.pack (fT 6 4 5 2 0)) ab 6 = 0xFFFB7FFF#32 ∧ rd (.pack (fT 6 4 5 2 1)) ab 6 = 0xFFFB86A0#32 := by decide
theorem test_unpk : rd (.unpk (fT 6 1 0 4 0)) ab 6 = 0x007F0001#32 ∧ rd (.unpk (fT 6 1 0 4 1)) ab 6 = 0xFF80FFFF#32 := by decide
/-- R318: the bytes reversed. -/
theorem test_shuf : rd (.shuf (fI 6 3 0x0123)) ab 6 = 0x78563412#32 := by decide
theorem test_bfx : rd (.bfx (fI 6 3 (0x400 + 3 * 32 + 4))) ab 6 = 7#32 := by decide
theorem test_bfi : rd (.bfi (fI 3 2 (7 * 32 + 8))) ab 3 = 0x12340278#32 := by decide
theorem test_mad : rd (.mad (fF 6 1 2 2 4)) ab 6 = 0x02000004#32 := by decide
theorem test_sel_predicate : rd (.sel (fF 6 1 2 97 0)) ab 6 = 0x02020202#32 ∧ rd (.sel (fF 6 1 2 96 0)) ab 6 = 0x80FF7F01#32 := by decide
theorem test_dot4 : rd (.dot4 (fF 6 1 2 5 4)) ab 6 = 0xFFFFFFF9#32 := by decide
theorem test_dot2 : rd (.dot2 (fF 6 4 4 5 3)) ab 6 = 0x46CBE3FC#32 := by decide
/-- R314: adding with no carry in, whose carry goes to p1. -/
theorem test_addc : rd (.addc (fT 6 5 5 0 1)) ab 6 = 0xFFFFFFF6#32 ∧ (after (.addc (fT 6 5 5 0 1)) ab).nowE.p.get false 1 = true := by decide
/-- R321: 7 ≥ 3 of S32, and any lane of 4S8 below. -/
theorem test_cmp : (after (.cmp (fT 97 4 2 0 3)) ab).nowE.p.get false 1 = false ∧ (after (.cmp (fT 97 1 2 4 10)) ab).nowE.p.get false 1 = true := by decide
/-- R322: the sample `PSET set, 0x06, 0x02` sets p1 and clears p2. -/
theorem test_pset : (after (.pset (fK 0 0 0x206)) ab).nowE.p.get false 1 = true ∧ (after (.pset (fK 0 0 0x206)) ab).nowE.p.get true 2 = false := by decide
/-- R319: the most negative number by -1, and a division by 0. -/
theorem test_div : (after (.div (fW 6 1 2 21 0 0)) (ce [(1, 0x80000000#32), (2, 0xFFFFFFFF#32)])).nowE.wins.vals.map (·.kind) =
    [.result 120 0x80000000#32] ∧ (after (.div (fW 6 1 2 21 0 0)) (ce [(1, 7#32)])).nowE.wins.vals.map (·.kind) = [.result 120 0xFFFFFFFF#32] := by decide
theorem test_rem : (after (.rem (fW 6 1 2 21 0 0)) (ce [(1, 0xFFFFFFF9#32), (2, 3#32)])).nowE.wins.vals.map (·.kind) =
    [.result 120 0xFFFFFFFF#32] := by decide
/-- R324, R333: CNTI in mode wrap, and LOOPE that finds its counter at 0. -/
theorem test_cnti : (after (.cnti (fK 0 1 8)) (ce [(1, 2#32)])).nowE.c.get Counter.zero 0 = ⟨2#32, 2#32, 1#2, false⟩ := by decide
theorem test_loope : (after (.loope (fK 0 0 0x8081)) ab).rg.now.toks = [⟨0, 2, 104⟩] := by decide
theorem test_cascade : (stepCounters (fun i _ => i == 0) [(0, ⟨0#32, 2#32, 1#2, false⟩), (1, ⟨5#32, 9#32, 3#2, true⟩)]) =
    [(0, ⟨2#32, 2#32, 1#2, true⟩), (1, ⟨4#32, 9#32, 3#2, false⟩)] := by decide
theorem test_sws : ((after (.sws (fK 0 0 1)) ab).rg.now.span 0 0).choice = some true := by decide
/-- R370, R375: 1 + 1, the minimum with -0, and the class of infinity. -/
theorem test_fadd : rd (.fadd (fT 6 1 1 8 0)) (ce [(1, 0x3F800000#32)]) 6 = 0x40000000#32 := by decide
theorem test_fmul_overflow : rd (.fmul (fT 6 1 1 8 0)) (ce [(1, 0x7F7FFFFF#32)]) 6 = 0x7F800000#32 := by decide
theorem test_fsub_tie : rd (.fsub (fT 6 1 2 8 0)) (ce [(1, 0x3F800001#32), (2, 0x33800000#32)]) 6 = 0x3F800000#32 := by decide
theorem test_fcmp_nan : (after (.fcmp (fT 97 1 1 8 6)) (ce [(1, 0x7FC00000#32)])).nowE.p.get false 1 = true := by decide
theorem test_fma : rd (.fma (fF 6 1 1 1 0)) (ce [(1, 0x40000000#32)]) 6 = 0x40C00000#32 := by decide
theorem test_fdiv : (after (.fdiv (fW 6 1 2 30 0 0)) (ce [(1, 0x3F800000#32), (2, 0x40400000#32)])).nowE.wins.vals.map (·.kind) =
    [.result 124 0x3EAAAAAB#32] := by decide
set_option maxRecDepth 4000 in
theorem test_fsqrt : (after (.fsqrt (fW 6 1 0 30 0 0)) (ce [(1, 0x40800000#32)])).nowE.wins.vals.map (·.kind) =
    [.result 124 0x40000000#32] := by decide
theorem test_cvti : rd (.cvti (fT 6 1 4 8 0)) (ce [(1, 0x43E00000#32)]) 6 = 0x7F#32 := by decide
theorem test_cvtf : rd (.cvtf (fT 6 1 8 0 0)) (ce [(1, 448#32)]) 6 = 0x43E00000#32 := by decide
/-- R195: 448 is 0x5F00 in FP16, 0x43E0 in BF16, 0x7E in E4M3. -/
theorem test_cvt_448 : rd (.cvt (fT 6 1 9 8 0)) (ce [(1, 0x43E00000#32)]) 6 = 0x5F00#32 ∧
    rd (.cvt (fT 6 1 10 8 0)) (ce [(1, 0x43E00000#32)]) 6 = 0x43E0#32 ∧ rd (.cvt (fT 6 1 12 8 0)) (ce [(1, 0x43E00000#32)]) 6 = 0x5F#32 ∧
    rd (.cvt (fT 6 1 11 8 0)) (ce [(1, 0x43E00000#32)]) 6 = 0x7E#32 := by decide
/-- R391, R393: a claim lands 1 once, and MZRO clears an accumulator. -/
theorem test_mclm : rd (.mclm (fX 3 0 0 1 0 6)) ab 6 = 1#32 ∧ rd (.mclm (fX 3 0 0 1 0 6)) (bench 0 [(0, { Elem.fresh .ce with claimed := [4] })]) 6 = 0#32 := by decide
theorem test_macc : rd (.macc (fX 1 2 0 0 0 6)) (bench 0 [(0, { Elem.fresh .ce with acc := [(6, 9#32)] })]) 6 = 9#32 := by decide
/-- R341: a byte of local memory lands zero-extended. -/
theorem test_ldl_byte : rd (.ldl (fM 6 0 2 5)) (me { Elem.fresh .me with sram := [(5, 0xF0#8)] }) 6 = 0xF0#32 := by decide
theorem test_stl_half : (after (.stl (fM 1 0 1 5)) (me { Elem.fresh .me with g := [(1, 0x12345678#32)] })).nowE.sram = [(4, 0x78#8), (5, 0x56#8)] := by decide
/-- A local access outside every group raises 0x43 (R338). -/
theorem test_ldl_outside : (after (.ldl (fM 6 0 0 0x2F000)) (me (Elem.fresh .me))).rg.raised.map (·.code) = [0x43] := by decide
/-- R330: a token sent is counted at the end of cycle s + 4. -/
theorem test_toks : (after (.toks (fK 0 0 1)) ab).rg.now.toks = [⟨0, 1, 104⟩] := by decide
/-- R307, R416: a seed of zeros becomes g_s3 = 1. -/
theorem test_rngs : (after (.rngs (fK 0 6 3)) (bench 0 [(0, { Elem.fresh .ce with gs0 := 0#32, gs1 := 0#32, gs2 := 0#32 })])).nowE.gs3 = 1#32 := by decide
/-- R414: IDNT 0 lands DEVID. -/
theorem test_idnt : rd (.idnt (fK 6 0 0)) ab 6 = 0xA5C10128#32 := by decide
/-- R207: 9 and 8 give the scale of 2^1, and e4m3_of(round_rne(9 / 2)) = 4.0, code 0x48. -/
theorem test_blockScale : blockScale 0 [.fin false 9 0, .fin false 8 0] = (128, 0x48) := by decide
/-- R32: LNKST of a port that has retrained once and is retraining at x8 with a spare in use; VIRST of a viral part; RSTCTL reads 0. -/
theorem test_sideband_read : ({ State.reset with ports := [(2, { Port.reset with st := .retraining, width := 8, spare := 1, rtcnt := 1 })] }).sideband 0x088 =
    0x00010051#32 ∧ ({ State.reset with viral := true, viralCause := 5#8 }).sideband 0x008 = 0x00000501#32 ∧ State.reset.sideband 0x020 = 0#32 := by decide
/-- R210, R211: a flip of one datapath is a mismatch, and the same flip of both, one bit higher in the shadow, is none. -/
theorem test_shadow : ({ ab with upsets := [⟨100, 0, 0, 0, false, 1#32, 0#33⟩] }).mismatch (.add (fT 6 1 2 0 0)) false = true ∧
    ({ ab with upsets := [⟨100, 0, 0, 0, false, 1#32, 2#33⟩] }).mismatch (.add (fT 6 1 2 0 0)) false = false ∧
    ab.mismatch (.add (fT 6 1 2 0 0)) false = false := by decide
/-- R211: such a flip of both is in the result that is written. -/
theorem test_flip : let s := { ab with upsets := [⟨100, 0, 0, 0, false, 1#32, 2#33⟩] }
    let i : Instr := .add (fT 6 1 2 0 0)
    ((after i s).compared s i false).nowE.g.get 0#32 6 = (after i s).nowE.g.get 0#32 6 ^^^ 1#32 ∧ ((after i s).compared s i false).rg.raised = [] := by decide
/-- R33: the warm reset's cause, and the state that its sequence leaves. -/
theorem test_reset : (after (.resetSequence true [3] [] []) (after .rstctlWarmReset State.reset)).rstCause = 1#2 ∧
    (after (.resetSequence true [3] [] []) (after .rstctlWarmReset State.reset)).retired = [3] := by decide

/-! ## Witnesses of the statements on fabric entries -/

/-- A step whose operands are a general, a rotated, a link, the zero, a counter and a predicate operand, and whose destinations are
the last registers of each kind, an output link, z and p1, can read and write them all. -/
theorem witness_operands : Readable (bench 0 [(0, { Elem.fresh .ce with inq := [(1, [9#32])] })]) [0, 31, 32, 63, 65, 72, 80, 87, 96, 103] ∧
    Writable ab [0, 31, 32, 63, 69, 72, 97, 103] := by unfold Readable Writable; decide

theorem witness_FieldsAndThreeSources : codeP (fF 6 1 2 97 0).c.toNat = true ∧ codeP (fF 6 1 2 95 0).c.toNat = false ∧
    (2 ≤ (fT 6 1 0 2 0).ty.toNat ∧ (fT 6 1 0 2 0).ty.toNat ≤ 7) ∧ (2 ≤ (fT 6 1 0 7 1).ty.toNat ∧ (fT 6 1 0 7 1).ty.toNat ≤ 7) ∧
    bitsOf (fI 6 3 0x5432).imm 15 12 < 6 ∧ bitsOf (fI 6 3 0x5430).imm 3 0 < 6 := by decide

theorem witness_ComparesAndPredicates : bitsOf (fK 0 0 0x206).param 17 16 ≠ 3 ∧ bitsOf (fK 0 0 0x20006).param 17 16 ≠ 3 := by decide

theorem witness_CountersAndSchedules : bitsOf (fK 6 0 0x10).param 4 3 ≠ 3 ∧ (0 : Nat) < 7 ∧ (7 : Nat) < 8 ∧
    (∀ i, i < 8 → bitAt (fK 0 0 0xFF).param i = true → (ctr ab i).mode = 2#2 → ab.wordChk (regWord (80 + i)) 4 = .ok) ∧
    ab.wordChk (regWord 80) 4 = .ok ∧ ab.wordChk (regWord 87) 4 = .ok := by decide
/-- LOOPE on the counters 0 and 7. -/
theorem witness_LoopEnd : ab.wordChk (regWord (80 + bitsOf (fK 0 0 0x8081).param 14 12)) 4 = .ok ∧
    ab.wordChk (regWord (80 + bitsOf (fK 0 0 0x7081).param 14 12)) 4 = .ok ∧
    (bench 0 [(0, { Elem.fresh .ce with poison := [regWord 80] })]).wordChk (regWord 80) 4 ≠ .ok := by decide
/-- A poisoned counter is found when it is tested, and 0x70 is raised (R253). -/
theorem test_cntt_poison : (after (.cntt (fK 6 0 0)) (bench 0 [(0, { Elem.fresh .ce with poison := [regWord 80] })])).rg.raised.map (·.code) =
    [0x70] := by decide

/-- Two chained signatures on neighbouring pages. -/
def chained : State :=
  ab.modR (fun g => { g with sigs := [{ decl := { benchSig with chainE := 1 }, idx := 0, page := 0, passed := false, final := false, done := false },
                                      { decl := benchSig, idx := 1, page := 1, passed := false, final := false, done := false }] })

theorem witness_Tokens : benchElems.any (fun e => e.recv.testBit 1) = true ∧ benchSig.tokens.testBit 63 = false ∧ Bound chained ∧ chained.rg.sigs ≠ [] ∧ chained.rg.chained chained.focus.sg 1 = some 1 ∧ 1 ≠ chained.focus.sg ∧
    (chained.rg.sig 1).passed = false := by unfold Bound; decide
/-- One face from signature 0 to signature 1, none to itself, and signature 1 takes an id that its element receives. -/
theorem witness_Tokens_faces : Faces chained.rg 0 1 1 ∧ Faces chained.rg 0 0 0 ∧ ¬ Faces chained.rg 0 0 1 ∧
    (∃ e ∈ (chained.rg.sig 1).decl.elems, e.recv.testBit 1 = true) := by
  refine ⟨⟨0, 1, by decide, rfl, by decide, by decide⟩, rfl, ?_, by decide⟩
  intro h; cases h
/-- A token of id 1 sent on page 0 is due 4 cycles later there, and 8 cycles later on page 1, one face away (R115). -/
theorem test_toks_far : (after (.toks (fK 0 0 1)) chained).rg.now.toks = [⟨0, 1, 104⟩, ⟨1, 1, 108⟩] := by decide

theorem witness_Waits_tokens : (bench 0 [(0, { Elem.fresh .ce with tok := [(63, 1)] })]).oldE.tok.get 0 63 ≠ 0 ∧ ab.oldE.tok.get 0 63 = 0 ∧
    bitAt (fK 0 0 (0x3F)).param 9 = false ∧ bitAt (fK 0 0 (0x200 + 0x1C0 + 0x3F)).param 9 = true := by decide
theorem witness_Waits : bitsOf (fW 72 0 0x00 8 0 0).b 6 4 = 0 ∧ bitsOf (fW 72 0 0x10 8 0 0).b 6 4 = 1 ∧ bitsOf (fW 72 0 0x20 8 0 0).b 6 4 = 2 ∧
    bitsOf (fW 72 0 0x37 8 0 0).b 6 4 = 3 ∧ ab.rg.link ab.focus.sg ab.focus.x ab.focus.y 1 ≠ .cut ∧ ab.inWords 1 = [] ∧
    (bench 0 [(0, { Elem.fresh .ce with inq := [(1, [9#32])] })]).inWords 1 = [9#32] := by decide
/-- A copy slot that no copy uses, and one whose copy is under way. -/
def copying (c : List Copy) : State := bench 0 [(1, { Elem.fresh .me with copies := c })]
theorem witness_Waits_copy : (∀ c ∈ (copying []).oldE.copies, c.id = 0 → c.done = true) ∧
    ¬(∀ c ∈ ({ copying [⟨0, 0, 64, none, none, 64, 0, none, 0, 0#8, [], [], false, 100, 0, false⟩] with
      focus := { Focus.none with x := 1 } }).oldE.copies, c.id = 0 → c.done = true) := by
  constructor <;> decide

/-- An ME with a row of words in bank 0, streams 0 and 2, and words in its FIFO. -/
def meE : Elem :=
  { Elem.fresh .me with
    g := [(1, 64#32)]
    grps := [(1, { Grp.zero with q := [5#32] })]
    streams := [(0, { Stream.none with base := 0x200000, ext := 8192 }),
                (2, { Stream.none with base := 0, ext := 128, beats := [(0, leBytes 64 7)] })] }

/-- The ME with a buffer of two units mapped for function 0, and a launch that owns it. -/
def meM : State :=
  let b : Buffer := { func := 0, va := 0x200000, size := 0x400000, acc := 3, sparse := false, cmp := 0, kib := 0, pinned := false, home := some 0,
                      placed := true, bases := [0x200000], backed := [] }
  let s := { me meE with
    bufs := [(0, b)]
    tenants := [(0, { Tenant.zero with queue := [{ Launch.none with bufs := [0], img := { Image.none with bufs :=
      [{ size := 0x400000, acc := 3, home := 0, sparse := false, cmp := 0, kib := 0 }] } }] })] }
  (s.mapBuf b).getD s

theorem witness_LocalMemory_words : LocalReadable (me meE) 0 0 4 0 ∧ LocalReadable (me meE) 0x2FFE 0 1 0x2FFE ∧ LocalWritable (me meE) 0x2FFC 0 4 0x2FFC 0 := by
  unfold LocalReadable LocalWritable; decide
theorem witness_LocalMemory_groups :
    ((me meE).group 1).map (·.i) = some 1 ∧ (∀ d, (me meE).group 1 = some d → ((me meE).grp 1).q.length + ((me meE).grp 1).promised + 1 ≤ d.n) ∧
    ((me meE).grp 1).q = [5#32] ∧ ((me meE).group 2).map (·.i) = some 2 ∧ Awake (me meE) (5 * 0x3000) 4 ∧
    (me meE).poisonChk (5 * 0x3000) 4 = .ok ∧ Awake (me meE) (4 * 0x3000) 64 ∧ (me meE).poisonChk (4 * 0x3000 + 4 * 0) 4 = .ok := by
  refine ⟨by decide, ?_, by decide, by decide, by unfold Awake; decide, by decide, by unfold Awake; decide, by decide⟩
  intro d h; cases h; decide

theorem witness_StreamEntries_blocks : StreamAccess meM 0 4 0x200000 false ∧ StreamAccess meM 0 1024 0x200000 true ∧
    meM.ldsTarget 0 0 1024 = (.ok, 0, none) ∧ meM.ldsTarget (4 * 0x3000) 0 4 = (.ok, 0, some 1) ∧ LocalReadable meM 0 0 1024 0 ∧
    meM.feedChk 0 = .ok := by unfold StreamAccess LocalReadable; decide
theorem witness_StreamEntries_words : (me meE).nowE.acqNext.find 0 = none ∧ 0 ∉ (me meE).nowE.relNext ∧ (me meE).streamAt 2 4 = (.ok, 0) ∧
    ((me meE).stream 2).part.length < 64 * 16 ∧
    ((me meE).stream 2).beats.find? (fun q => q.1 == alignDown 0 64) = some (alignDown 0 64, leBytes 64 7) := by decide

theorem witness_StreamPositions : (me meE).isEndpoint 0 = false ∧ (me meE).isEndpoint 2 = true := by decide

theorem witness_GatherAndScatter : meM.indices (fM 72 0 0 0x1010) = (.ok, 0, [0, 0]) ∧ meM.pageCmds < 1024 ∧
    meM.rowAddrs 0 4 false [0, 0] = (.ok, [0x200000, 0x200000]) ∧ meM.rowAddrs 0 4 true [0, 0] = (.ok, [0x200000, 0x200000]) ∧
    meM.feedChk 0 = .ok ∧ meM.localWrite (alignDown (bitsOf (fM 72 0 0 0x1010).off 11 0 * 64 + 4) 4) 0 4 = (.ok, 0x404, 0) ∧
    LocalReadable meM (alignDown (bitsOf (fM 72 0 0 0x1010).off 11 0 * 64 + 4) 4) 0 4 0x404 := by unfold LocalReadable; decide

/-- The ME with the descriptor of a copy of 64 bytes from 0x200000 to 0x200040 at local offset 0. -/
def meC : State :=
  let d := leBytes 8 0x200000 ++ leBytes 8 0x200040 ++ leBytes 4 64 ++ leBytes 12 0
  let e := { meE with sram := Memory.writeN [] 0 d }
  let f : Fabric := { meM.rg.now with elems := [(elemKey 0 1 0, e)] }
  meM.modR (fun g => { g with old := f, now := f })

theorem witness_CommittedEntries : StreamAccess meM 0 4 0x200000 true ∧ LocalReadable meM 0 0 4 0 ∧ LocalWritable meM 0 0 4 0 0 ∧
    bitAt (fK 0 1 0x10000).param 16 = true ∧ bitAt (fK 0 0 0xFFFF).param 16 = false ∧ bitAt (fK 0 0 4).param 2 = true ∧
    bitAt (fK 0 1 3).param 2 = false := by unfold StreamAccess LocalReadable LocalWritable; decide
theorem witness_CommittedEntries_copy : LocalReadable meC (alignDown (meC.src (fK 0 72 15).a.toNat).toNat 32) 0 32 0 ∧
    meC.copyDesc (meC.sramOld 0 32) false = some (.mem 0x200000, .mem 0x200040, 64) ∧
    meC.copyDesc (meC.sramOld 0 32) true = some (.mem 0x200000, .mem 0x200040, 64) ∧ meC.copySideChk (.mem 0x200000) 64 = .ok ∧
    meC.copySideChk (.mem 0x200040) 64 = .ok ∧ (∀ c ∈ meC.oldE.copies, c.id = bitsOf (fK 0 72 15).param 3 0 → c.done = true) ∧
    meC.pageCmds < 1024 := by unfold LocalReadable; decide

theorem witness_OrderingEntries : bitsOf (fK 0 0 1).param 2 0 < 2 ∧ 2 ≤ bitsOf (fK 0 0 2).param 2 0 ∧ bitsOf (fK 0 0 3).param 2 0 ≠ 4 ∧
    bitsOf (fK 0 0 4).param 2 0 = 4 ∧ Bound meM ∧ (7 : Nat) < 8 ∧
    (0x80 : Nat).testBit 7 = true := by unfold Bound; decide

/-- A CE that has entered two phases of barrier 0, neither of which has completed; and a signature whose keystone has been sent. -/
def ahead : State := bench 0 [(0, { Elem.fresh .ce with pha := [(0, 2)] })]
def keyed : State := ab.modNow (fun f => { f with keyFired := [(0, 104)] })
/-- A FENCE at system scope stages what cleans the written buffers, and one at device scope stages nothing (R170, R172). -/
theorem test_fence_system : (after (.fence (fK 0 0 4)) meM).nowE.used.get 0 8 = 1 ∧ (after (.fence (fK 0 0 4)) meM).rg.now.staged.length = 1 ∧
    (after (.fence (fK 0 0 3)) meM).rg.now.staged = [] := by decide
theorem witness_BarriersAndKeystone :
    ab.oldE.pha.get 0 0 ≠ (ab.rg.old.bars.get Barrier.zero (barKey 0 0 0 0)).done + 2 ∧
    ahead.oldE.pha.get 0 0 = (ahead.rg.old.bars.get Barrier.zero (barKey 0 0 0 0)).done + 2 ∧
    ab.focus.x = ab.sig.decl.kx ∧ ab.focus.y = ab.sig.decl.ky ∧ Bound ab ∧ ab.rg.now.keyFired.any (fun k => k.1 == ab.focus.sg) = false ∧
    Bound keyed ∧ keyed.rg.now.keyFired.any (fun k => k.1 == keyed.focus.sg) = true := by unfold Bound; decide

theorem witness_ConversionsAndBlocks : (fT 6 1 2 8 0).sub = 0#4 ∧ (fT 6 1 2 8 1).sub = 1#4 ∧ (fT 6 1 2 8 2).sub = 2#4 ∧
    bitsOf (opB3 ab (fF 6 1 72 1 0)) 10 8 = cfCvf ab.decl.cfmt ∧ bitsOf (opB3 ab (fF 6 1 72 1 0)) 15 12 ≤ 3 ∧
    ((List.range 4).filter (fun i => bitAt (fM 6 0 0 2).off i)).map (64 + ·) = [65] := by decide

theorem witness_AccumulatorEntries : bitAt (fX 63 3 3 0 0 6).opt 0 = false ∧ ab.wordChk (accWord 3 255) 4 = .ok ∧
    bitsOf (fX 0 4 0 0 0 6).bsl 5 2 ≠ 0 ∧ bitAt (fX 0 1 0 0 1 6).opt 0 = true ∧
    ab.wordChk (accWord 0 ((ab.src (bitsOf (fX 0 1 0 0 1 6).bsl 4 0)).toNat % 256)) 4 = .ok ∧
    ((fX 1 0 0 0 1 6).asl ≠ 0#6 ∧ bitsOf (fX 0 32 0 0 1 6).bsl 5 5 ≠ 0) := by decide

/-- ce(0,0) and me(1,0), its neighbour at side e, with the CE in focus. -/
def pair (c m : Elem) : State := bench 0 [(0, c), (1, m)]
def cm : State := pair { Elem.fresh .ce with g := [(1, 512#32)] } (Elem.fresh .me)
theorem witness_SlotPortAndKeys : cm.sideRead 1 (alignDown (cm.src 1).toNat 512) 0 512 = (.ok, 512) ∧ cm.accChk 3 true = .ok ∧
    cm.slotChk 63 1 = .ok ∧ cm.sideWrite 1 (alignDown (cm.src 1).toNat 512) 0 1024 = (.ok, 512, 0#8) := by decide

theorem wordAt_zeros (n i : Nat) : wordAt (List.replicate n 0#8) i = 0#32 := by
  simp [wordAt, leAt, sliceBytes, List.drop_replicate, List.take_replicate, List.replicate_append_replicate]; rfl
theorem witness_TileOperations_headers : ∀ h ∈ (List.range 128).map (wordAt (List.replicate 512 0#8)), h = 0#32 := by
  intro h hm
  obtain ⟨i, -, rfl⟩ := List.mem_map.1 hm
  exact wordAt_zeros 512 i
theorem witness_TileOperations : ab.slotChk 63 1 = .ok ∧ ab.slotChk 60 4 = .ok ∧ ab.accChk 0 true = .ok ∧ ab.accChk 1 true = .ok ∧
    ab.oldE.slot 5 = List.replicate 512 0#8 ∧ bitsOf 0#32 10 8 = cfMfa ab.decl.cfmt ∧ bitsOf 0#32 10 8 = cfMfb ab.decl.cfmt ∧
    bitsOf 0#32 15 12 = bitsOf (fX 0 1 0 0 1 6).opt 2 1 := by
  refine ⟨by decide, by decide, by decide, by decide, rfl, by decide, by decide, by decide⟩

/-- me(1,0) with its folio in a phase, its XP from offset 1024 on. -/
def folioAt (ph : Nat) : State :=
  (me meE).modR (fun g =>
    let f : Fabric := { g.old with folios := [(folioKey 0 0, { Folio.zero with ph := ph, xOff := 1024 })] }
    { g with old := f, now := f })
theorem witness_FolioControl : (folioAt 0).folding 0 = false ∧ ((folioAt 0).folio 0).ph = 0 ∧ ((folioAt 1).folio 0).ph = 1 ∧
    ((folioAt 4).folio 0).ph = 4 ∧ ControlReadable (folioAt 0) 0 ∧ ControlReadable (folioAt 1) 0 ∧ ControlReadable (folioAt 2) 0 ∧
    ControlReadable (folioAt 4) 0 ∧ Writable (folioAt 2) [6] ∧ (folioAt 2).folding 0 = false ∧
    ((folioAt 2).folio 0).ph ≠ 0 ∧ ((folioAt 2).folio 0).ph ≠ 1 ∧ ((folioAt 2).folio 0).ph ≠ 4 ∧
    (folioAt 2).homeAwake 0 (((folioAt 2).folio 0).xOff - 64) 64 = .ok ∧ 11 ≤ bitsOf (fK 6 0 0x3C).param 8 2 := by
  unfold Writable ControlReadable; decide
/-- An entry on the control fields of a folio whose bank is waking freezes its span (R30). -/
theorem test_folr_waking : ((after (.folr (fK 0 0 0)) ((folioAt 2).modR (fun g =>
    let f : Fabric := { g.old with elems := g.old.elems.map (fun p => (p.1, { p.2 with waking := [0] })) }
    { g with old := f, now := f }))).rg.now.span 0 0).stalled = true := by decide
theorem witness_FolioOperations_fold : ControlReadable (folioAt 2) 0 ∧ ((folioAt 2).folio 0).ph = 2 ∧
    LocalReadable (folioAt 2) (alignDown ((folioAt 2).src (fM 1 0 0 256).d.toNat).toNat 4) 0 128 64 ∧
    LocalWritable (folioAt 2) (bitsOf (fM 1 0 0 256).off 17 0) 0 36 256 0 ∧ (folioAt 2).poisonChk ((folioAt 2).folio 0).xOff 128 = .ok ∧
    (folioAt 2).meetsFolio 64 128 = false ∧ (folioAt 2).meetsFolio 256 36 = false := by unfold LocalReadable LocalWritable ControlReadable; decide

/-- ce(0,0), the matrix element of that folio in phase 3, with a burst of block 0 at offset 0 of me(1,0). -/
def folmAt : State :=
  let s := pair { Elem.fresh .ce with g := [(1, 0#32)] } { Elem.fresh .me with sram := Memory.writeN [] 0 (leBytes 4 0x100) }
  s.modR (fun g =>
    let f : Fabric := { g.old with folios := [(folioKey 0 0, { Folio.zero with ph := 3, xOff := 1024 })] }
    { g with old := f, now := f })
theorem witness_FolioOperations_folm :
    ControlReadable folmAt folmAt.folmFx ∧ folmAt.homeChk folmAt.folmFx ((folmAt.folio folmAt.folmFx).yOff (folmAt.folioDecl folmAt.folmFx)) 64 = .ok ∧
    (folmAt.folio folmAt.folmFx).ph = 3 ∧
    (folmAt.folio folmAt.folmFx).tc ≠ (folmAt.folioDecl folmAt.folmFx).m / 16 * ((folmAt.folioDecl folmAt.folmFx).n / 32) ∧
    folmAt.sideRead 1 (alignDown (folmAt.src 1).toNat 4) 0 36 = (.ok, 0) ∧
    bitsOf (wordAt ((folmAt.sideElem 1).sram.readN 0 36) 0) 10 8 = 1 ∧ bitsOf (wordAt ((folmAt.sideElem 1).sram.readN 0 36) 0) 7 0 = 0 % 256 ∧
    folmAt.slotChk 63 1 = .ok ∧ folmAt.accChk 3 false = .ok := by unfold ControlReadable; decide

theorem witness_RowEntries : meM.rowPa 0 = some 0x200000 ∧ meM.paOf 0 (meM.rowVa 0) = some 0x200000 ∧
    (match meM.tenants.find 0 with
      | some t => (match nestedWalk meM.coh 0 t (meM.rowVa 0) with | .ok _ _ w _ => w | _ => false)
      | none => false) = true ∧ meM.rangeHit meM.abut meM.rg.func (meM.rowVa 0) = none ∧
    ((after (.rowopen (fK 0 0 0)) meM).rangeHit meM.abut meM.rg.func (meM.rowVa 0)).map (·.w) = some true := by decide

/-- me(1,0) with a decoding context of 1,000 tokens, a discrete register st1 and a hidden register st2, and an offset of 64 in g1. -/
def meS : State :=
  let e := { meE with
    dc := { Dctx.none with v := 1000, edim := 64, ebase := 0x200000, lbase := 0x300000, lsize := 64, pbase := 0x310000, psize := 256 }
    st := [(1, Soft.discrete 5#32), (2, { Soft.empty with kind := 3, haddr := 0, hlen := 64 })] }
  let f : Fabric := { meM.rg.now with elems := [(elemKey 0 1 0, e)] }
  meM.modR (fun g => { g with old := f, now := f })
theorem witness_SoftRegisters : meS.softFree 0 = .ok ∧ (meS.src 1).toNat % 64 = 0 ∧ meS.rangeRd 64 (8192 * 1) = .ok ∧ meS.rangeRd 64 8 = .ok ∧
    tokChk meS.oldE.dc.v [999#32] = .ok ∧ bitsOf (fK 6 0 (63 * 8)).param 9 3 < 64 ∧ 64 ≤ bitsOf (fK 6 0 (64 * 8)).param 9 3 ∧
    meS.ctxFree false = .ok ∧ meS.ctxFree true = .ok := by decide
theorem witness_SoftOperations : meS.softFree 1 = .ok ∧ ContextFree meS ∧ (meS.oldE.soft 1).kind = 1 ∧
    tokChk meS.oldE.dc.v (((meS.oldE.soft 1).ids.zipIdx.filter (fun (p : Word × Nat) => (meS.oldE.soft 1).allow.getLsbD p.2)).map Prod.fst) = .ok ∧
    bitAt (fK 0 0 1).param 0 = true ∧ bitAt (fK 0 1 0).param 0 = false ∧ tokChk meS.oldE.dc.v [64#32] = .ok ∧ meS.rangeAt 64 1023 = .ok ∧
    meS.replayRoom 64 ≠ 0 ∧ meS.rangeWr 64 (meS.replayRoom 64) = .ok ∧ meS.replayRoom 0x2F000 = 0 := by unfold ContextFree; decide
theorem witness_SoftOperations_embedding : (meS.oldE.soft 1).kind ≠ 0 ∧ (meS.oldE.soft 1).kind ≠ 3 ∧
    tokChk meS.oldE.dc.v (meS.oldE.soft 1).ids = .ok ∧ meS.embedChk 0 (0x200000 + 5 * 256) 256 = .ok ∧
    (meS.oldE.soft 2).kind = 3 ∧ (meS.oldE.soft 2).hlen = meS.oldE.dc.edim ∧ meS.rangeRd 0 (64 * 4) = .ok ∧
    tokChk meS.oldE.dc.v (meS.oldE.soft 2).ids = .ok ∧ LocalWritable meS 0 0 (4 * 64) 0 0 := by unfold LocalWritable; decide
set_option maxRecDepth 4000 in
theorem witness_SoftContext : ContextFree meS ∧ meS.ctxFree false = .ok ∧ meS.rangeRd 64 136 = .ok ∧
    (∀ j, j < 4 → leAt (meS.sramOld 64 136) (128 + j) 1 ≤ 32) ∧ leAt (meS.sramOld 64 136) 132 1 ≤ 1 ∧ leAt (meS.sramOld 64 136) 133 3 = 0 ∧
    meS.softFree 0 = .ok ∧ (meS.oldE.soft 0).kind = 0 ∧ (meS.oldE.soft 1).kind ≠ 0 ∧ (meS.oldE.soft 1).kind ≠ 3 ∧
    64 * meS.oldE.dc.posn + 64 ≤ meS.oldE.dc.lsize ∧ meS.oldE.softPay (meS.oldE.soft 1) = [] ∧ meS.rangeAt 64 16 = .ok ∧
    meS.tagChk 64 16 = .ok ∧ meS.poisonChk 64 16 = .ok ∧ meS.issueChk (meS.oldE.dc.lbase + 64 * meS.oldE.dc.posn) 64 true = .ok ∧
    meS.issueChk (meS.oldE.dc.pbase + meS.oldE.dc.ppos) (meS.oldE.softPay (meS.oldE.soft 2)).length true = .ok ∧
    (meS.oldE.softPay (meS.oldE.soft 2)).length ≠ 0 ∧ meS.oldE.dc.ppos + (meS.oldE.softPay (meS.oldE.soft 2)).length ≤ meS.oldE.dc.psize ∧
    meS.rangeRd 0 (64 * 4) = .ok := by
  unfold ContextFree; decide

theorem witness_SystemAndDebug : (meM.launchOf meM.rg.func meM.rg.ltag).isSome = true ∧ ab.rg.sigSnap[ab.rg.old.sigTaken]? = none ∧
    (ab.modR (fun g => { g with sigSnap := [7#32] })).rg.sigSnap[0]? = some 7#32 ∧ ab.sig.decl.debug = true ∧ ab.rg.voids < 1 ∧
    (ab.modR (fun g => { g with sigs := [{ decl := SigDecl.none, idx := 0, page := 0, passed := false, final := false, done := false }] })).sig.decl.debug = false ∧
    bitsOf (fK 0 0 0).param 2 1 ≤ ab.rg.voids ∧ ab.rg.voids < bitsOf (fK 0 0 2).param 2 1 := by decide

theorem witness_RandomEntries : bitAt (fK 0 1 3).param 2 = false ∧ bitAt (fK 6 0 4).param 2 = true ∧ ab.predChk 1 = .ok ∧
    ab.predTrue 1 (0#1 == 1#1) = false := by decide

/-! ## Witnesses of the statements on host messages -/

/-- A header from function 0 that is the next after a reset, and one that is malformed. -/
def h0 : MsgHdr := ⟨0#32, 0#6, 0xFFFFFFFF#32, 0x55#32, false⟩
def h0bad : MsgHdr := { h0 with bad := true }
/-- The same from function 5. -/
def h5f : MsgHdr := { h0 with func := 5#6 }

/-- A message of function 0 while an FW.STAGE is under way. -/
def busy : State := { State.reset with mgmt := [.fwStage 1#32 0 0] }
theorem witness_MessageLayer : (Instr.cancel h0 1#8 0#32).msgBody.isSome = true ∧ State.reset.focus.n ≠ 1 ∧ Listens State.reset ∧
    ({ State.reset with viral := true }).viral = true ∧ ({ State.reset with held := true }).held = true ∧
    ({ State.reset with nmp := { Nmp.reset with held := true } }).nmp.held = true ∧
    [0xFFFFFFFF#32, 0xFFFFFF00#32, 1#32, 0xFF#32, 0x100#32, 0xFFFFFEFF#32, 0#32].map (fun q => (q - State.reset.nmp.hacc).toNat) =
      [0, 2 ^ 32 - 255, 2, 256, 257, 2 ^ 32 - 256, 1] ∧ (busy.accept h0).holdsBack 0 = true ∧ Listens busy ∧
    Arrives State.reset h0 ∧ Arrives State.reset h0bad ∧ h0bad.bad = true ∧ Arrives State.reset h5f ∧ h5f.func ≠ 0#6 ∧
    (1#8 : Byte) ≠ 0#8 ∧ State.reset.sends h5f.func.toNat = false := by unfold Arrives Listens; decide

/-- Function 0 with a launch whose TAG is 9, and tenant 5. -/
def hostS : State :=
  { State.reset with tenants := [(0, { Tenant.zero with queue := [{ Launch.none with host := 9#32 }] }), (5, Tenant.zero)] }
theorem witness_TenantMessages : budgetBad 0#8 1#16 1#8 0#8 0#32 1#32 = false ∧ budgetBad 1#8 0xFFFF#16 128#8 7#8 65536#32 0xFFFFFFFF#32 = false ∧
    hostS.tenant 1 = none ∧ hostS.tenant 63 = none ∧ (hostS.tenant 5).isSome = true ∧ hostS.sends 5 = true ∧ hostS.sends 0 = true ∧
    zeroBudget 0#8 0xFFFF#16 128#8 7#8 0xFFFF#16 65536#32 = true ∧ hostS.sends 63 = false ∧ Arrives hostS h0 ∧ WellSent hostS h0 true ∧
    (hostS.namedLaunch 0 9#32).isSome = true ∧ hostS.namedLaunch 0 8#32 = none ∧ (2#8 : Byte).toNat ≤ 2 ∧ (hostS.accept h0).queryRecs 0 0 9#32 ≠ [] ∧
    (hostS.accept h0).queryRecs 0 0 8#32 = [] := by
  unfold Arrives WellSent Listens; decide

/-- Function 0 with an image in slot 3 that has endpoint 1 of at least 64 bytes and graph 0, and while slot 3 is loading. -/
def imgS : State :=
  { State.reset with tenants := [(0, { Tenant.zero with images := [(3, { bufs := [], img := { Image.none with pblk := 8, eps := [⟨1, false, 64⟩]
                                                                                                              graphs := [⟨0, []⟩] } })] })] }
def loading : State := { State.reset with mgmt := [.imageLoad 0 3 0x55#32 4096 4096] }
theorem witness_ImageMessages : (0x1000#64).toNat % 4096 = 0 ∧ 4096 ≤ (4096#32).toNat ∧ (0x40000000#32).toNat ≤ 2 ^ 30 ∧
    imgS.slotBusy 0 3 = false ∧ hostS.slotBusy 0 0 = true ∧ loading.mgmt = [.imageLoad 0 3 0x55#32 4096 4096] ∧
    (15#8 : Byte).toNat ≤ 15 ∧ (63#8 : Byte).toNat ≤ 63 ∧ (64#64).toNat % 64 = 0 ∧ 64 ≤ (64#64).toNat ∧ (0x10000000000#64).toNat ≤ 2 ^ 40 ∧
    imgS.bindStatus 0 3 1 64 = 0 ∧ imgS.bindStatus 0 3 2 64 = 0x03 ∧ imgS.bindStatus 0 3 1 0 = 0x01 ∧
    imgS.launchStatus 0 3 0 0 7 8 = 0 ∧ imgS.launchStatus 0 3 0 1 7 8 = 0x03 ∧ imgS.launchStatus 0 3 0 0 7 9 = 0x01 ∧
    Arrives imgS h0 ∧ WellSent imgS h0 false := by unfold Arrives WellSent Listens; decide
/-- An image whose bytes are all zero fails a check of R49. -/
theorem witness_ImageMessages_error : (match loading.loadImage 0 3 4096 [] with | .error e => e != 0 | .ok _ => false) = true := by decide

/-- The launch of TAG 9 with sixteen signals waiting; and one with an unresolved fault. -/
def fullS : State := { State.reset with tenants := [(0, { Tenant.zero with queue := [{ Launch.none with host := 9#32, signals := List.replicate 16 0#32 }] })] }
def fltS : State :=
  { hostS with nmp := { Nmp.reset with flts := [{ func := 0, ltag := 0#32, fid := 1, flt := ⟨0x40, 0, 0, 0, 0, 0, 0, 0, true, false⟩ }] } }
theorem witness_SignalsAndEnds : (∀ l, hostS.namedLaunch 0 9#32 = some l → l.signals.length < 16) ∧ (hostS.namedLaunch 0 9#32).isSome = true ∧
    hostS.namedLaunch 0 8#32 = none ∧ (∀ l, fullS.namedLaunch 0 9#32 = some l → 16 ≤ l.signals.length) ∧ (fullS.namedLaunch 0 9#32).isSome = true ∧
    (fltS.namedFault 0 9#32 1#32).isSome = true ∧ fltS.namedFault 0 9#32 2#32 = none ∧ (hostS.launchOf 0 0#32).isSome = true ∧
    ((hostS.dropRegionsOf 0 0#32).launchOf 0 0#32).isSome = true ∧
    ({ State.reset with tenants := [(5, { Tenant.zero with dying := some 7#32 })] }).destroyReady 5 = true ∧ Arrives fltS h0 ∧ WellSent fltS h0 false := by
  refine ⟨?_, by decide, by decide, ?_, by decide, by decide, by decide, by decide, by decide, by decide, by unfold Arrives Listens; decide,
    by unfold WellSent; decide⟩
  · intro l h; cases h; decide
  · intro l h; cases h; decide

theorem witness_ManagementMessages : (0x1000#64).toNat % 4096 = 0 ∧ (0x4000000#32).toNat ≤ 2 ^ 26 ∧
    ({ State.reset with mgmt := [.fwStage 7#32 0 64] }).mgmt = [.fwStage 7#32 0 64] ∧ (0x80#8 : Byte) ≠ 0#8 ∧ (2#8 : Byte).toNat ≤ 2 ∧
    State.reset.bundle = [] ∧ ({ State.reset with bundle := [0#8] }).bundle ≠ [] ∧ State.reset.dieVacant 3 = true ∧
    ({ State.reset with mgmt := [.fwActivate 7#32 [3] 0] }).mgmt = [.fwActivate 7#32 [3] 0] ∧ [17, 3, 15, 7].zipIdx.all (fun p => p.1 < calTargets p.2) = true ∧
    ({ State.reset with mgmt := [.calRun 7#32 0 3] }).mgmt = [.calRun 7#32 0 3] ∧ ¬((0 : Nat) = 0 ∧ (State.reset.port 3).st = .retraining) ∧
    State.reset.retireStatus 0 127 0 0 = 0 ∧ State.reset.retireStatus 1 15 (2 ^ 36 - 2 ^ 21) (2 ^ 21) = 0x14 ∧
    State.reset.retireStatus 1 0 0 (2 ^ 21) = 0 ∧ State.reset.retireReady 0 127 (State.reset.emptied 0 127 0 0) = true ∧
    (State.reset.vacate (State.reset.emptied 2 3 0 0)).isSome = true ∧ Arrives State.reset h0 ∧ WellSent State.reset h0 true := by
  unfold Arrives WellSent Listens; decide

/-- A buffer of stack 0, where every stack has left service. -/
def nowhere : State :=
  { State.reset with
    retiredMem := (List.range 16).map (fun k => (k, k * Config.stackBytes, Config.stackBytes))
    bufs := [(0, { func := 0, va := 0x200000, size := 0x200000, acc := 3, sparse := false, cmp := 0, kib := 0, pinned := false, home := some 0
                   placed := true, bases := [0x200000], backed := [] })] }
theorem witness_ManagementMessages_none : (nowhere.vacate (nowhere.emptied 1 0 0 Config.stackBytes)).isNone = true ∧
    nowhere.retireReady 1 0 (nowhere.emptied 1 0 0 Config.stackBytes) = true := by decide

/-- A part with one message kept under SEQ 0 and one queued; the same part under a hold, and one that sends again. -/
def evt : DMsg := { kind := 0x83, func := 0, tag := 0#32, units := 1, payload := [] }
def nmpS : State := { State.reset with nmp := { Nmp.reset with diss := 0#32, kept := [(0, evt)], queue := [evt] } }
theorem witness_NmpRegisters : (0xFFFFFFFF#32 - nmpS.nmp.dack).toNat = 0 ∧ (nmpS.nmp.diss - nmpS.nmp.dack).toNat < (1#32 - nmpS.nmp.dack).toNat ∧
    1 ≤ (0#32 - nmpS.nmp.dack).toNat ∧ (0#32 - nmpS.nmp.dack).toNat ≤ (nmpS.nmp.diss - nmpS.nmp.dack).toNat ∧
    ({ nmpS with nmp := { nmpS.nmp with hold := true } }).nmp.hold = true ∧ nmpS.nmp.snap = false ∧
    ({ nmpS with nmp := { nmpS.nmp with snap := true } }).nmp.snap = true ∧ nmpS.viral = false ∧ nmpS.nmp.hold = false ∧ nmpS.nmp.resend = false ∧
    nmpS.nmp.resending = [] ∧ nmpS.nmp.queue.any (fun m => m.kind == 0x85) = false ∧
    ({ nmpS with nmp := { nmpS.nmp with resend := true } }).nmp.resend = true ∧ nmpS.canSend = true ∧ nmpS.nmp.queue = [evt] ∧
    ({ nmpS with nmp := { nmpS.nmp with resending := [(0, evt)] } }).canSend = true ∧ evt.eff = none ∧
    ({ evt with eff := some ⟨0, 1, 0x0FFF⟩ }).eff = some ⟨0, 1, 0x0FFF⟩ := by decide
/-- The ways that the ACK of a budget carries govern from the cycle in which it is sent (R433). -/
theorem test_budget_ack : (((after .deviceMessageSend ({ nmpS with nmp := { nmpS.nmp with queue := [{ evt with eff := some ⟨0, 1, 0x0FFF⟩ }] } })).tenant 0).map
    (fun t => (t.cls, t.ways))) = some (1, 0x0FFF) ∧ (nmpS.tenant 0).map (fun t => (t.cls, t.ways)) = some (0, 0xFFFF) := by decide

/-! ## Witnesses of the statements on the part -/

theorem witness_ClockAndErrors : (∀ d ∈ State.reset.dies, d.service = true → d.droop = false ∧ d.heat = false) ∧ State.reset.viral = false ∧ ({ State.reset with viral := true }).viral = true ∧
    (State.reset.hlmod.set 3 false).any id = true ∧ ([false, false, false, true].set 3 false).any id = false := by decide

/-- A reset that RSTCTL has asked for stands when firmware asks for one (R33). -/
theorem test_firmware_reset : (after .firmwareInitiatedReset (after .rstctlColdReset State.reset)).resetPend = some 0#2 ∧
    (after .firmwareInitiatedReset State.reset).resetPend = some 2#2 := by decide
theorem witness_Resets : ({ State.reset with resetPend := some 1#2 }).resetPend = some 1#2 ∧ State.reset.viral = false ∧
    ({ State.reset with viral := true, resetPend := some 2#2 }).viral = true ∧ State.reset.resetPend = none ∧
    (∀ n, n < 18 → (portAfter (diesAfter [] [7]) [] n).st ≠ .failed) ∧ State.reset.hlmod[0]? = some true ∧
    ((List.range 4).map (fun m => !([0, 1, 2].contains m)))[3]? = some true ∧ (portAfter (diesAfter [] []) (List.range 18) 3).st = .failed ∧
    (7 : Nat) < 8 ∧ 7 ∈ ([7] : List Nat) := by decide
theorem witness_Resets_modules : ∀ m : Nat, ((List.range 4).map (fun m => !((List.range 4).contains m)))[m]? ≠ some true := by
  intro m h
  have := List.mem_of_getElem? h
  revert this; decide

/-- A pinned line in way 3 of die 0, a hot block at address 4096 that cools in cycle 200, and a held row 0. -/
def rowsS : State :=
  { meM with
    l2 := [(0, [{ ln := 0, way := 3, valid := 1, dirty := 0, owner := 0, pin := true, ef := false }])], hot := [(4096, 200)]
    coh := [(4096, 0x11#8)]
    rows := [{ pa := 0, func := 0, r := 0, sg := 0, reopen := true, st := .held, lines := [], since := 0 }] }
theorem witness_WaysAndRows : rowsS.viral = false ∧ rowsS.hot.find 4097 = none ∧ rowsS.rowHold (4 * 256) = none ∧ rowsS.l2.any (fun p => dieOfSet p.1 == 0 && p.2.any (fun l => l.way == 3 && l.pin)) = true ∧
    rowsS.l2.any (fun p => dieOfSet p.1 == 0 && p.2.any (fun l => l.way == 4 && l.pin)) = false ∧ rowsS.hot.find 4096 = some 200 ∧
    rowsS.cycle < 200 ∧ 200 ≤ ({ rowsS with cycle := 200 }).cycle ∧ rowsS.coh.wf = true ∧ (rowsS.rowHold (0 * 256)).map (·.st) = some .held ∧
    (rowsS.rowHold (0 * 1024)).map (·.st) = some .held := by decide

def good : Flit := { crcOk := true, seq := 0#12, ack := 0xFFF#12, cls := 0#2, av := true, rsv := 0#5, payload := [] }
def training : State := State.reset.modPort 3 (fun p => { p with st := .retraining })
theorem witness_Ports : (State.reset.port 3).st = .active ∧ State.reset.ports.find 3 = some (State.reset.port 3) ∧ ({ good with crcOk := false }).crcOk = false ∧
    (training.modPort 3 (fun p => { p with st := .active })).linkHeld 3 good = false ∧ good.crcOk = true ∧ good.rsv = 0#5 ∧ good.cls ≠ 3#2 ∧
    good.seq.toNat = ((State.reset.port 3).rxSeq + 1) % 4096 ∧ (0xFFF#12).toNat = (State.reset.port 3).rxSeq ∧ (State.reset.port 3).rxSeq < 4096 ∧
    State.reset.viral = false ∧ (training.port 3).st = .retraining ∧ training.ports.find 3 = some (training.port 3) ∧ training.portDown 3 = false ∧
    (laneWidth (((List.range 18).dedup ++ (training.port 3).retired).dedup)).1 = 0 ∧
    (laneWidth ((([] : List Nat).dedup ++ (training.port 3).retired).dedup)).1 ≠ 0 ∧ State.reset.coh.wf = true ∧ State.reset.dram.wf = true ∧
    State.reset.ports.find 30 = none ∧ ({ good with rsv := 1#5 }).rsv ≠ 0#5 ∧ ({ good with cls := 3#2 }).cls = 3#2 ∧ ({ good with cls := 1#2 }).cls ≠ 0#2 ∧
    ((0xFFF#12).toNat + 0) % 4096 = (State.reset.port 3).rxSeq % 4096 ∧ ((0xE00#12).toNat + 511) % 4096 = (State.reset.port 3).rxSeq % 4096 ∧
    (1#12).toNat = ((State.reset.port 3).rxSeq + 2) % 4096 ∧ (0xDFF#12).toNat = ((State.reset.port 3).rxSeq + 3584) % 4096 ∧
    (State.reset.port 3).waiting = [] ∧ (State.reset.port 3).replay.length < 512 ∧
    ({ State.reset with viral := true }).ports.find 3 = some (({ State.reset with viral := true }).port 3) := by decide
/-- Nine errors of which eight are among the latest 65,536 flits; a port whose die is out of service. -/
theorem witness_Ports_errors : ([0, 70000, 70001, 70002, 70003, 70004, 70005, 70006, 70007].filter (fun k => decide (70008 < k + 65536))).length = 8 ∧
    ({ training with dies := diesAfter [] (List.range 8) }).portDown 3 = true := by decide

/-! ## Witnesses of the statements on binds, rounds and spans -/

/-- Function 0 with an image of one load of one signature, a launch of it, not yet active. -/
def loadS : State :=
  let img := { Image.none with sigs := [benchSig], graphs := [⟨0, [{ load := 0, preds := [], sigs := [0] }]⟩] }
  { State.reset with tenants := [(0, { Tenant.zero with queue := [{ Launch.none with img := img }] })] }
/-- The same with its load chosen as a ready item. -/
def itemS : State :=
  { loadS with items := [{ func := 0, ltag := 0#32, aseq := 0, load := 0, prio := 0, rel := 0, saved := none }], chosen := some (0, 0#32, 0) }
/-- The same launch of a tenant without pages. -/
def noPages : State := loadS.modTenant 0 (fun t => { t with pages := 0 })
set_option maxRecDepth 4000 in
theorem witness_ReleasesAndBinds : (loadS.nextLaunch 0).map (·.tag) = some 0#32 ∧ (loadS.launchOf 0 0#32).map (·.noMore) = some false ∧
    (loadS.launchOf 0 0#32).map (fun l => l.released.contains 0) = some false ∧
    (loadS.launchOf 0 0#32).map (fun l => loadS.neverBinds ⟨0, 0#32, l.aseq, 0, l.prio, loadS.cycle, none⟩) = some false ∧
    (noPages.launchOf 0 0#32).map (fun l => noPages.neverBinds ⟨0, 0#32, l.aseq, 0, l.prio, noPages.cycle, none⟩) = some true ∧ loadS.chosenItem = none ∧
    itemS.chosenItem.isSome = true ∧ (itemS.chosenItem.bind (fun i => itemS.placement i itemS.pageFree)).isSome = true ∧
    itemS.chosenItem.map itemS.needsWheel = some false ∧ Bound ab := by unfold Bound; decide
set_option maxRecDepth 4000 in
/-- The signature of the bench binds, and one that pins a page beyond the last is refused. -/
theorem witness_ReleasesAndBinds_error : (bindErr { Image.none with sigs := [SigDecl.none] } [] (placeSigs [(0, SigDecl.none)] [0])).isSome = true := by decide

theorem witness_RoundStarts : Bound ab ∧ ab.rg.saved = false ∧ (ab.modR (fun g => { g with saved := true, savedBad := some 0 })).rg.savedBad = some 0 ∧
    (ab.modR (fun g => { g with saved := true })).rg.saved = true ∧ (ab.modR (fun g => { g with saved := true })).rg.savedBad = none ∧ ab.rg.savedBad = none ∧ ab.rg.commitOn = false ∧
    (ab.modR (fun g => { g with commitOn := true })).rg.commitOn = true ∧ (ab.modR (fun g => { g with haltTaken := true })).rg.haltTaken = true ∧
    ab.rg.stopReq = none ∧ ab.rg.haltTaken = false ∧ ab.rg.yieldReq = none ∧ (∀ h ∈ ab.rows, h.r = ab.focus.r → h.st ≠ .suspended) ∧
    (∃ h ∈ ({ ab with rows := [⟨0x200000, 0, 0, 0, true, .suspended, [], 0⟩] }).rows, h.r = 0 ∧ h.st = .suspended) := by unfold Bound; decide
/-- A region that was asked to yield while it bound, in the cycle of the request and 22,500 cycles later. -/
def asked (saved : Bool) : State := ab.modR (fun g => { g with mode := .binding 8000, yieldReq := some 100, saved := saved })
theorem witness_RoundStarts_asked : Bound (asked false) ∧ (asked false).rg.yieldReq = some 100 ∧ (asked false).rg.saved = false ∧
    (asked true).rg.saved = true ∧ (asked true).rg.savedBad = none ∧ (asked true).cycle ≤ 100 + 22500 := by unfold Bound; decide

/-- A region whose ended round has one store to commit. -/
def commitS : State := meM.modR (fun g => { g with commit := [⟨0, 1, 0, 0, 0, 0, 0, false, .store 0x200000 (leBytes 4 7) 0 []⟩], commitOn := true })
theorem witness_RoundEnds_commit : commitS.rg.commit.map (·.act) = [.store 0x200000 (leBytes 4 7) 0 []] ∧
    (commitS.rg.commit.head?.map (fun i => (((commitS.modR Region.swapCounts).atItem i).itemWait i).isNone)) = some true ∧
    (commitS.rg.commit.head?.map (fun i => ((commitS.modR Region.swapCounts).atItem i).putsOff i)) = some false := by decide
/-- A region that saves with a fault unresolved, and whose ended round has a store to a page that has gone. -/
def offS : State := ({ commitS with tenants := [] }).modR (fun g => { g with mode := .saving 100 true, fid := some 1 })
theorem witness_RoundEnds_off :
    (offS.rg.commit.head?.map (fun i => ((offS.modR Region.swapCounts).atItem i).putsOff i)) = some true := by decide
theorem witness_RoundEnds : Bound ab ∧ ab.rg.brk = none ∧ (ab.modR (fun g => { g with brk := some ⟨0, 0, 0, 3, false, 65536, false⟩ })).rg.brk.isSome = true := by
  unfold Bound; decide

/-- A region whose ended round has only the given items left to commit, of an element of tenant 0 with a launch and a held row. -/
def lateS (l : List Act) : State :=
  let acts : List Staged := l.map (fun a => ⟨0, 1, 0, 10, 0, 0, 3, false, a⟩)
  { meM.modR (fun g => { g with commit := acts, commitOn := true, roundPc := 64 }) with
    rows := [{ pa := 0x200000, func := 0, r := 0, sg := 0, reopen := true, st := .held, lines := [], since := 0 }] }
def lateI (a : Act) : Staged := ⟨0, 1, 0, 10, 0, 0, 3, false, a⟩
theorem witness_RoundEnds_late : (lateS []).viral = false ∧ (lateS []).nmp.queue.length < 4096 ∧ ((lateS []).atItem (lateI (.rowRel 0))).rowPa 0 = some 0x200000 ∧
    ((lateS []).rowHold 0x200000).map (fun h => (h.r, h.st)) = some ((lateS []).focus.r, .held) ∧ rowOf 0 ≠ rowOf 0x200000 ∧
    ((lateS []).launchOf (lateS []).rg.func (lateS []).rg.ltag).isSome = true ∧ ((lateS []).regions.find 0).isSome = true ∧
    ((lateS []).tenants.find (lateS []).rg.func).map (fun x => x.prefixes.length) = some 0 := by decide
theorem witness_RoundEnds_fold : ((lateS []).reg 0).roundPc ≠ 0 ∧ ((lateS []).tenants.map Prod.fst).Nodup ∧
    ((lateS []).tenants.find ((lateS []).reg 0).func).isSome = true ∧ Bound (lateS []) ∧ (lateS []).focus.sg < (lateS []).rg.sigs.length := by
  unfold Bound; decide
/-- Two PMWR, of which the second is the last of its index, and a PMCF of another. -/
theorem witness_RoundEnds_pmwr : (lateS [.pmwr 0 5#32, .pmwr 15 9#32, .pmcf 0 1#32]).rg.commit =
      [lateI (.pmwr 0 5#32)] ++ lateI (.pmwr 15 9#32) :: [lateI (.pmcf 0 1#32)] ∧
    (∀ j ∈ [lateI (.pmcf 0 1#32)], (∀ w, j.act ≠ .pmwr 15 w) ∧ ∀ n w, j.act = .pmcf n w → 15 ≠ 12 + n) := by
  refine ⟨by decide, fun j hj => ?_⟩
  rw [List.mem_singleton.1 hj]
  refine ⟨?_, ?_⟩
  · intro w h; cases h
  · intro n w h; cases h; decide
/-- ROUND_COMMIT: a ROWREL gives its row back, a TRAP sends its EVENT, a HALT lets nothing more be released (R160, R413, R417). -/
theorem test_round_commit : (after .roundCommit (lateS [.rowRel 0, .event 0 7#32 3, .halt])).rowHold 0x200000 = none ∧
    (after .roundCommit (lateS [.rowRel 0, .event 0 7#32 3, .halt])).nmp.queue.map (·.kind) = [0x83] ∧
    ((after .roundCommit (lateS [.rowRel 0, .event 0 7#32 3, .halt])).launchOf 0 0#32).map (·.noMore) = some true := by decide
/-- A PMWR of PMC0 comes after the fold of its round, which counts the round and its page-cycles (R258, R415). -/
theorem test_round_commit_pmwr : ((after .roundCommit (lateS [.pmwr 0 5#32])).tenants.find 0).map (fun x => (x.pmFile.get 0#32 0, x.pmCyc, x.pmRnd)) =
    some (5#32, 64, 1) := by decide

/-- ce(0,0) that routes its input e to its output n, with a word waiting and room, or none, in ce(0,1)'s queue. -/
def routed (q : List Word) : State :=
  let d := { benchSig with elems := [{ ElemDecl.none 0 0 with rcxs := [{ n := 0, outs := [0xFF, 0, 0xFF, 0xFF] }] }] }
  (bench 0 [(0, { Elem.fresh .ce with inq := [(1, [9#32])] }), (32, { Elem.fresh .me with inq := [(2, q)] })]).modR (fun g =>
    { g with sigs := [{ decl := d, idx := 0, page := 0, passed := false, final := false, done := false }] })
theorem witness_SpanSteps : Bound ab ∧ ab.spanDecl.x1 < 32 ∧ ab.spanDecl.y1 < 32 ∧
    (ab.rg.now.span 0 0).haltAtWrap = false ∧ (ab.rg.now.span 0 0).keyed = false ∧ (ab.rg.now.span 0 0).endp = false ∧
    (ab.spanDecl.x0 ≤ 3 ∧ 3 ≤ ab.spanDecl.x1 ∧ ab.spanDecl.y0 ≤ 3 ∧ 3 ≤ ab.spanDecl.y1 ∧ (3 + 3) % 2 = 0) ∧ (routed []).passChk = .ok ∧
    (routed [1#32, 2#32]).passChk = .stall := by unfold Bound; decide

/-- Token 1 in ce(0,0), which receives it; token 5, which none receives, and a handler that halts span 0 for it; a handler write. -/
def tokS (n : Nat) : State :=
  let s := (bench 0 [(0, { Elem.fresh .ce with tok := [(1, n)] })]).modNow (fun f => { f with
    toks := [⟨0, 5, 100⟩], handlers := [(0, BitVec.ofNat 32 (2 ^ 31 + 5 * 2 ^ 25 + 1))] })
  { s.modR (fun g => { g with sigs := g.sigs.map (fun q => { q with decl := { q.decl with tokens := 2 ^ 5 } }) }) with focus := { s.focus with n := 1 } }
def hwS : State := (ce []).modNow (fun f => { f with hwrites := [⟨0, 0, 0#32, 100, 0, 0⟩], bars := [(0, ⟨4, [], [(5, 100)]⟩)] })
theorem witness_Arrivals : Bound (tokS 14) ∧ ((tokS 14).receivers 1).length = 1 ∧ (elemNow (tokS 14) 0 0).tok.get 0 1 < 15 ∧
    15 ≤ (elemNow (tokS 15) 0 0).tok.get 0 1 ∧ (tokS 0).rg.now.toks = [⟨0, 5, 100⟩] ∧ (tokS 0).handlerDue ⟨0, 5, 100⟩ = true ∧
    (tokS 0).rewriting 5 = [] ∧ ((tokS 0).handlersOf 5).length = 1 ∧
    ((tokS 0).modNow (fun f => { f with handlers := [] })).handlersOf 5 = [] ∧ hwS.rg.now.hwrites = [⟨0, 0, 0#32, 100, 0, 0⟩] ∧
    hwS.focus.n = 0 ∧ (100 : Nat) ≤ hwS.cycle ∧ hwS.rg.now.heldToks = [] ∧
    hwS.rg.now.bars.get Barrier.zero hwS.focus.n = { done := 4, arrived := [], coming := [(4 + 1, 100)] } := by unfold Bound; decide
theorem witness_Arrivals_many : (((tokS 14).receivers 1).map (fun d => elemKey (tokS 14).focus.sg d.x d.y)).Nodup ∧
    ((tokS 14).sig.decl.spans.map (·.n)).Nodup ∧ 0 ∈ (tokS 14).sig.decl.spans.map (·.n) := by decide
/-- A barrier of two elements whose next phase has one arrival counted and one due. -/
def barS : State :=
  let w := encodeEntry ⟨1#12, 0#3, 0#1, 0#5, .bara (fK 0 0 0x10)⟩
  (ce []).modR (fun g => { g with
    sigs := g.sigs.map (fun q => { q with decl := { q.decl with elems := benchElems.map (fun d => { d with schedA := [w] }) } })
    now := { g.now with bars := [(0, ⟨4, [(5, 1)], [(5, 100), (6, 101)]⟩)] } })
/-- The phase completes with the second arrival, and the next one waits for its own (R366). -/
theorem test_barrier_two : barS.rg.barN 0 = 2 ∧ (after .barrierArrival barS).rg.now.bars.get Barrier.zero 0 = ⟨5, [(5, 2)], [(6, 101)]⟩ := by decide
/-- Token 1 is received by ce(0,0), with 15 pending, and by me(1,0), with 1: one count grows and one fault is raised (R115). -/
theorem test_token_receivers :
    let s := (bench 0 [(0, { Elem.fresh .ce with tok := [(1, 15)] }), (1, { Elem.fresh .me with tok := [(1, 1)] })]).modR (fun g => { g with
      sigs := g.sigs.map (fun q => { q with decl := { q.decl with elems := benchElems.map (fun d => { d with recv := 2 }) } }) })
    let t := after .tokenArrival { s with focus := { s.focus with n := 1 } }
    (elemNow t 0 0).tok.get 0 1 = 15 ∧ (elemNow t 1 0).tok.get 0 1 = 2 ∧ t.rg.raised.map (fun f => (f.code, f.addr)) = [(0x61, 1)] := by decide

/-- One window in slot 0. -/
def winS (k : WinKind) (wm : Nat) (res : Option Word) (closed : Bool) : Win := ⟨k, 0, false, 21, wm, 1, 6, res, closed, 0⟩
def winOf (w : Win) : State := bench 0 [(0, { Elem.fresh .ce with wins := [(0, w)], inq := [(1, [9#32])], tok := [(1, 1)] })]
theorem witness_Windows : (winOf (winS (.result 100 7#32) 0 none false)).nowE.wins.find 0 = some (winS (.result 100 7#32) 0 none false) ∧
    (winOf (winS (.result 100 7#32) 0 none false)).winReady (winS (.result 100 7#32) 0 none false) = true ∧
    (winOf (winS (.result 101 7#32) 0 none true)).winReady (winS (.result 101 7#32) 0 none true) = false ∧
    (winS (.result 100 7#32) 0 none true).closed = true ∧ (winS (.result 100 7#32) 0 (some 7#32) false).res ≠ none ∧
    (winS (.token 1 none) 1 none false).wm = 1 ∧ (winS (.token 1 none) 2 none false).wm ≠ 1 ∧
    (winOf (winS (.link 1) 0 none false)).isCut 1 = false ∧ (winOf (winS (.link 1) 0 none false)).nowE.inq.get [] 1 = [9#32] := by decide
/-- A face whose neighbour's keystone has passed is cut. -/
def cutS : State :=
  { chained.modR (fun g => { g with sigs := g.sigs.map (fun q => if q.idx = 1 then { q with passed := true } else q) }) with
    focus := { Focus.none with x := 31 } }
/-- A ROWRD that is still to be served, and one that has been. -/
theorem witness_Windows_rows : (winOf (winS (.row 0 0 100 0 [] none) 0 none false)).nowE.wins.find 0 = some (winS (.row 0 0 100 0 [] none) 0 none false) ∧
    (∀ pa va ready seq after, (winS (.row 0 0 100 0 [] (some 7#32)) 0 none false).kind ≠ .row pa va ready seq after none) ∧
    (winOf (winS (.link 1) 0 none false)).inWords 1 ≠ [] := by
  refine ⟨by decide, ?_, by decide⟩
  intro pa va ready seq after h; cases h
theorem witness_Windows_cut : cutS.isCut 1 = true := by decide
/-- A text and a block whose reads have been made, and two that have not. -/
def textW (got : Option (List Byte)) : Win := winS (.text 100 5 64 got) 0 (got.map (fun x => BitVec.ofNat 32 x.length)) false
def blockW (m : Nat) (got : Option (List Byte × List Byte)) : Win := winS (.prefixOp 100 m 7 64 3#64 got) 0 (got.map (fun _ => 1#32)) false
theorem witness_Windows_reads : (winOf (textW none)).nowE.wins.find 0 = some (winS (.text 100 5 64 none) 0 none false) ∧
    (winOf (blockW 1 none)).nowE.wins.find 0 = some (winS (.prefixOp 100 1 7 64 3#64 none) 0 none false) ∧
    (textW (some [65#8])).res = some 1#32 ∧ (blockW 1 (some ([], []))).res = some 1#32 ∧
    (winOf (textW (some [65#8]))).winReady (textW (some [65#8])) = true ∧ (winOf (blockW 1 (some ([], [])))).winReady (blockW 1 (some ([], []))) = true := by decide
theorem witness_Windows_kinds : (∀ pa va ready seq after, (textW none).kind ≠ .row pa va ready seq after none) ∧
    (∀ due m k a h, (textW none).kind ≠ .prefixOp due m k a h none) ∧
    (∀ due m k a h got, (textW (some [])).kind ≠ .prefixOp due m k a h got) ∧
    (∀ due id a got, (blockW 1 (some ([], []))).kind ≠ .text due id a got) ∧ (∀ due id a, (blockW 1 none).kind ≠ .text due id a none) := by
  refine ⟨?_, ?_, ?_, ?_, ?_⟩ <;> intros <;> intro h <;> cases h
/-- A WAITW on a stream, a DRAIN, a CPYW, a BARW and a KEYW are met where nothing of theirs is left, and not where something is. -/
theorem witness_Windows_waits : [WinKind.wait 2 0, .drain 1, .copy 0, .barrier 0].all (fun k => (winOf (winS k 0 none false)).winReady (winS k 0 none false)) = true ∧
    (winOf (winS (.wait 3 0) 0 none false)).winReady (winS (.wait 3 0) 0 none false) = false ∧
    (winOf (winS (.wait 0 2) 0 none false)).winReady (winS (.wait 0 2) 0 none false) = false ∧
    (winOf (winS (.wait 0 1) 0 none false)).winReady (winS (.wait 0 1) 0 none false) = true ∧
    (commitS.modR (fun g => { g with old := g.now })).winReady (winS (.drain 1) 0 none false) = false ∧
    chained.winReady (winS (.keystone 1) 0 none false) = false ∧ (winOf (winS (.row 0 0 100 0 [] (some 7#32)) 0 none false)).winReady
      (winS (.row 0 0 100 0 [] (some 7#32)) 0 none false) = true := by decide
/-- A second LATCH of a link in one cycle does not take a word written in that cycle (R98, R335). -/
theorem test_latch_taken : (bench 0 [(0, { Elem.fresh .ce with inq := [(1, [9#32])], taken := [(1, 1)] })]).winReady (winS (.link 1) 0 none false) = false := by
  decide
/-- The close of a PHSH of mode 1 stages the block that it publishes. -/
theorem test_phsh_publish : (after .windowClose (winOf (blockW 1 (some ([], []))))).nowE.wins.find 0 = none ∧
    (after .windowClose (winOf (textW (some [65#8])))).nowE.g.get 0#32 6 = 1#32 := by decide

/-- An element with a read that is served next, or whose bytes are there, with an endpoint stream, a copy, and an RMW to commit. -/
def readOf (stage : Nat) : Read :=
  ⟨0, 0, 0, 0x200000, 4, 0, 8, none, false, false, false, none, none, [], [], stage, 100, 0, false, leBytes 4 7, none, false⟩
def memS (stage : Nat) : State :=
  let e := { meE with
    reads := [readOf stage], copies := [⟨0, 0x200000, 0x200040, none, none, 64, 0, none, 0, 0#8, [], [], false, 100, 0, false⟩]
    streams := [(0, { Stream.none with ext := 128 })] }
  let f : Fabric := { meM.rg.now with elems := [(elemKey 0 1 0, e)] }
  meM.modR (fun g => { g with
    old := f, now := f, commit := [⟨0, 1, 0, 0, 0, 0, 0, false, .rmw 0x200000 0 1#32 0#32 none 0 0 none⟩] })
def adderS : State :=
  let a : AdderDecl := { port := 3, adder := 0, chain := 0, fmt := 1, lx := 1, ly := 0, lsn := 0, toPort := true, fx := 9, fy := 0, fsn := 0, len := 4 }
  let s := ab.modR (fun g => { g with
    sigs := [{ decl := { benchSig with adders := [a] }, idx := 0, page := 0, passed := false, final := false, done := false }]
    now := { g.now with adders := [(adderKey 0 a, { i := 3, crossing := [], arriving := [1#32], loc := [2#32] })] } })
  { s with focus := { s.focus with n := 12 } }
theorem witness_MemorySteps : (memS 1).readInFocus = some (readOf 1) ∧ (readOf 1).stage ≠ 2 ∧ (memS 2).readInFocus = some (readOf 2) ∧
    ((readOf 2).stage = 2 ∧ (readOf 2).bad = none ∧ (readOf 2).bt = false ∧ (readOf 2).gath = false ∧ (readOf 2).soft = none ∧
      (readOf 2).fifo = none ∧ (readOf 2).bytes ≠ []) ∧
    (((memS 2).nowE.streams.get Stream.none 0).beats.length < 64 ∧ 0 ≤ ((memS 2).nowE.streams.get Stream.none 0).fetch ∧
      ((memS 2).nowE.streams.get Stream.none 0).fetch + 64 ≤ ((memS 2).nowE.streams.get Stream.none 0).ext) ∧
    (memS 2).withheld (memS 2).rg (memS 2).nowE 0 = false ∧ (memS 2).hostFails ((memS 2).endpointAddr 0) 64 = false ∧
    ({ memS 2 with hostDead := [(0, 2 ^ 52)] }).hostFails 0 64 = true ∧
    (memS 2).rg.commit.map (·.act) = [.rmw 0x200000 0 1#32 0#32 none 0 0 none] ∧ (memS 2).poisonedAt 0 0x200000 4 = none ∧
    (memS 2).nowE.copies.find? (fun c => c.id == (memS 2).focus.n && !c.done) =
      some ⟨0, 0x200000, 0x200040, none, none, 64, 0, none, 0, 0#8, [], [], false, 100, 0, false⟩ := by decide
theorem witness_MemorySteps_adder : (adderS.adderDecl adderS.focus.n).isSome = true ∧ (adderS.adderDecl adderS.focus.n).map (·.len) = some 4 ∧
    (adderS.adderDecl 12).map (fun a => adderS.arriving a (adderS.rg.now.adders.get Adder.zero (adderKey 0 a))) = some (some 1#32) ∧
    (adderS.adderDecl 12).map (fun a => (adderS.rg.now.adders.get Adder.zero (adderKey 0 a)).loc) = some [2#32] ∧
    (adderS.adderDecl 12).map (·.toPort) = some true := by decide
set_option maxRecDepth 20000 in
/-- The adder's port with 515 elements before it, of which it has added 3. -/
theorem witness_Ports_held : (adderS.modPort 3 (fun p => { p with got := List.replicate 515 (0, []) })).linkHeld 3 good = true := by decide
/-- A walk that runs. -/
theorem witness_MemorySteps_walk : ({ ab with walks := [⟨5, 0, 0, 0, 0, 0, false, false, true, 100, 0, 1, 0, 0, false⟩] }).walks.find?
    (fun (w : Walk) => w.id == 5 && w.running) = some ⟨5, 0, 0, 0, 0, 0, false, false, true, 100, 0, 1, 0, 0, false⟩ := by decide

/-- Operations in flight: of the slot port, of the node, of soft tokens, and a FOLD. -/
def opOf (i : Instr) (tile : Bool) : NodeOp := ⟨0, 100, i, tile, [0], [], [], 0#32, 0, [], false, 0, false⟩
def softOf (i : Instr) : SoftOp := ⟨0, 100, i, 0#32, 0#32, [], [], 0, false, [], []⟩
def landS (i : Instr) (tile : Bool) : State := bench 0 [(0, { Elem.fresh .ce with node := [opOf i tile], softOps := [softOf i] })]
theorem witness_Landings : [Instr.mld (fX 0 0 0 0 1 0), .mst (fX 0 0 0 0 1 0), .mtrn (fX 0 0 0 0 1 0), .mout (fX 0 0 0 0 1 0)].all (fun i =>
      (landS i false).nowE.node.find? (fun q => q.id == (landS i false).focus.n && !q.tile) == some (opOf i false)) = true ∧
    [Instr.mma (fX 0 0 0 0 0 0), .mmas (fX 0 0 0 0 0 0), .mctr (fX 0 0 0 0 0 0), .msrt (fX 0 0 0 0 0 0), .folm (fX 0 0 0 0 0 0)].all (fun i =>
      (landS i true).nowE.node.find? (fun q => q.id == (landS i true).focus.n && q.tile) == some (opOf i true)) = true ∧
    [Instr.stkh (fK 0 0 0), .collapse (fK 0 0 0), .stke (fM 0 0 0 0), .gmsk (fK 0 0 0), .gstp (fK 0 0 0), .prpl (fK 0 0 0)].all (fun i =>
      (landS i true).nowE.softOps.find? (fun q => q.id == (landS i true).focus.n) == some (softOf i)) = true ∧
    (landS (.fold (fM 0 0 0 0)) false).nowE.node.find? (fun q => q.id == 0) = some (opOf (.fold (fM 0 0 0 0)) false) := by decide
/-- What STKH completes reads no memory, and the transition of a GSTP has its own place to be translated first. -/
theorem witness_Landings_reads :
    (landS (.stkh (fK 0 0 0)) true).needsWait 0 false ((landS (.stkh (fK 0 0 0)) true).softNeeds (softOf (.stkh (fK 0 0 0)))) = none ∧
    ((landS (.gstp (fK 0 0 0)) true).needsWait 0 false ((landS (.gstp (fK 0 0 0)) true).softNeeds (softOf (.gstp (fK 0 0 0))))).isSome = true := by decide
/-- A FOLD of 32 elements whose burst lies clear of XP. -/
theorem witness_Landings_fold : (landS (.fold (fM 0 0 0 0)) false).nowE.sram.wf = true ∧ ({ opOf (.fold (fM 0 0 0 0)) false with
    z := List.replicate 64 0#32 }).z.length = 2 * 32 ∧ (0 + 36 * (32 / 32) ≤ 64 ∨ 64 + 4 * 32 ≤ 0) ∧ 0 < 32 / 32 := by decide
theorem witness_Landings_bound : Bound (landS (.fold (fM 0 0 0 0)) false) := by unfold Bound; decide

/-! ## Witnesses of the statements on the whole machine -/

theorem witness_EntryRoundTrip : (hd .nop).instr.opc = some 0x00#8 ∧ (hd (.sigq (fK 0 0 0))).instr.opc = some 0xFB#8 := by decide
theorem witness_MessageRoundTrip : (Instr.cancel h0 1#8 4#32).msgBody = some (h0, 0x08, 1, [1#8] ++ leBytes 3 0 ++ leBytes 4 4) ∧
    h0.bad = false := by decide
theorem witness_MessageRoundTrip_kind : ∀ kind, Instr.cancel h0 1#8 4#32 ≠ .unknownKind h0 kind := by intro k h; cases h
/-- The first and the last opcode of each reserved range, and the illegal one. -/
theorem witness_ReservedOpcodes : [0x2D, 0x3F, 0x50, 0x5F, 0x7C, 0x7F, 0x8A, 0x8F, 0xAC, 0xBF, 0xCD, 0xCF, 0xDE, 0xDF, 0xEE, 0xEF, 0xFC, 0xFF].map
    (fun o => ((BitVec.ofNat 64 (o * 2 ^ 40)).extractLsb' 40 8).toNat) =
    [0x2D, 0x3F, 0x50, 0x5F, 0x7C, 0x7F, 0x8A, 0x8F, 0xAC, 0xBF, 0xCD, 0xCF, 0xDE, 0xDF, 0xEE, 0xEF, 0xFC, 0xFF] := by decide

/-- An entry placed where the next step takes it: MOVI g2, 2 at stamp 1, and the same under a predicate that is false. -/
def placed (w : Nat) : State := State.reset.withFetchWord 64 w
theorem witness_StepRuns : (placed 0x0010020020000002).ready = [.fire 0 0 0 0] ∧
    ((placed 0x0010020020000002).atFire 0 0 0 0).firing.map (·.instr) = some (.movi ⟨2#7, 0#7, 2#21⟩) ∧
    ((placed 0x0010020020000002).atFire 0 0 0 0).predChk 0 = .ok ∧
    ((placed 0x0010020020000002).atFire 0 0 0 0).predTrue 0 false = true ∧ ((placed 0x0010020020000002).atFire 0 0 0 0).predTrue 1 false = false ∧
    ((placed 0x0010020020000002).atFire 0 0 0 0).upsetHere false = none ∧
    ({ State.reset with ready := [.flit 3 []] }).ready = [.flit 3 []] ∧ State.reset.ready = [] ∧ ({ State.reset with ready := [.msg []] }).ready = [.msg []] ∧
    ({ State.reset with ready := [.sbw 0#32 0#32] }).ready = [.sbw 0#32 0#32] := by decide
/-- A predicate that is pending stalls. -/
theorem witness_StepRuns_stall : (bench 0 [(0, { Elem.fresh .ce with marks := [.reg 97] })]).predChk 1 = .stall := by decide
/-- The step of the placed MOVI writes 2 to g2. -/
theorem test_step_movi : (match step (placed 0x0010020020000002) with | .next t => t.nowE.g.get 0#32 2 | _ => 0#32) = 2#32 := by decide

theorem witness_CanonicalKept : Canonical rowsS := by unfold Canonical; decide
theorem witness_EntriesLeaveMemory : (Instr.add (fT 6 1 2 0 0)).opc = some 0x04#8 := by decide
theorem witness_OperandsAndDelivery : Bound ab ∧ (0 : Nat) < 32 ∧ (31 : Nat) < 32 ∧ (32 ≤ (32 : Nat) ∧ (32 : Nat) < 64) ∧
    (bench 0 [(0, { Elem.fresh .ce with inq := [(1, [9#32])] })]).oldE.inq.get [] (65 - 64) = [9#32] ∧ (80 ≤ (87 : Nat) ∧ (87 : Nat) < 88) ∧
    (97 ≤ (103 : Nat) ∧ (103 : Nat) < 104) := by unfold Bound; decide

/-- A region with one fault raised: one that counts, with 0, 1 or 2 voids behind it, one that can be resumed, and another. -/
def fltOf (code : Nat) (res cnt : Bool) : Flt := ⟨code, 0, 0, 0, 0, 0, 0, 0, res, cnt⟩
def faulty (f : Flt) (v : Nat) : State := ab.modR (fun g => { g with raised := [f], voids := v })
theorem witness_TakingAFault : ((faulty (fltOf 0x51 false true) 1).regions.find 0).isSome = true ∧
    ((faulty (fltOf 0x51 false true) 1).reg 0).raised = [fltOf 0x51 false true] ∧ ((faulty (fltOf 0x51 false true) 1).reg 0).shadowBad = none ∧
    ((faulty (fltOf 0x51 false true) 1).reg 0).voids < 2 ∧ 2 ≤ ((faulty (fltOf 0x50 false true) 2).reg 0).voids ∧
    ((faulty (fltOf 0x40 true false) 0).reg 0).raised = [fltOf 0x40 true false] ∧ ((faulty (fltOf 0x40 true false) 0).reg 0).saves = false ∧
    ((faulty (fltOf 0x43 false false) 0).reg 0).raised = [fltOf 0x43 false false] ∧ [fltOf 0x43 false false] ≠ [] := by decide


end Sys2Proof.Tests
end

section
/-! PROOFS. O56: the machine right after a power-on reset. -/

namespace Sys2Proof.Machine

open Sys2Proof Sys2Proof.Safety

/-! ## The sideband registers right after reset (R32, R56, R256) -/

/-- Every die, listed or not, reads as a die after reset. -/
theorem reset_die (i : Nat) : ((State.reset.dies)[i]?).getD Die.reset = Die.reset := by
  simp only [State.reset, List.getElem?_replicate]
  split <;> rfl

/-- What a table that gives `v` to every key it lists reads as under the default `v`. -/
theorem Tbl.get_of_const {α : Type} {v : α} {t : Tbl α} (h : ∀ p ∈ t, p.2 = v) (k : Nat) : t.get v k = v := by
  induction t with
  | nil => rfl
  | cons p t ih =>
    obtain ⟨a, b⟩ := p
    have hb : b = v := h (a, b) (List.mem_cons_self ..)
    by_cases ha : a = k <;> simp [Tbl.get, ha, hb, ih fun q hq => h q (List.mem_cons_of_mem _ hq)]

/-- Every port, listed or not, reads as a port after reset. -/
theorem reset_port (i : Nat) : State.reset.port i = Port.reset :=
  Tbl.get_of_const (by simp [State.reset]) i

/-- An offset that a register group claims lies in the group. -/
theorem regIndex_eq_some {off base n i : Nat} (h : regIndex off base n = some i) : base ≤ off ∧ off < base + 4 * n := by
  unfold regIndex at h
  split at h
  next hc => exact ⟨hc.1, hc.2.1⟩
  next => cases h

/-- What the registers hold right after reset, by offset: DEVID, DIEMAP, HLMOD and the three sequence numbers; every other reads zero. -/
def regAtReset (off : Nat) : Word :=
  if off = 0x000 then 0xA5C10128#32 else if off = 0x00C then 0xFF#32 else if off = 0x010 then 0xF#32
  else if off = 0x100 ∨ off = 0x104 ∨ off = 0x108 then 0xFFFFFFFF#32 else 0#32

/-- The registers of the dies and ports, which come in groups, read zero. -/
theorem regAtReset_group {off base n i : Nat} (h : regIndex off base n = some i)
    (hg : 0x014 ≤ base ∧ base + 4 * n ≤ 0x100 ∨ 0x10C ≤ base) : regAtReset off = 0#32 := by
  obtain ⟨hl, hu⟩ := regIndex_eq_some h
  simp only [regAtReset]
  rw [if_neg (by omega), if_neg (by omega), if_neg (by omega), if_neg (by omega)]

theorem sideband_reset (off : Nat) : State.reset.sideband off = regAtReset off := by
  simp only [State.sideband, reset_die, reset_port]
  rcases hd : regIndex off 0x040 8 with _ | d
  · rcases hp : regIndex off 0x080 18 with _ | e
    · rcases hf : regIndex off 0x140 8 with _ | d
      · simp only []
        split
        case h_14 => simp_all [regAtReset]
        all_goals rfl
      · exact (regAtReset_group hf (.inr (by decide))).symm
    · exact (regAtReset_group hp (.inl (by decide))).symm
  · exact (regAtReset_group hd (.inl (by decide))).symm

end Sys2Proof.Machine

namespace Sys2Proof.Settled

open Sys2Proof Sys2Proof.Machine Sys2Proof.Safety

/-- Settles O56: the state after reset is a literal; its registers are read one group at a time (`sideband_reset`). -/
theorem resetState : Obligations.ResetState := by
  unfold Obligations.ResetState
  refine ⟨⟨rfl, rfl, rfl⟩, rfl, rfl, rfl, rfl, ?_, rfl, ?_, sideband_reset, rfl, rfl, rfl, ?_, rfl, rfl, rfl, ?_⟩
  · simp [State.reset, Die.reset]
  · simp [State.reset, Port.reset]
  · rintro t h
    obtain rfl : Tenant.zero = t := by simpa [State.tenant, State.reset, Tbl.find] using h
    decide
  · intro d w hd hw
    simp only [State.reset, List.mem_map, List.mem_range]
    exact ⟨d * 16 + w, by omega, by simp only [Prod.mk.injEq]; omega⟩

end Sys2Proof.Settled
end

section
/-! PROOFS. O39: the viral state, the length of a cycle, and soft errors. -/

namespace Sys2Proof.Machine

open Sys2Proof Sys2Proof.Safety

/-! ## The viral state (R23 to R25) -/

/-- What a table reads as after a change to each of its values, which may depend on the key. -/
theorem Tbl.find_mapVals {α β : Type} (t : Tbl α) (f : Nat → α → β) (k : Nat) :
    Tbl.find (t.map (fun (p : Nat × α) => (p.1, f p.1 p.2))) k = (t.find k).map (f k) := by
  induction t with
  | nil => rfl
  | cons p t ih =>
    obtain ⟨a, b⟩ := p
    by_cases h : a = k
    · subst h; simp [Tbl.find]
    · simp [Tbl.find, h, ih]

/-- A part that has just become viral, before its VIRAL message: nothing runs, and what waited to commit is discarded (R24, R25). -/
def State.struckViral (s : State) (cause : Nat) : State :=
  { s with viral := true, viralCause := BitVec.ofNat 8 cause
           ready := s.ready.filter Op.outlives
           ports := s.ports.map (fun (p : Nat × Port) =>
             (p.1, if 10 ≤ p.1 && p.2.st == .active then { p.2 with viralInd := true } else p.2))
           regions := s.regions.map (fun (p : Nat × Region) => (p.1, p.2.discard)) }

/-- A message issued without a budget changes the host interface alone. -/
theorem State.issue_only (s : State) {m : DMsg} (h : m.eff = none) : ∃ n, s.issue m = { s with nmp := n } := by
  unfold State.issue
  rw [h]
  exact ⟨_, rfl⟩

/-- A part that becomes viral: its VIRAL message changes the host interface alone. -/
theorem State.goViral_eq {s : State} (h : s.viral = false) (cause : Nat) :
    ∃ n, s.goViral cause = { s.struckViral cause with nmp := n } := by
  unfold State.goViral
  rw [h]
  by_cases hm : s.hlmod.any id = true
  · obtain ⟨n, hn⟩ := State.issue_only (s.struckViral cause)
      (m := { kind := 0x84, func := 0, tag := 0#32, units := 1, payload := [BitVec.ofNat 8 cause] }) rfl
    exact ⟨n, (if_pos hm).trans hn⟩
  · exact ⟨s.nmp, if_neg hm⟩

/-- A part that is viral stays as it is. -/
theorem State.goViral_viral {s : State} (h : s.viral = true) (cause : Nat) : s.goViral cause = s := by simp [State.goViral, h]

/-- What a part that becomes viral shows: its cause; nothing commits, nothing fires, and no byte changes (R24). -/
structure BecameViral (s t : State) (cause : Byte) : Prop where
  viral : t.viral = true
  cause : t.viralCause = cause
  commits : ∀ r g, t.regions.find r = some g → g.commit = [] ∧ g.commitOn = false
  fires : ∀ r sg x y, Op.fire r sg x y ∉ t.ready
  coh : t.coh = s.coh
  dram : t.dram = s.dram
  host : t.host = s.host

theorem State.goViral_becomes {s : State} (h : s.viral = false) (cause : Nat) :
    BecameViral s (s.goViral cause) (BitVec.ofNat 8 cause) := by
  obtain ⟨n, hn⟩ := State.goViral_eq h cause
  rw [hn]
  refine ⟨rfl, rfl, fun r g hg => ?_, fun r sg x y hr => ?_, rfl, rfl, rfl⟩
  · obtain ⟨g', -, rfl⟩ := Option.map_eq_some_iff.1 ((Tbl.find_mapVals s.regions (fun _ => Region.discard) r).symm.trans hg)
    exact ⟨rfl, rfl⟩
  · exact absurd (List.mem_filter.1 hr).2 (by simp [Op.outlives])

/-! ## The length of a cycle (R1, R26, R28) -/

/-- Where no die in service droops or is hot, a cycle lasts 0.8 ns. -/
theorem State.nsStep_of_unstretched {s : State} (h : ∀ d ∈ s.dies, d.service = true → d.droop = false ∧ d.heat = false) :
    s.nsStep = 8 := by
  have hs : s.stretched = false := by
    simp only [State.stretched, List.any_eq_false, Bool.and_eq_true, not_and]
    intro d hd hserv
    obtain ⟨hdr, hh⟩ := h d hd hserv
    simp [Die.stretched, hdr, hh]
  simp [State.nsStep, hs]

/-- A cycle lasts 0.8 ns at least, and at most twice that. -/
theorem State.nsStep_bounds (s : State) : 8 ≤ s.nsStep ∧ s.nsStep ≤ 16 := by
  unfold State.nsStep
  split
  · exact ⟨Nat.le_max_left _ _, Nat.max_le.2 ⟨by decide, Nat.min_le_left _ _⟩⟩
  · decide

/-- The clock counts what the cycle has lasted. -/
theorem State.tick_ns (s : State) : 10 * s.tick.ns + s.tick.nsTenth = 10 * s.ns + s.nsTenth + s.nsStep := by
  change 10 * (s.ns + (s.nsTenth + s.nsStep) / 10) + (s.nsTenth + s.nsStep) % 10 = _
  omega

/-! ## Soft errors (R252 to R254) -/

/-- A corrected error is counted, and on its page where it has one. -/
theorem exec_softError_corrected (s : State) (k loc : Nat) : exec (.softError k loc false) s = .next (
    if k = 0 ∨ k = 1 ∨ k = 5 ∨ k = 7 then { s with
      eccc := satInc s.eccc
      regions := s.regions.modify (errLoc loc).r (fun g => g.count 0x0A (s.errPage (errLoc loc)) 1) }
    else { s with eccc := satInc s.eccc }) := rfl

/-- The state in which an uncorrectable error has been counted and located, and has had no other effect yet. -/
def State.counted (s : State) (k loc : Nat) : State := { s with eccu := satInc s.eccu, eccloc := s.eccLoc k loc }

theorem exec_softError_uncorrectable (s : State) (k loc : Nat) :
    exec (.softError k loc true) s = .next ((s.counted k loc).uncorrectable k loc) := rfl

/-! ## Host-link modules (R10) -/

theorem exec_hostLinkModuleLoss (s : State) (m : Nat) : exec (.hostLinkModuleLoss m) s = .next (
    if (s.hlmod.set m false).any id then { s with hlmod := s.hlmod.set m false }
    else ({ s with hlmod := s.hlmod.set m false }).goViral 3) := rfl

end Sys2Proof.Machine

namespace Sys2Proof.Settled

open Sys2Proof Sys2Proof.Machine Sys2Proof.Safety

/-- Settles O39: each effect is the instruction's equation, and the viral ones follow from `goViral_becomes`. -/
theorem clockAndErrors : Obligations.ClockAndErrors := by
  unfold Obligations.ClockAndErrors
  intro s die loc m k off v l struck
  refine ⟨rfl, rfl, rfl, rfl, State.nsStep_of_unstretched, s.nsStep_bounds.1, s.nsStep_bounds.2, s.tick_ns, rfl, rfl, rfl, rfl, rfl, rfl, rfl,
    fun hk => ?corrected, fun hk => ?correctedOnPage, fun hk => ?memory, fun hk => ?word, fun hk => ?shadow, fun hk => ?saved,
    fun hk hv => ?tables, fun hv i c hi => ?viral, fun hv => ?stays, fun hm => ?moduleLeft, fun hm hv => ?noModule⟩
  case corrected => rw [exec_softError_corrected, if_neg (by omega)]
  case correctedOnPage => rw [exec_softError_corrected, if_pos hk]
  case memory => obtain rfl | rfl := hk <;> rfl
  case word => obtain rfl | rfl | rfl := hk <;> rfl
  case shadow => subst hk; rfl
  case saved => subst hk; rfl
  case tables =>
    subst hk
    have b := State.goViral_becomes (s := s.counted 3 loc) hv 4
    exact ⟨_, exec_softError_uncorrectable s 3 loc, b.viral, b.cause⟩
  case viral =>
    simp only [List.mem_cons, Prod.mk.injEq, List.not_mem_nil, or_false] at hi
    obtain ⟨rfl, rfl⟩ | ⟨rfl, rfl⟩ := hi
    · have b := State.goViral_becomes hv 5
      exact ⟨_, rfl, b.viral, b.cause, b.commits, b.fires, b.coh, b.dram, b.host⟩
    · have b := State.goViral_becomes hv 6
      exact ⟨_, rfl, b.viral, b.cause, b.commits, b.fires, b.coh, b.dram, b.host⟩
  case stays => exact ⟨congrArg _ (State.goViral_viral hv 5), congrArg _ (State.goViral_viral hv 6)⟩
  case moduleLeft => rw [exec_hostLinkModuleLoss, if_pos hm]
  case noModule =>
    have b := State.goViral_becomes (s := { s with hlmod := s.hlmod.set m false }) hv 3
    exact ⟨_, by rw [exec_hostLinkModuleLoss, if_neg (by rw [hm]; decide)], b.viral, b.cause⟩

end Sys2Proof.Settled
end

section
/-! PROOFS. O40: what the reset sequence leaves. -/

namespace Sys2Proof.Machine

open Sys2Proof Sys2Proof.Safety

/-! ## The reset sequence (R34, R35) -/

/-- The pages and dies that are excluded after a reset of a cause: those that failed their self-test, and, where the reset is no cold one,
those that RETIRE has excluded (R35, R62). -/
def State.outAfter (s : State) (c : BitVec 2) (badPages : List Nat) : List Nat := ((if c = 0#2 then [] else s.retired) ++ badPages).dedup

/-- The host-link modules after a reset of a cause: a warm one trains none (R35). -/
def State.modulesAfter (s : State) (c : BitVec 2) (badModules : List Nat) : List Bool :=
  if c = 1#2 then s.hlmod else (List.range 4).map (fun m => !(badModules.contains m))

/-- Port n after a reset of a cause. -/
def State.portOf (s : State) (c : BitVec 2) (badPages badDies : List Nat) (n : Nat) : Port :=
  portAfter (diesAfter (s.outAfter c badPages) badDies) (if c = 0#2 then [] else (s.port n).retired) n

/-- The part after the steps of the sequence whose boot firmware passed its check, before the failures of links tell. -/
def State.booted (s : State) (c : BitVec 2) (badPages badDies badModules : List Nat) : State :=
  { s.afterReset c with
    hlmod := s.modulesAfter c badModules, retired := s.outAfter c badPages, dies := diesAfter (s.outAfter c badPages) badDies
    retiredMem := if c = 0#2 then [] else s.retiredMem
    ports := (List.range 18).map (fun p => (p, s.portOf c badPages badDies p)) }

/-- A reset by firmware that has become pending before the part became viral is dropped (R25). -/
theorem exec_resetSequence_viral {s : State} (hv : s.viral = true) (hp : s.resetPend = some 2#2) (ok : Bool) (bp bd bm : List Nat) :
    exec (.resetSequence ok bp bd bm) s = .next { s with resetPend := none } := by
  change execResetSequence ok bp bd bm s = _
  simp [execResetSequence, hp, hv, go]

theorem exec_resetSequence {s : State} {c : BitVec 2} (hp : s.resetPend = some c) (hv : ¬(s.viral = true ∧ c = 2#2)) (bp bd bm : List Nat) :
    exec (.resetSequence true bp bd bm) s = .next (
      if (s.booted c bp bd bm).ports.any (fun p => p.2.st == .failed) then (s.booted c bp bd bm).goViral 2
      else if (s.modulesAfter c bm).any id then s.booted c bp bd bm else (s.booted c bp bd bm).goViral 3) := by
  change execResetSequence true bp bd bm s = _
  have hv' : (s.viral && c == 2#2) = false := by simpa using hv
  by_cases hc : c = 0#2
  · subst hc
    simp only [execResetSequence, hp, hv', go]
    rfl
  · have hk : (c != 0#2) = true := by simpa using hc
    simp only [execResetSequence, hp, hv', hk, go, State.booted, State.portOf, State.outAfter, State.modulesAfter, hc]
    rfl

/-- The part whose boot firmware failed its check: held and viral with cause 1, and its ports down (R36). -/
def State.bootFailed (s : State) (c : BitVec 2) (badModules : List Nat) : State :=
  { s.afterReset c with
    hlmod := s.modulesAfter c badModules, held := true, viral := true, viralCause := 1#8
    ports := State.reset.ports.map (fun (p : Nat × Port) => (p.1, { p.2 with st := .down, width := 0 })) }

theorem exec_resetSequence_bootFailed {s : State} {c : BitVec 2} (hp : s.resetPend = some c) (hv : ¬(s.viral = true ∧ c = 2#2))
    (bp bd bm : List Nat) : exec (.resetSequence false bp bd bm) s = .next (s.bootFailed c bm) := by
  change execResetSequence false bp bd bm s = _
  have hv' : (s.viral && c == 2#2) = false := by simpa using hv
  simp only [execResetSequence, hp, hv', go]
  rfl

/-- Firmware's own reset waits for no other, and a viral part takes none (R25, R33). -/
theorem exec_firmwareInitiatedReset (s : State) : exec .firmwareInitiatedReset s = .next (
    if s.viral || s.resetPend.isSome then s else { s with resetPend := some 2#2 }) := rfl

/-- Some module is up. -/
theorem any_id_iff {l : List Bool} : l.any id = true ↔ ∃ m : Nat, l[m]? = some true := by
  simp [List.any_eq_true, List.mem_iff_getElem?]

/-- What a table that lists each number below n with a value reads as. -/
theorem Tbl.get_range {α : Type} (d : α) (f : Nat → α) {n k : Nat} (h : k < n) :
    Tbl.get d ((List.range n).map (fun i => (i, f i))) k = f k := by
  have key : ∀ l : List Nat, k ∈ l → Tbl.get d (l.map (fun i => (i, f i))) k = f k := fun l => by
    induction l with
    | nil => simp
    | cons i l ih => by_cases hi : i = k <;> simp_all [Tbl.get, eq_comm]
  exact key _ (List.mem_range.2 h)

/-- A port that has failed its training shows in the list of all. -/
theorem State.booted_failed (s : State) (c : BitVec 2) (bp bd bm : List Nat) :
    (s.booted c bp bd bm).ports.any (fun p => p.2.st == .failed) = true ↔ ∃ n, n < 18 ∧ (s.portOf c bp bd n).st = .failed := by
  simp [State.booted, List.any_eq_true]

/-- A page is out of service after a reset when it failed its self-test, or was excluded before a reset that is not cold. -/
theorem State.mem_outAfter (s : State) (c : BitVec 2) (bp : List Nat) (q : Nat) :
    q ∈ s.outAfter c bp ↔ q ∈ bp ∨ (c ≠ 0#2 ∧ q ∈ s.retired) := by
  by_cases hc : c = 0#2 <;> simp [State.outAfter, hc, or_comm]

/-- A die that failed its self-test is out of service (R35). -/
theorem diesAfter_bad (out : List Nat) {bd : List Nat} {d : Nat} (h : d < 8) (hb : d ∈ bd) :
    ((diesAfter out bd)[d]?).map (·.service) = some false := by
  simp [diesAfter, h, hb]

end Sys2Proof.Machine

namespace Sys2Proof.Settled

open Sys2Proof Sys2Proof.Machine Sys2Proof.Safety

/-- Settles O40: the sequence ends in `booted`, which a failed port or the want of any module makes viral, or in `bootFailed`. -/
theorem resets : Obligations.Resets := by
  unfold Obligations.Resets
  intro s bp bd bm
  refine ⟨rfl, rfl, rfl, fun hv hp => ?_, fun h => ?_, fun hv hp ok => exec_resetSequence_viral hv hp ok bp bd bm, fun c hp hv => ?_⟩
  · simp [exec_firmwareInitiatedReset, hv, hp]
  · rw [exec_firmwareInitiatedReset, if_pos (by simpa [Option.isSome_iff_ne_none] using h)]
  · intro out portOf modules
    have hexec := exec_resetSequence hp hv bp bd bm
    have hviral : (s.booted c bp bd bm).viral = false := rfl
    have trained (hf : ∀ n, n < 18 → (portOf n).st ≠ .failed) : ¬ (s.booted c bp bd bm).ports.any (fun p => p.2.st == .failed) = true :=
      fun h => by
        obtain ⟨n, hn, hfail⟩ := (State.booted_failed s c bp bd bm).1 h
        exact hf n hn hfail
    refine ⟨fun hf hm => ?_, fun hf => ?_, fun hf hm => ?_, ⟨_, exec_resetSequence_bootFailed hp hv bp bd bm, rfl, rfl, rfl, rfl⟩⟩
    · have hup : (s.modulesAfter c bm).any id = true := any_id_iff.2 hm
      exact ⟨s.booted c bp bd bm, by rw [hexec, if_neg (trained hf), if_pos hup], rfl, rfl, rfl, rfl, rfl, rfl, rfl, rfl, rfl, rfl, rfl,
        rfl, rfl, rfl, rfl, s.mem_outAfter c bp, fun n hn => Tbl.get_range _ _ hn, fun d hd hb => diesAfter_bad _ hd hb⟩
    · obtain ⟨n, hn⟩ := State.goViral_eq hviral 2
      exact ⟨_, by rw [hexec, if_pos ((State.booted_failed s c bp bd bm).2 hf), hn], rfl, rfl, rfl⟩
    · have hdown : ¬ (s.modulesAfter c bm).any id = true := fun h => by
        obtain ⟨m, hm'⟩ := any_id_iff.1 h
        exact hm m hm'
      obtain ⟨n, hn⟩ := State.goViral_eq hviral 3
      exact ⟨_, by rw [hexec, if_neg (trained hf), if_neg hdown, hn], rfl, rfl, rfl⟩

end Sys2Proof.Settled
end

section
/-! PROOFS. O41: what the memory side does of itself, L2 ways, hot blocks and holds. -/

namespace Sys2Proof.Machine

open Sys2Proof Sys2Proof.Safety

/-! ## What the memory side does of itself: suspensions, write-backs and flushes (R31, R159, R161, R166) -/

/-- Nothing differs but the L2, the hold table with the latencies and timers of its suspensions, and the bytes of DRAM, in canonical form
where they were. -/
structure MemSide (s t : State) : Prop where
  only : t = { s with l2 := t.l2, rows := t.rows, timers := t.timers, lats := t.lats, dram := t.dram }
  wf : s.dram.wf = true → t.dram.wf = true

theorem MemSide.refl (s : State) : MemSide s s := ⟨rfl, id⟩

theorem MemSide.trans {s t u : State} (h : MemSide s t) (k : MemSide t u) : MemSide s u :=
  ⟨by have hk := k.only; rw [h.only] at hk; exact hk, fun hw => k.wf (h.wf hw)⟩

theorem MemSide.coh {s t : State} (h : MemSide s t) : t.coh = s.coh := by rw [h.only]

/-- Steps each of which keeps to the memory side do so together. -/
theorem MemSide.foldl {α : Type} {g : State → α → State} (h : ∀ s a, MemSide s (g s a)) (l : List α) (s : State) :
    MemSide s (l.foldl g s) := by
  induction l generalizing s with
  | nil => exact .refl s
  | cons a l ih => exact (h s a).trans (ih _)

/-- A field that each step of a fold keeps is kept by the fold. -/
theorem State.foldl_field {α β : Type} (p : State → β) {g : State → α → State} (h : ∀ s a, p (g s a) = p s) (l : List α) (s : State) :
    p (l.foldl g s) = p s := by
  induction l generalizing s with
  | nil => rfl
  | cons a l ih => exact (ih _).trans (h s a)

theorem MemSide.suspendRow (s : State) (row : Nat) : MemSide s (s.suspendRow row) := by
  obtain ⟨l, hl⟩ := s.lat_only
  simp only [State.suspendRow, State.latMost, hl]
  exact ⟨rfl, id⟩

theorem MemSide.suspendFor (s : State) (pa : Nat) : MemSide s (s.suspendFor pa) := MemSide.foldl (fun t _ => .suspendRow t _) _ s

@[simp] theorem State.suspendRow_l2 (s : State) (row : Nat) : (s.suspendRow row).l2 = s.l2 := s.latMost_l2 s.suspendMost

@[simp] theorem State.suspendFor_l2 (s : State) (pa : Nat) : (s.suspendFor pa).l2 = s.l2 :=
  State.foldl_field State.l2 (fun t _ => t.suspendRow_l2 _) _ s

/-- A change of DRAM's bytes alone. -/
theorem MemSide.setDram (s : State) {m : Memory} (h : s.dram.wf = true → m.wf = true) : MemSide s { s with dram := m } := ⟨rfl, h⟩

/-- A write-back changes DRAM, and the rows that it suspends. -/
theorem MemSide.cleanSectors (s : State) (ln mask : Nat) : MemSide s (s.cleanSectors ln mask) := by
  unfold State.cleanSectors
  split
  · exact .refl s
  · refine (MemSide.suspendFor s _).trans (MemSide.foldl (fun t i => ?_) _ _)
    split
    · exact .setDram t (Memory.wf_writeN _ _)
    · exact .refl t

@[simp] theorem State.cleanSectors_l2 (s : State) (ln mask : Nat) : (s.cleanSectors ln mask).l2 = s.l2 := by
  unfold State.cleanSectors
  split
  · rfl
  · refine (State.foldl_field State.l2 (fun t i => ?_) _ _).trans (s.suspendFor_l2 _)
    split <;> rfl

/-- The lines of a set after a flush. -/
def flushedLines (pick : Line → Bool) (clean inv : Bool) (ls : List Line) : List Line :=
  (ls.filter (fun l => !(pick l && inv))).map (fun l => if pick l && clean then { l with dirty := 0 } else l)

/-- A flush of one set. -/
def State.flushSet (pick : Line → Bool) (clean inv : Bool) (t : State) (p : Nat × List Line) : State :=
  let u := (p.2.filter pick).foldl (fun (u : State) l => if clean || inv then u.cleanSectors l.ln l.dirty else u) t
  { u with l2 := u.l2.set p.1 (flushedLines pick clean inv p.2) }

theorem State.flushLines_eq (s : State) (pick : Line → Bool) (clean inv : Bool) :
    s.flushLines pick clean inv = s.l2.foldl (State.flushSet pick clean inv) s := rfl

theorem MemSide.flushLines (s : State) (pick : Line → Bool) (clean inv : Bool) : MemSide s (s.flushLines pick clean inv) := by
  rw [State.flushLines_eq]
  refine MemSide.foldl (fun t p => ?_) _ s
  refine MemSide.trans (MemSide.foldl (fun u l => ?_) (p.2.filter pick) t) (⟨rfl, id⟩ : MemSide _ (State.flushSet pick clean inv t p))
  split
  · exact .cleanSectors u _ _
  · exact .refl u

theorem State.flushSet_l2 (pick : Line → Bool) (clean inv : Bool) (t : State) (p : Nat × List Line) :
    (State.flushSet pick clean inv t p).l2 = t.l2.set p.1 (flushedLines pick clean inv p.2) := by
  refine congrArg (fun m => Tbl.set m p.1 (flushedLines pick clean inv p.2)) (State.foldl_field State.l2 (fun u l => ?_) (p.2.filter pick) t)
  split <;> simp

theorem State.foldl_flushSet_l2 (pick : Line → Bool) (clean inv : Bool) (l : Tbl (List Line)) (s : State) :
    (l.foldl (State.flushSet pick clean inv) s).l2 = l.foldl (fun m p => Tbl.set m p.1 (flushedLines pick clean inv p.2)) s.l2 := by
  induction l generalizing s with
  | nil => rfl
  | cons p l ih => rw [List.foldl_cons, ih, State.flushSet_l2, List.foldl_cons]

/-- The sets of the L2 after a flush, as a table. -/
theorem State.flushLines_l2 (s : State) (pick : Line → Bool) (clean inv : Bool) : (s.flushLines pick clean inv).l2 =
    s.l2.foldl (fun m p => Tbl.set m p.1 (flushedLines pick clean inv p.2)) s.l2 := State.foldl_flushSet_l2 pick clean inv s.l2 s

/-- A value that a table lists stands in it. -/
theorem Tbl.mem_of_find {α : Type} {t : Tbl α} {k : Nat} {v : α} (h : t.find k = some v) : (k, v) ∈ t := by
  induction t with
  | nil => cases h
  | cons p t ih =>
    obtain ⟨a, b⟩ := p
    by_cases ha : a = k
    · obtain rfl : b = v := by simpa [Tbl.find, ha] using h
      rw [ha]
      exact List.mem_cons_self ..
    · exact List.mem_cons_of_mem _ (ih (by simpa [Tbl.find, ha] using h))

/-- Where a value comes from after a run of settings: from the run, or, for a key that the run does not set, from before. -/
theorem Tbl.find_foldl_set {α β : Type} (g : α → β) (l : Tbl α) {m : Tbl β} {k : Nat} {v : β}
    (h : (l.foldl (fun m p => Tbl.set m p.1 (g p.2)) m).find k = some v) :
    (∃ p ∈ l, v = g p.2) ∨ (m.find k = some v ∧ ∀ p ∈ l, p.1 ≠ k) := by
  induction l generalizing m with
  | nil => exact .inr ⟨h, by simp⟩
  | cons p l ih =>
    obtain ⟨q, hq, hv⟩ | ⟨hv, hn⟩ := ih h
    · exact .inl ⟨q, List.mem_cons_of_mem _ hq, hv⟩
    · by_cases hk : p.1 = k
      · subst hk
        exact .inl ⟨p, List.mem_cons_self .., by simpa using hv.symm⟩
      · exact .inr ⟨by rwa [Tbl.find_set_of_ne _ _ hk] at hv, by simpa [hk] using hn⟩

/-- Every set of the L2 is flushed. -/
theorem State.flushLines_sets {s : State} {pick : Line → Bool} {clean inv : Bool} {k : Nat} {ls : List Line}
    (h : (s.flushLines pick clean inv).l2.find k = some ls) : ∃ ls', ls = flushedLines pick clean inv ls' := by
  rw [State.flushLines_l2] at h
  obtain ⟨p, -, hv⟩ | ⟨hf, hn⟩ := Tbl.find_foldl_set _ _ h
  · exact ⟨p.2, hv⟩
  · exact absurd rfl (hn _ (Tbl.mem_of_find hf))

/-- An invalidating flush leaves none of the lines that it picks, by their number and way. -/
theorem not_picked_of_flushed {pick : Line → Bool} {clean : Bool} {ls : List Line} {l : Line}
    (hp : ∀ a : Line, pick { a with dirty := 0 } = pick a) (h : l ∈ flushedLines pick clean true ls) : pick l = false := by
  simp only [flushedLines, List.mem_map, List.mem_filter] at h
  obtain ⟨a, ⟨-, ha⟩, rfl⟩ := h
  have : pick a = false := by simpa using ha
  split <;> simp [hp, this]

/-! ## L2 ways and hot blocks (R31, R155) -/

/-- Whether a way of a die holds a pinned line. -/
def State.wayPinned (s : State) (die way : Nat) : Bool :=
  s.l2.any (fun p => dieOfSet p.1 == die && p.2.any (fun l => l.way == way && l.pin))

/-- The lines that a gating way loses. -/
def inWay (die way : Nat) (l : Line) : Bool := homeDie (l.ln * 256) == die && l.way == way

/-- A way gated: its lines are cleaned and invalidated first (R31). -/
def State.gateWay (s : State) (die way : Nat) : State :=
  let t := s.flushLines (inWay die way) true true
  { t with gatedWays := (die, way) :: t.gatedWays.filter (· != (die, way)) }

theorem exec_l2WayGate (s : State) (die way : Nat) (gate : Bool) : exec (.l2WayGate die way gate) s = .next (
    if s.viral then s
    else if !gate then { s with gatedWays := s.gatedWays.filter (· != (die, way)) }
    else if s.wayPinned die way then s
    else s.gateWay die way) := rfl

/-- A flush of a way leaves no line of it. -/
theorem State.flushLines_inWay {s : State} {die way k : Nat} {ls : List Line}
    (h : (s.flushLines (inWay die way) true true).l2.find k = some ls) {l : Line} (hl : l ∈ ls) (hd : homeDie (l.ln * 256) = die) :
    l.way ≠ way := by
  obtain ⟨ls', rfl⟩ := State.flushLines_sets h
  have := not_picked_of_flushed (fun _ => rfl) hl
  simpa [inWay, hd] using this

/-- A block that has been hot for its time loses HOT: bit 4 of its first byte, in memory as agents see it and, where DRAM holds the same
byte, there too (R155). -/
def State.cooled (s : State) (block : Nat) : State :=
  let hdr := s.coh.readN block 1
  let b := hdr.map (fun x => x &&& 0xEF#8)
  { s with hot := s.hot.del block, coh := s.coh.writeN block b
           dram := if s.dram.readN block 1 = hdr then s.dram.writeN block b else s.dram }

theorem exec_hotBlockTimeout {s : State} {block due : Nat} (h : s.hot.find block = some due) :
    exec (.hotBlockTimeout block) s = .next (if s.cycle < due then s else s.cooled block) := by
  change execHotBlockTimeout block s = _
  simp only [execHotBlockTimeout, h, go, State.cooled]

theorem State.cooled_read {s : State} (h : s.coh.wf = true) (block a : Nat) :
    (s.cooled block).coh.read a = if a = block then s.coh.read block &&& 0xEF#8 else s.coh.read a :=
  Memory.read_write h block _ a

/-! ## Holds at the home slices (R159, R161) -/

theorem State.suspendMost_le (s : State) : s.suspendMost ≤ 438 := by unfold State.suspendMost; split <;> decide

/-- A suspended row is held again within 438 cycles, and no byte of memory changes. -/
theorem State.suspendRow_spec (s : State) (row : Nat) : ∃ n, n ≤ 438 ∧ SameMemory s (s.suspendRow row) ∧
    (s.suspendRow row).rows = s.rows.map (fun k => if k.pa = row * 1024 ∧ k.st = .held then { k with st := .suspended } else k) ∧
    (s.suspendRow row).timers = s.timers ++ [(s.cycle + n, 0, .ev (.holdResume row) Focus.none)] := by
  refine ⟨(s.latMost s.suspendMost).1, (s.latMost_le _).trans s.suspendMost_le, ?_⟩
  simp [State.suspendRow, SameMemory]

theorem exec_holdTakesEffect {s : State} {line : Nat} {h : RowHold} (hh : s.rowHold (line * 256) = some h) (hs : h.st ≠ .saved) :
    exec (.holdTakesEffect line) s =
      .next ((s.flushLines (fun l => l.ln == line) true true).modHold h.pa (fun k => { k with lines := insertUniq line k.lines })) := by
  change execHoldTakesEffect line s = _
  simp [execHoldTakesEffect, hh, hs, go]

theorem exec_holdSuspend {s : State} {row : Nat} {h : RowHold} (hh : s.rowHold (row * 1024) = some h) (hs : h.st = .held) :
    exec (.holdSuspend row) s = .next (s.suspendRow row) := by
  change execHoldSuspend row s = _
  simp [execHoldSuspend, hh, hs, go]

end Sys2Proof.Machine

namespace Sys2Proof.Settled

open Sys2Proof Sys2Proof.Machine Sys2Proof.Safety

/-- Settles O41: a gated way has been flushed of its lines (`flushLines_inWay`), and what a flush or a suspension changes besides is
`MemSide`. -/
theorem waysAndRows : Obligations.WaysAndRows := by
  unfold Obligations.WaysAndRows
  intro s die way block row line
  refine ⟨fun hv g => ?viral, fun hv => ?wake, fun hp => ?pinned, fun hv hp => ?gate, fun hh => ?notHot, fun due hh hc => ?early,
    fun due hh hc => ?cool, fun hh => ?notHeld, fun h hh => exec_holdTakesEffect hh, fun h hh hs => ?suspend, rfl⟩
  case viral => rw [exec_l2WayGate, if_pos hv]
  case wake => simp [exec_l2WayGate, hv]
  case pinned =>
    have hp' : s.wayPinned die way = true := hp
    simp [exec_l2WayGate, hp']
  case gate =>
    have hp' : s.wayPinned die way = false := hp
    exact ⟨s.gateWay die way, by simp [exec_l2WayGate, hv, hp'], List.mem_cons_self .., (MemSide.flushLines s _ _ _).coh,
      fun k ls hk l hl hd => State.flushLines_inWay hk hl hd⟩
  case notHot =>
    change execHotBlockTimeout block s = _
    simp only [execHotBlockTimeout, hh, go]
  case early => rw [exec_hotBlockTimeout hh, if_pos hc]
  case cool =>
    refine ⟨s.cooled block, by rw [exec_hotBlockTimeout hh, if_neg (by omega)], rfl, fun hw => ⟨?_, fun a ha => ?_⟩⟩
    · rw [State.cooled_read hw, if_pos rfl]
    · rw [State.cooled_read hw, if_neg ha]
  case notHeld =>
    change execHoldTakesEffect line s = _
    simp only [execHoldTakesEffect, hh, go]
  case suspend =>
    obtain ⟨n, hn, hm, hr, ht⟩ := s.suspendRow_spec row
    exact ⟨_, n, hn, exec_holdSuspend hh hs, hm, hr, ht⟩

end Sys2Proof.Settled
end

section
/-! PROOFS. O42: ports by number, what sending changes, and what a flit does. -/

namespace Sys2Proof.Machine

open Sys2Proof Sys2Proof.Safety

/-! ## Ports by number -/

theorem State.port_of_find {s : State} {n : Nat} {p : Port} (h : s.ports.find n = some p) : s.port n = p := by
  simp [State.port, Tbl.get_eq_find, h]

/-- A port of the part after a change to it. -/
theorem State.modPort_find {s : State} {n : Nat} {p : Port} (h : s.ports.find n = some p) (f : Port → Port) :
    (s.modPort n f).ports.find n = some (f p) := by simp [State.modPort, h]

/-! ## What sending changes (R12) -/

/-- Two ports that differ only in what is sent and acknowledged: what waits, the sequence of sending, the replay buffer, and what went out. -/
structure Port.SendsOnly (p q : Port) : Prop where
  only : q = { p with waiting := q.waiting, txSeq := q.txSeq, txAck := q.txAck, replay := q.replay, out := q.out }

namespace Port.SendsOnly

variable {p q r : Port}

theorem refl (p : Port) : SendsOnly p p := ⟨rfl⟩

theorem trans (h : SendsOnly p q) (k : SendsOnly q r) : SendsOnly p r :=
  ⟨by have hk := k.only; rw [h.only] at hk; exact hk⟩

theorem st (h : SendsOnly p q) : q.st = p.st := by rw [h.only]
theorem width (h : SendsOnly p q) : q.width = p.width := by rw [h.only]
theorem rxSeq (h : SendsOnly p q) : q.rxSeq = p.rxSeq := by rw [h.only]
theorem got (h : SendsOnly p q) : q.got = p.got := by rw [h.only]
theorem wants (h : SendsOnly p q) : q.wants = p.wants := by rw [h.only]

theorem ackTo (p : Port) (a : Nat) : SendsOnly p (p.ackTo a) := by
  unfold Port.ackTo
  extract_lets d
  split <;> exact ⟨rfl⟩

theorem pumpN (p : Port) (n : Nat) : SendsOnly p (p.pumpN n) := by
  induction n generalizing p with
  | zero => exact .refl p
  | succ n ih =>
    unfold Port.pumpN
    split
    · exact .refl p
    · split
      · exact SendsOnly.trans ⟨rfl⟩ (ih _)
      · exact .refl p

end Port.SendsOnly

/-- What a port that may send does with what waits: behind a full replay buffer an idle flit goes. -/
def Port.pumped (q : Port) : Port :=
  if q.st ≠ .active then q
  else if 512 ≤ q.replay.length && q.waiting != [] then { q with out := q.out ++ [q.idleFlit] }
  else q.pumpN q.waiting.length

theorem Port.SendsOnly.pumped (p : Port) : SendsOnly p p.pumped := by
  unfold Port.pumped
  split
  · exact .refl p
  · split
    · exact ⟨rfl⟩
    · exact .pumpN p _

theorem State.pump_eq (s : State) (n : Nat) : s.pump n = if s.viral then s else s.modPort n Port.pumped := rfl

/-- Sending leaves the receiving side of a port as it was. -/
theorem State.pump_find {s : State} {n : Nat} {p : Port} (h : s.ports.find n = some p) :
    ∃ q, (s.pump n).ports.find n = some q ∧ p.SendsOnly q := by
  rw [State.pump_eq]
  split
  · exact ⟨p, h, .refl p⟩
  · exact ⟨_, State.modPort_find h _, .pumped p⟩

/-- So does an idle flit. -/
theorem State.idle_find {s : State} {n : Nat} {p : Port} (h : s.ports.find n = some p) :
    ∃ q, (s.idle n).ports.find n = some q ∧ p.SendsOnly q := by
  unfold State.idle
  split
  · exact ⟨p, h, .refl p⟩
  · refine ⟨_, State.modPort_find h _, ?_⟩
    split
    · exact ⟨rfl⟩
    · exact .refl p

/-! ## What a whole flit does (R12) -/

section take

variable {p : Port} {f : Flit}

/-- The port that has taken a flit's acknowledgement. -/
def Port.acked (p : Port) (f : Flit) : Port := if f.av then p.ackTo f.ack.toNat else p

theorem Port.SendsOnly.acked (p : Port) (f : Flit) : SendsOnly p (p.acked f) := by
  unfold Port.acked
  split
  · exact .ackTo p _
  · exact .refl p

theorem Port.take_eq (p : Port) (f : Flit) : p.take f =
    if f.cls = 3#2 then p.acked f
    else if linkDist p.rxSeq f.seq.toNat = 1 then
      { p.acked f with rxSeq := f.seq.toNat, got := p.got ++ [(f.cls.toNat, f.payload)], wants := false }
    else if linkDist f.seq.toNat p.rxSeq < 512 then p.acked f
    else { p.acked f with wants := true } := by
  rw [← (Port.SendsOnly.acked p f).rxSeq, ← (Port.SendsOnly.acked p f).got]
  rfl

/-- A flit in sequence is accepted. -/
theorem Port.take_next (hc : f.cls ≠ 3#2) (hd : linkDist p.rxSeq f.seq.toNat = 1) :
    Port.SendsOnly { p with rxSeq := f.seq.toNat, got := p.got ++ [(f.cls.toNat, f.payload)], wants := false } (p.take f) := by
  rw [Port.take_eq, if_neg hc, if_pos hd, (Port.SendsOnly.acked p f).only]
  exact ⟨rfl⟩

/-- A duplicate has no effect but its acknowledgement. -/
theorem Port.take_duplicate (hd : linkDist p.rxSeq f.seq.toNat ≠ 1) (hk : linkDist f.seq.toNat p.rxSeq < 512) :
    p.SendsOnly (p.take f) := by
  rw [Port.take_eq, if_neg hd, if_pos hk, ite_self]
  exact .acked p f

/-- An idle flit has none either. -/
theorem Port.take_idle (hc : f.cls = 3#2) : p.SendsOnly (p.take f) := by
  rw [Port.take_eq, if_pos hc]
  exact .acked p f

/-- A flit further ahead calls for a replay. -/
theorem Port.take_ahead (hc : f.cls ≠ 3#2) (hd : linkDist p.rxSeq f.seq.toNat ≠ 1) (hk : ¬ linkDist f.seq.toNat p.rxSeq < 512) :
    Port.SendsOnly { p with wants := true } (p.take f) := by
  rw [Port.take_eq, if_neg hc, if_neg hd, if_neg hk, (Port.SendsOnly.acked p f).only]
  exact ⟨rfl⟩

end take

/-! ## FLIT_RECEIVE (R11 to R14) -/

section receive

variable {s : State} {n : Nat} {p : Port} {f : Flit}

/-- A port that is not active takes nothing. -/
theorem exec_flitReceive_inactive (h : (s.port n).st ≠ .active ∨ s.ports.find n = none) : exec (.flitReceive n f) s = .next s := by
  change execFlitReceive n f s = _
  have h' : (s.port n).st ≠ .active ∨ (s.ports.find n).isNone := by simpa using h
  simp only [execFlitReceive, go]
  rw [if_pos h']

/-- A port that has discarded a flit whose CRC failed. -/
def Port.crcFailed (p : Port) : Port := { p.crcError with flits := p.flits + 1 }

/-- The state in which a port has discarded such a flit: after too many it trains. -/
def State.crcFailed (s : State) (n : Nat) : State :=
  let t := s.modPort n Port.crcFailed
  if 8 < (t.port n).errs.length then t.retrain n else t

/-- What an active port does with a flit that comes whole or not. -/
theorem exec_flitReceive_active (ha : p.st = .active) (h : s.ports.find n = some p) : exec (.flitReceive n f) s = .next (
    if !f.crcOk then s.crcFailed n
    else if f.rsv ≠ 0#5 then s.modPort n (fun q => { q with flits := q.flits + 1, wants := true })
    else if s.linkHeld n f && linkDist p.rxSeq f.seq.toNat == 1 then
      s.modPort n (fun q => { q.acked f with flits := q.flits + 1, wants := true })
    else
      let t := (s.modPort n (fun q => { q.take f with flits := q.flits + 1 })).pump n
      if f.cls != 3#2 && (t.port n).out == p.out then t.idle n else t) := by
  change execFlitReceive n f s = _
  have h' : ¬ ((s.port n).st ≠ .active ∨ (s.ports.find n).isNone) := by simp [State.port_of_find h, ha, h]
  simp only [execFlitReceive, go]
  rw [if_neg h', State.port_of_find h]
  rfl

/-- A sound flit that nothing holds back is taken; the acknowledgement that then goes out leaves the receiving side as it is. -/
theorem exec_flitReceive_taken (ha : p.st = .active) (h : s.ports.find n = some p) (hc : f.crcOk = true) (hr : f.rsv = 0#5)
    (hl : (s.linkHeld n f && linkDist p.rxSeq f.seq.toNat == 1) = false) :
    ∃ t q, exec (.flitReceive n f) s = .next t ∧ t.ports.find n = some q ∧
      Port.SendsOnly { p.take f with flits := p.flits + 1 } q := by
  rw [exec_flitReceive_active ha h]
  simp only [hc, hr, hl, Bool.not_true, Bool.false_eq_true, if_false, ne_eq, not_true_eq_false]
  obtain ⟨q, hq, hs⟩ := State.pump_find (State.modPort_find h (fun q => { q.take f with flits := q.flits + 1 }))
  split
  · obtain ⟨q', hq', hs'⟩ := State.idle_find hq
    exact ⟨_, q', rfl, hq', hs.trans hs'⟩
  · exact ⟨_, q, rfl, hq, hs⟩

/-- So a port has received what the flit alone says. -/
theorem exec_flitReceive_receives (ha : p.st = .active) (h : s.ports.find n = some p) (hc : f.crcOk = true) (hr : f.rsv = 0#5)
    (hl : (s.linkHeld n f && linkDist p.rxSeq f.seq.toNat == 1) = false) {p' : Port} (hp : p'.SendsOnly (p.take f)) :
    ∃ t, exec (.flitReceive n f) s = .next t ∧ (t.port n).rxSeq = p'.rxSeq ∧ (t.port n).got = p'.got ∧ (t.port n).wants = p'.wants := by
  obtain ⟨t, q, ht, hq, hs⟩ := exec_flitReceive_taken ha h hc hr hl
  refine ⟨t, ht, ?_⟩
  rw [State.port_of_find hq]
  exact ⟨hs.rxSeq.trans hp.rxSeq, hs.got.trans hp.got, hs.wants.trans hp.wants⟩

/-- A request that its adder's full chain holds back stays with its sender. -/
theorem exec_flitReceive_held (ha : p.st = .active) (h : s.ports.find n = some p) (hc : f.crcOk = true) (hr : f.rsv = 0#5)
    (hl : s.linkHeld n f = true) (hd : linkDist p.rxSeq f.seq.toNat = 1) :
    exec (.flitReceive n f) s = .next (s.modPort n (fun q => { q.acked f with flits := q.flits + 1, wants := true })) := by
  rw [exec_flitReceive_active ha h]
  simp [hc, hr, hl, hd]

/-- No class but requests is held back. -/
theorem State.linkHeld_request (hc : f.cls ≠ 0#2) : s.linkHeld n f = false := by
  have : (f.cls == 0#2) = false := by simpa using hc
  simp [State.linkHeld, this]

end receive

end Sys2Proof.Machine
end

section
/-! PROOFS. O42: the training of a port. -/

namespace Sys2Proof.Machine

open Sys2Proof Sys2Proof.Safety

/-! ## Training (R14 to R17) -/

section training

variable {s : State} {n : Nat} {p : Port}

/-- A port that begins to train. -/
def Port.retrained (q : Port) : Port := { q with st := .retraining, rtcnt := Nat.min 65535 (q.rtcnt + 1), errs := [], flits := 0 }

/-- Only an active port begins to train. -/
theorem State.retrain_find (h : s.ports.find n = some p) :
    (s.retrain n).ports.find n = some (if p.st = .active then p.retrained else p) := by
  obtain ⟨l, hl⟩ := s.lat_only
  simp only [State.retrain, State.port_of_find h]
  split
  · rw [show s.lat = (s.lat.1, s.lat.2) from rfl, hl]
    exact State.modPort_find (s := { s with lats := l }) h Port.retrained
  · exact h

theorem mem_insertUniq_self (x : Nat) (l : List Nat) : x ∈ insertUniq x l := by
  induction l with
  | nil => simp [insertUniq]
  | cons y t ih =>
    unfold insertUniq
    split
    · simp [*]
    · split <;> simp [ih]

/-- A flit whose CRC fails is discarded, and the ninth failure among the latest flits makes the port train. -/
theorem exec_flitReceive_crc {f : Flit} (ha : p.st = .active) (h : s.ports.find n = some p) (hc : f.crcOk = false) :
    ∃ t, exec (.flitReceive n f) s = .next t ∧ t.ports.find n = some (
      if 8 ≤ (p.errs.filter (fun k => decide (p.flits < k + 65536))).length then p.crcFailed.retrained
      else p.crcFailed) := by
  have hm := State.modPort_find h Port.crcFailed
  have hlen : 8 < ((s.modPort n Port.crcFailed).port n).errs.length ↔
      8 ≤ (p.errs.filter (fun k => decide (p.flits < k + 65536))).length := by
    simp [State.port_of_find hm, Port.crcFailed, Port.crcError, Nat.lt_succ_iff]
  refine ⟨s.crcFailed n, by rw [exec_flitReceive_active ha h, hc]; rfl, ?_⟩
  simp only [State.crcFailed, hlen]
  split
  · rw [State.retrain_find hm, if_pos (by exact ha)]
  · exact hm

/-- A lane that fails its eye is lost, and makes an active port train. -/
theorem exec_laneEyeFail (h : s.ports.find n = some p) (lane : Nat) :
    ∃ t q, exec (.laneEyeFail n lane) s = .next t ∧ t.ports.find n = some q ∧ q.bad = insertUniq lane p.bad ∧
      q.st = if p.st = .active then .retraining else p.st := by
  have hm := State.modPort_find h (fun q => { q with
    bad := insertUniq lane q.bad, prior := q.prior.map (fun c => (insertUniq lane c.1, c.2)) })
  refine ⟨_, _, rfl, State.retrain_find hm, ?_⟩
  by_cases ha : p.st = .active <;> simp [ha, Port.retrained]

/-- The port of a die that has left service is down. -/
def Port.takenDown (q : Port) : Port := { q with st := .down, width := 0 }

/-- A port left with fewer than four lanes has failed. -/
def Port.failedTraining (q : Port) : Port := { q with st := .failed, width := 0 }

/-- The lanes that a port cannot use at the end of a training. -/
def Port.lostWith (p : Port) (failed : List Nat) : List Nat := ((p.bad ++ failed).dedup ++ p.retired).dedup

/-- The state in which a port knows the lanes that failed its training. -/
def State.withFailed (s : State) (n : Nat) (failed : List Nat) : State := s.modPort n (fun q => { q with bad := (q.bad ++ failed).dedup })

/-- The state in which a port is active at its new width, before it sends. -/
def State.trained (s : State) (n : Nat) (failed : List Nat) (far : BitVec 12) (w : Nat × Nat) : State :=
  (s.withFailed n failed).modPort n (fun q => { (q.ackTo far.toNat) with st := .active, width := Nat.min q.width w.1, spare := w.2 })

theorem exec_portRetrainDone (hr : p.st = .retraining) (h : s.ports.find n = some p) (failed : List Nat) (far : BitVec 12) :
    exec (.portRetrainDone n failed far) s = .next (
      if s.portDown n then (s.withFailed n failed).modPort n Port.takenDown
      else if (laneWidth (p.lostWith failed)).1 = 0 then
        ((s.withFailed n failed).modPort n Port.failedTraining).goViral 2
      else
        let u := s.trained n failed far (laneWidth (p.lostWith failed))
        if s.viral then (if 10 ≤ n then u.modPort n (fun q => { q with viralInd := true }) else u)
        else ((u.modPort n (fun q => { q with out := q.out ++ q.replay })).pump n).cross n) := by
  have hm := State.modPort_find h (fun q => { q with bad := (q.bad ++ failed).dedup })
  have hst : ¬ (s.port n).st ≠ .retraining := by simp [State.port_of_find h, hr]
  change execPortRetrainDone n failed far s = _
  simp only [execPortRetrainDone, go, if_neg hst, State.port_of_find hm]
  rfl

end training

end Sys2Proof.Machine
end

section
/-! PROOFS. O42: off-package writes and reads. -/

namespace Sys2Proof.Machine

open Sys2Proof Sys2Proof.Safety

/-! ## Off-package writes (R166) -/

@[simp] theorem State.advanceVersion_coh (s : State) (f layer : Nat) : (s.advanceVersion f layer).coh = s.coh := by
  unfold State.advanceVersion
  extract_lets wrap wrapped t
  split <;> rfl

@[simp] theorem State.advanceVersion_dram (s : State) (f layer : Nat) : (s.advanceVersion f layer).dram = s.dram := by
  unfold State.advanceVersion
  extract_lets wrap wrapped t
  split <;> rfl

/-- The watch tables count a write, and change no byte. -/
@[simp] theorem State.watchPort_coh (s : State) (pa n : Nat) : (s.watchPort pa n).coh = s.coh :=
  State.foldl_field State.coh (fun t _ => State.foldl_field State.coh (fun u _ => u.advanceVersion_coh _ _) _ t) _ s

@[simp] theorem State.watchPort_dram (s : State) (pa n : Nat) : (s.watchPort pa n).dram = s.dram :=
  State.foldl_field State.dram (fun t _ => State.foldl_field State.dram (fun u _ => u.advanceVersion_dram _ _) _ t) _ s

/-- What a write does to the L2 at one line, it does on the memory side. -/
theorem MemSide.portLine (s : State) (pa n : Nat) : MemSide s (s.portLine pa n) := by
  unfold State.portLine
  extract_lets touch whole key
  split
  · exact .refl s
  · exact (MemSide.cleanSectors s _ _).trans ⟨rfl, id⟩

/-- The state in which a write has been performed at the home slice of each line that it touches and no hold covers. -/
def State.portLines (s : State) (pa n : Nat) : State :=
  (linePieces pa n).foldl (fun (u : State) q => if (u.heldAt q.1).isSome then u else u.portLine q.1 q.2) s

theorem MemSide.portLines (s : State) (pa n : Nat) : MemSide s (s.portLines pa n) :=
  MemSide.foldl (fun u q => by
    split
    · exact .refl u
    · exact .portLine u _ _) _ s

/-- The state after a write: the bytes stand in memory, as agents see it and in DRAM, and a sector that they cover has lost its poison. -/
def State.portWritten (s : State) (pa : Nat) (data : List Byte) : State :=
  let t := s.portLines pa data.length
  State.watchPort { t with
    coh := t.coh.writeN pa data, dram := t.dram.writeN pa data
    poison := t.poison.filter (fun q => !(decide (pa ≤ q * 64) && decide (q * 64 + 64 ≤ pa + data.length))) } pa data.length

theorem exec_portWrite {s : State} {data : List Byte} (hv : s.viral = false) (hd : data ≠ []) (port pa : Nat) :
    exec (.portWrite port pa data) s = .next (s.portWritten pa data) := by
  have hgo : ¬ (s.viral || data.isEmpty) = true := by simp [hv, hd]
  change execPortWrite port pa data s = _
  simp only [execPortWrite, go]
  rw [if_neg hgo]
  rfl

theorem State.portWritten_coh (s : State) (pa : Nat) (data : List Byte) : (s.portWritten pa data).coh = s.coh.writeN pa data := by
  rw [State.portWritten, State.watchPort_coh, (MemSide.portLines s pa data.length).coh]

theorem State.portWritten_dram (s : State) (pa : Nat) (data : List Byte) :
    (s.portWritten pa data).dram = (s.portLines pa data.length).dram.writeN pa data := by
  rw [State.portWritten, State.watchPort_dram]

/-- A written byte reads as it was written. -/
theorem Memory.getElem?_writeN {m : Memory} (h : m.wf = true) {a i : Nat} {l : List Byte} (hi : i < l.length) :
    l[i]? = some ((m.writeN a l).read (a + i)) := by
  simp [Memory.read_writeN h, hi]

/-- A byte beside a write reads as before. -/
theorem Memory.read_writeN_of_outside {m : Memory} (h : m.wf = true) {a x : Nat} {l : List Byte} (hx : x < a ∨ a + l.length ≤ x) :
    (m.writeN a l).read x = m.read x := by
  rw [Memory.read_writeN h, dif_neg (by omega)]

/-! ## Off-package reads (R11, R166) -/

/-- The payload of the i-th flit of an answer: 120 of its bytes, zeros behind the last. -/
def answerFlit (data : List Byte) (n i : Nat) : List Byte := sliceBytes (sliceBytes data (120 * i) (Nat.min 120 (n - 120 * i))) 0 120

theorem length_sliceBytes (l : List Byte) (o n : Nat) : (sliceBytes l o n).length = n := by
  simp [sliceBytes]

/-- An answer with zeros behind it, which its flits carry 120 bytes at a time. -/
def paddedAnswer (data : List Byte) : List Byte := data ++ List.replicate 120 0#8

theorem answerFlit_eq {data : List Byte} {i : Nat} (hi : 120 * i ≤ data.length) :
    answerFlit data data.length i = ((paddedAnswer data).drop (120 * i)).take 120 := by
  have hin : sliceBytes data (120 * i) (Nat.min 120 (data.length - 120 * i)) = (data.drop (120 * i)).take 120 := by
    have : Nat.min 120 (data.length - 120 * i) = min 120 (data.length - 120 * i) := rfl
    simp [sliceBytes, this]
  rw [answerFlit, hin, paddedAnswer, List.drop_append_of_le_length hi, List.take_append]
  simp only [sliceBytes, List.drop_zero, List.length_take, List.length_drop, List.take_replicate, List.take_take, min_self]
  congr 2
  omega

/-- The flits of an answer, in order, carry its bytes. -/
theorem answerFlits_flatten (data : List Byte) {k : Nat} (hk : 120 * k ≤ data.length + 119) :
    ((List.range k).map (answerFlit data data.length)).flatten = (paddedAnswer data).take (120 * k) := by
  induction k with
  | zero => simp
  | succ k ih =>
    rw [List.range_succ, List.map_append, List.flatten_append, ih (by omega), List.map_singleton, List.flatten_singleton,
      answerFlit_eq (by omega), Nat.mul_succ, List.take_add]

/-- A payload that waits at a port. -/
theorem State.portSend_eq (s : State) (n cls : Nat) (payload : List Byte) : s.portSend n cls payload =
    (s.modPort n (fun q => { q with waiting := q.waiting ++ [(cls, sliceBytes payload 0 120)] })).pump n := rfl

/-- What a port sends changes the ports alone. -/
theorem State.portSend_only (s : State) (n cls : Nat) (payload : List Byte) : ∃ ps, s.portSend n cls payload = { s with ports := ps } := by
  rw [State.portSend_eq, State.pump_eq]
  split <;> exact ⟨_, rfl⟩

/-- A port that does not send, of a viral part or not active, keeps what is given to it. -/
theorem State.portSend_find_silent {s : State} {n : Nat} {p : Port} (h : s.ports.find n = some p) (hs : s.viral = true ∨ p.st ≠ .active)
    (cls : Nat) (payload : List Byte) :
    (s.portSend n cls payload).ports.find n = some { p with waiting := p.waiting ++ [(cls, sliceBytes payload 0 120)] } := by
  have hm := State.modPort_find h (fun q => { q with waiting := q.waiting ++ [(cls, sliceBytes payload 0 120)] })
  rw [State.portSend_eq, State.pump_eq]
  split
  · exact hm
  · rename_i hv
    rw [State.modPort_find hm, Port.pumped, if_pos (hs.resolve_left hv)]

/-- The answers of a port that does not send wait in order. -/
theorem State.foldl_portSend_find_silent {n : Nat} (cls : Nat) (g : Nat → List Byte) (l : List Nat) {s : State} {p : Port}
    (h : s.ports.find n = some p) (hs : s.viral = true ∨ p.st ≠ .active) :
    (l.foldl (fun (t : State) i => t.portSend n cls (g i)) s).ports.find n =
      some { p with waiting := p.waiting ++ (l.map (fun i => sliceBytes (g i) 0 120)).map (fun b => (cls, b)) } := by
  induction l generalizing s p with
  | nil => simp [h]
  | cons i l ih =>
    obtain ⟨ps, hps⟩ := s.portSend_only n cls (g i)
    rw [List.foldl_cons, ih (State.portSend_find_silent h hs cls (g i)) (by rw [hps]; exact hs)]
    simp

/-- The state after a read is answered. -/
def State.portAnswered (s : State) (port pa n : Nat) : State :=
  (List.range (ceilDiv n 120)).foldl (fun (t : State) i =>
    t.portSend port 1 (sliceBytes (s.dram.readN pa n) (120 * i) (Nat.min 120 (n - 120 * i)))) s

theorem exec_portRead (s : State) (port pa n : Nat) : exec (.portRead port pa n) s = .next (s.portAnswered port pa n) := rfl

end Sys2Proof.Machine
end

section
/-! PROOFS. O42: the cases of the statement, put together. -/

namespace Sys2Proof.Machine

open Sys2Proof Sys2Proof.Safety

/-! ## Where a flit's number lies (R12) -/

/-- The next number. -/
theorem linkDist_next {a b : Nat} (h : b = (a + 1) % 4096) : linkDist a b = 1 := by simp only [linkDist]; omega

/-- A number that is not ahead, of the 512 that a sender may still hold. -/
theorem linkDist_behind {a b k : Nat} (hk : k < 512) (h : (b + k) % 4096 = a % 4096) : linkDist a b ≠ 1 ∧ linkDist b a < 512 := by
  simp only [linkDist]; omega

/-- A number further ahead than the next. -/
theorem linkDist_ahead {a b k : Nat} (h2 : 2 ≤ k) (hk : k ≤ 3584) (h : b = (a + k) % 4096) : linkDist a b ≠ 1 ∧ ¬ linkDist b a < 512 := by
  simp only [linkDist]; omega

/-! ## The end of a training (R15 to R17) -/

section trained

variable {s : State} {n : Nat} {p : Port}

theorem State.withFailed_find (h : s.ports.find n = some p) (failed : List Nat) :
    (s.withFailed n failed).ports.find n = some { p with bad := (p.bad ++ failed).dedup } := State.modPort_find h _

/-- The port of a part that becomes viral, but for the indication to its far end. -/
theorem State.goViral_port (hv : s.viral = false) (h : s.ports.find n = some p) (cause : Nat) :
    ((s.goViral cause).port n).st = p.st := by
  obtain ⟨m, hm⟩ := State.goViral_eq hv cause
  have hf : (s.goViral cause).ports.find n =
      some (if 10 ≤ n && p.st == .active then { p with viralInd := true } else p) := by
    rw [hm]
    exact (Tbl.find_mapVals s.ports (fun n q => if 10 ≤ n && q.st == .active then { q with viralInd := true } else q) n).trans
      (by rw [h])
  rw [State.port_of_find hf]
  split <;> rfl

theorem State.pump_viral (s : State) (n : Nat) : (s.pump n).viral = s.viral := by
  rw [State.pump_eq]
  split <;> rfl

/-- The port of a die that has left service is down after its training, and the part no more viral than before. -/
theorem exec_portRetrainDone_down (hr : p.st = .retraining) (h : s.ports.find n = some p) (failed : List Nat) (far : BitVec 12)
    (hd : s.portDown n = true) :
    ∃ t, exec (.portRetrainDone n failed far) s = .next t ∧ (t.port n).st = .down ∧ t.viral = s.viral := by
  refine ⟨(s.withFailed n failed).modPort n Port.takenDown, by rw [exec_portRetrainDone hr h, if_pos hd], ?_, rfl⟩
  rw [State.port_of_find (State.modPort_find (State.withFailed_find h failed) _)]
  rfl

/-- A port without lanes enough has failed, and the part is viral, with cause 2. -/
theorem exec_portRetrainDone_failed (hr : p.st = .retraining) (h : s.ports.find n = some p) {failed : List Nat} (far : BitVec 12)
    (hd : s.portDown n = false) (hw : (laneWidth (p.lostWith failed)).1 = 0) (hv : s.viral = false) :
    ∃ t, exec (.portRetrainDone n failed far) s = .next t ∧ (t.port n).st = .failed ∧ t.viral = true ∧ t.viralCause = 2#8 := by
  have hm := State.modPort_find (State.withFailed_find h failed) Port.failedTraining
  have hv' : ((s.withFailed n failed).modPort n Port.failedTraining).viral = false := hv
  have b := State.goViral_becomes hv' 2
  exact ⟨_, by rw [exec_portRetrainDone hr h, hd, if_neg (by decide), if_pos hw], State.goViral_port hv' hm 2, b.viral, b.cause⟩

theorem State.trained_find (h : s.ports.find n = some p) (failed : List Nat) (far : BitVec 12) (w : Nat × Nat) :
    ∃ q, (s.trained n failed far w).ports.find n = some q ∧ q.st = .active ∧ q.width = Min.min p.width w.1 :=
  ⟨_, State.modPort_find (State.withFailed_find h failed) _, rfl, rfl⟩

/-- A port with lanes enough is active again, at the width that they allow, which is never more than before. -/
theorem exec_portRetrainDone_active (hr : p.st = .retraining) (h : s.ports.find n = some p) {failed : List Nat} (far : BitVec 12)
    (hd : s.portDown n = false) (hw : (laneWidth (p.lostWith failed)).1 ≠ 0) :
    ∃ t q, exec (.portRetrainDone n failed far) s = .next t ∧ t.ports.find n = some q ∧ q.st = .active ∧
      q.width = Min.min p.width (laneWidth (p.lostWith failed)).1 ∧ t.viral = s.viral := by
  obtain ⟨u, hu, hst, hwidth⟩ := State.trained_find h failed far (laneWidth (p.lostWith failed))
  simp only [exec_portRetrainDone hr h, hd, hw, Bool.false_eq_true, if_false]
  split
  · split
    · exact ⟨_, _, rfl, State.modPort_find hu _, hst, hwidth, rfl⟩
    · exact ⟨_, u, rfl, hu, hst, hwidth, rfl⟩
  · obtain ⟨q, hq, hs⟩ := State.pump_find (State.modPort_find hu (fun q => { q with out := q.out ++ q.replay }))
    exact ⟨_, q, rfl, hq, hs.st.trans hst, hs.width.trans hwidth, State.pump_viral _ _⟩

end trained

/-! ## Answers to off-package reads (R11, R166) -/

section answers

variable {s : State} {n : Nat} {p : Port}

theorem State.portAnswered_memory (s : State) (port pa n : Nat) : SameMemory s (s.portAnswered port pa n) := by
  have keeps : ∀ {β : Type} (f : State → β), (∀ t : State, ∀ ps, f { t with ports := ps } = f t) → f (s.portAnswered port pa n) = f s :=
    fun f hf => State.foldl_field f (fun t i => by
      obtain ⟨ps, hps⟩ := t.portSend_only port 1 (sliceBytes (s.dram.readN pa n) (120 * i) (Nat.min 120 (n - 120 * i)))
      rw [hps, hf]) _ s
  intro a
  rw [keeps State.coh (fun _ _ => rfl), keeps State.dram (fun _ _ => rfl), keeps State.host (fun _ _ => rfl)]
  exact ⟨rfl, rfl, rfl⟩

/-- At a port that does not send, the answer waits in its flits. -/
theorem State.portAnswered_silent (h : s.ports.find n = some p) (hs : s.viral = true ∨ p.st ≠ .active) (pa k : Nat) :
    ((s.portAnswered n pa k).port n).waiting =
      p.waiting ++ ((List.range (ceilDiv k 120)).map (answerFlit (s.dram.readN pa k) k)).map (fun b => (1, b)) := by
  have hf := State.foldl_portSend_find_silent 1 (fun i => sliceBytes (s.dram.readN pa k) (120 * i) (Nat.min 120 (k - 120 * i)))
    (List.range (ceilDiv k 120)) h hs
  exact congrArg Port.waiting (State.port_of_find (s := s.portAnswered n pa k) hf)

/-- The flits of an answer: as many as its bytes need, of 120 bytes each, and its bytes in order. -/
theorem answerFlits_spec (data : List Byte) :
    let l := (List.range (ceilDiv data.length 120)).map (answerFlit data data.length)
    l.length = (data.length + 119) / 120 ∧ (∀ b ∈ l, b.length = 120) ∧ l.flatten.take data.length = data := by
  refine ⟨by simp [ceilDiv], ?_, ?_⟩
  · simp only [List.mem_map]
    rintro b ⟨i, -, rfl⟩
    exact length_sliceBytes _ _ _
  · have hc : 120 * ceilDiv data.length 120 ≤ data.length + 119 := Nat.mul_div_le _ _
    have hn : data.length ≤ 120 * ceilDiv data.length 120 := by simp only [ceilDiv]; omega
    rw [answerFlits_flatten data hc, List.take_take, min_eq_left hn, paddedAnswer, List.take_left]

/-- An answer of exactly one flit. -/
theorem answerFlits_one (data : List Byte) (h : data.length = 120) :
    (List.range (ceilDiv 120 120)).map (answerFlit data 120) = [data] := by
  obtain ⟨hl, hb, hf⟩ := answerFlits_spec data
  rw [h] at hl hb hf
  obtain ⟨b, hx⟩ := List.length_eq_one_iff.1 hl
  rw [hx] at hb hf ⊢
  rw [← hf, List.flatten_singleton, List.take_of_length_le (hb b (List.mem_singleton_self b)).le]

/-- A port that sends, with nothing before it, sends an answer of one flit at once. -/
theorem State.portSend_find_sent (h : s.ports.find n = some p) (hv : s.viral = false) (ha : p.st = .active) (hw : p.waiting = [])
    (hr : p.replay.length < 512) (cls : Nat) (payload : List Byte) :
    ∃ q fl, (s.portSend n cls payload).ports.find n = some q ∧ q.out = p.out ++ [fl] ∧ q.waiting = [] ∧ fl.cls = BitVec.ofNat 2 cls ∧
      fl.payload = sliceBytes payload 0 120 ∧ fl.seq = BitVec.ofNat 12 p.txSeq := by
  have hm := State.modPort_find h (fun q => { q with waiting := q.waiting ++ [(cls, sliceBytes payload 0 120)] })
  rw [State.portSend_eq, State.pump_eq, if_neg (by exact hv ▸ Bool.false_ne_true), State.modPort_find hm, Port.pumped,
    if_neg (by simp [ha]), if_neg (by simp; omega), hw]
  simp only [List.nil_append, List.length_singleton, Port.pumpN, hr, if_true]
  exact ⟨_, _, rfl, rfl, rfl, rfl, rfl, rfl⟩

end answers

end Sys2Proof.Machine

namespace Sys2Proof.Settled

open Sys2Proof Sys2Proof.Machine Sys2Proof.Safety

/-- Settles O42: a flit's case is that of its distance (`linkDist_next`, `linkDist_behind`, `linkDist_ahead`), and what a port sends leaves
its receiving side alone (`SendsOnly`). -/
theorem ports : Obligations.Ports := by
  unfold Obligations.Ports
  intro s port lane pa n f failed far data p lanes
  refine ⟨exec_flitReceive_inactive, fun ha h hc => ?crc, fun ha h hc hr => ?reserved,
    fun ha h hc hr hcls => ⟨fun hs hl => ?next, fun hs hl => ?held, State.linkHeld_request, fun k hk hs => ?duplicate,
      fun k h2 hk hs => ?ahead⟩,
    fun ha h hc hr hcls => ?idle, fun hv => ?replay, fun h => ?eye, fun hr => ?untrained,
    fun hr h hd => exec_portRetrainDone_down hr h failed far hd,
    fun hr h hd hw hv => exec_portRetrainDone_failed hr h far hd hw hv,
    fun hr h hd hw => ?trained, fun hv => ?viralWrite, fun hv hne hcw hdw => ?write,
    ⟨_, exec_portRead s port pa n, s.portAnswered_memory port pa n, fun hv hn h => ?viralRead⟩,
    fun hv ha h hw hn h0 hr => ?sent, fun hs h => ?silent⟩
  case crc =>
    obtain ⟨t, ht, hq⟩ := exec_flitReceive_crc ha h hc
    refine ⟨t, ht, ?_⟩
    rw [State.port_of_find hq]
    split
    next h8 => exact ⟨rfl, rfl, rfl, iff_of_true rfl h8⟩
    next h8 => exact ⟨rfl, rfl, rfl, iff_of_false (by simp [Port.crcFailed, Port.crcError, ha]) h8⟩
  case reserved => rw [exec_flitReceive_active ha h, hc, if_neg (by decide), if_pos hr]
  case next =>
    obtain ⟨t, ht, hrx, hg, -⟩ := exec_flitReceive_receives ha h hc hr (by simp [hl]) (Port.take_next hcls (linkDist_next hs))
    exact ⟨t, ht, hrx, hg⟩
  case held =>
    refine ⟨_, exec_flitReceive_held ha h hc hr hl (linkDist_next hs), ?_⟩
    rw [State.port_of_find (State.modPort_find h _)]
    exact ⟨(Port.SendsOnly.acked p f).rxSeq, (Port.SendsOnly.acked p f).got, rfl⟩
  case duplicate =>
    obtain ⟨hd, hb⟩ := linkDist_behind hk hs
    exact exec_flitReceive_receives ha h hc hr (by simp [hd]) (Port.take_duplicate hd hb)
  case ahead =>
    obtain ⟨hd, hb⟩ := linkDist_ahead h2 hk hs
    exact exec_flitReceive_receives ha h hc hr (by simp [hd]) (Port.take_ahead hcls hd hb)
  case idle =>
    exact exec_flitReceive_receives ha h hc hr (by simp [State.linkHeld_request, hcls]) (Port.take_idle hcls)
  case replay =>
    change execReplayRequest port s = _
    simp only [execReplayRequest, hv, go, Bool.false_eq_true, if_false]
  case eye =>
    obtain ⟨t, q, ht, hq, hb, hst⟩ := exec_laneEyeFail h lane
    rw [← State.port_of_find hq] at hb hst
    exact ⟨t, ht, hb ▸ mem_insertUniq_self _ _, hst⟩
  case untrained => exact congrArg Host.Outcome.next (if_pos hr)
  case trained =>
    obtain ⟨t, q, ht, hq, hst, hwidth, hv⟩ := exec_portRetrainDone_active hr h far hd hw
    rw [← State.port_of_find hq] at hst hwidth
    exact ⟨t, ht, hst, hwidth, hv⟩
  case viralWrite =>
    change execPortWrite port pa data s = _
    simp only [execPortWrite, hv, Bool.true_or, if_true, go]
  case write =>
    have hdw' := (MemSide.portLines s pa data.length).wf hdw
    refine ⟨_, exec_portWrite hv hne port pa, fun i hi => ⟨?_, ?_⟩, fun a ha => ?_⟩
    · rw [State.portWritten_coh]
      exact Memory.getElem?_writeN hcw hi
    · rw [State.portWritten_dram]
      exact Memory.getElem?_writeN hdw' hi
    · rw [State.portWritten_coh]
      exact Memory.read_writeN_of_outside hcw ha
  case viralRead =>
    subst hn
    rw [State.portAnswered_silent h (.inl hv), answerFlits_one (s.dram.readN pa 120) (Memory.length_readN _ _ _)]
    rfl
  case sent =>
    have hc : ceilDiv n 120 = 1 := by simp only [ceilDiv]; omega
    obtain ⟨q, fl, hq, hout, hwait, hcls, hpay, hseq⟩ := State.portSend_find_sent h hv ha hw hr 1
      (sliceBytes (s.dram.readN pa n) (120 * 0) (Nat.min 120 (n - 120 * 0)))
    refine ⟨_, fl, exec_portRead s port pa n, ?_⟩
    rw [State.portAnswered, hc, List.range_one, List.foldl_cons, List.foldl_nil, State.port_of_find hq, hpay]
    obtain ⟨-, -, hf⟩ := answerFlits_spec (s.dram.readN pa n)
    rw [Memory.length_readN, hc] at hf
    exact ⟨hout, hwait, hcls, by simpa [answerFlit] using hf, hseq⟩
  case silent =>
    refine ⟨_, _, exec_portRead s port pa n, State.portAnswered_silent h hs pa n, ?_⟩
    have := answerFlits_spec (s.dram.readN pa n)
    rwa [Memory.length_readN] at this

end Sys2Proof.Settled
end

section
/-! PROOFS. O49: the steps of reads, replies, RMWs, walks, copies and adders, each as the equation of its instruction. -/

namespace Sys2Proof.Machine

open Sys2Proof Sys2Proof.Safety

variable {s : State}

/-! ## What moves on in memory: the equation of each step (R20, R137, R343, R345, R351, R357) -/

theorem exec_streamReadReply_served {r : Read} (h : s.readInFocus = some r) (hs : r.stage ≠ 2) :
    exec .streamReadReply s = .next (s.serveRead r) := by
  change execStreamReadReply s = _
  simp [execStreamReadReply, h, hs, go]

theorem exec_streamReadReply_landed {r : Read} (h : s.readInFocus = some r) (hs : r.stage = 2) :
    exec .streamReadReply s = .next (s.landReply r) := by
  change execStreamReadReply s = _
  simp [execStreamReadReply, h, hs, go]

/-- The reply of a plain read writes its bytes at its local place, untagged (R343). -/
theorem Elem.landRead_plain (e : Elem) (d : ElemDecl) {r : Read} (hbt : r.bt = false) (hs : r.soft = none) (hf : r.fifo = none)
    (hb : r.bytes ≠ []) :
    e.landRead d r = ({ e with reads := e.reads.filter (fun q => q.id != r.id) }).writeSram r.dst r.bytes .untagged := by
  simp [Elem.landRead, hbt, hs, hf, hb]

/-- A plain reply that carries no poison does nothing else. -/
theorem State.landReply_plain {r : Read} (hbad : r.bad = none) (hbt : r.bt = false) (hg : r.gath = false) :
    s.landReply r = s.modE (fun e => e.landRead s.decl r) := by
  simp [State.landReply, State.latchBurst, State.gathBytes, hbad, hbt, hg]

theorem exec_rmwReturn {r : Read} (h : s.readInFocus = some r) :
    exec .rmwReturn s = .next ((s.modE (fun e => e.landRead s.decl r)).modR (fun g => { g with
      returns := g.returns ++ [(elemKey s.focus.sg s.focus.x s.focus.y, r.dst, r.bytes)] })) := by
  change execRmwReturn s = _
  simp [execRmwReturn, h, go]

/-- An endpoint stream with room for a beat, and nothing to wait for, fetches it, or ends its launch where host memory fails (R162, R345). -/
theorem exec_heprBeatFetch
    (h : (s.nowE.streams.get Stream.none s.focus.n).beats.length < 64 ∧ 0 ≤ (s.nowE.streams.get Stream.none s.focus.n).fetch ∧
      (s.nowE.streams.get Stream.none s.focus.n).fetch + 64 ≤ (s.nowE.streams.get Stream.none s.focus.n).ext ∧
      (!s.withheld s.rg s.nowE s.focus.n) = true) :
    exec .heprBeatFetch s =
      if s.hostFails (s.endpointAddr s.focus.n + (s.nowE.streams.get Stream.none s.focus.n).fetch.toNat) 64 then
        .next (s.endLaunch s.rg.func s.rg.ltag 0x12)
      else .next (s.lat.2.modE (fun e => e.modStream s.focus.n (fun k => { k with
        beats := k.beats ++ [(k.fetch.toNat, s.host.readN (s.endpointAddr s.focus.n + k.fetch.toNat) 64)]
        fetch := k.fetch + 64
        due := s.cycle + s.lat.1 }))) := by
  change execHeprBeatFetch s = _
  exact if_pos h

/-- The state after adder `a` has added one element of each of its streams: the 4 bytes that its link engine moves are charged (R20, R71). -/
def State.adderTook (s : State) (a : AdderDecl) (loc : List Word) : State :=
  let k := s.rg.now.adders.get Adder.zero (adderKey s.focus.sg a)
  let k' : Adder := { k with i := k.i + 1, arriving := if a.port < 10 then k.arriving.drop 1 else k.arriving, loc := loc }
  (s.modNow (fun f => { f with adders := f.adders.set (adderKey s.focus.sg a) k' })).modR (fun g => { g with roundBytes := g.roundBytes + 4 })

/-- An adder with an element on both sides forwards their sum, to a port or to a local ME (R20). -/
theorem exec_adderElement {a : AdderDecl} {x y : Word} {loc : List Word} (ha : s.adderDecl s.focus.n = some a)
    (hx : s.arriving a (s.rg.now.adders.get Adder.zero (adderKey s.focus.sg a)) = some x)
    (hl : (s.rg.now.adders.get Adder.zero (adderKey s.focus.sg a)).loc = y :: loc)
    (hi : (s.rg.now.adders.get Adder.zero (adderKey s.focus.sg a)).i < a.len) :
    exec .adderElement s = .next (if a.toPort then (s.adderTook a loc).sendChain 9 a.fx a.fy [adderSum a.fmt x y]
      else (s.adderTook a loc).forwardMe a (adderSum a.fmt x y)) := by
  change execAdderElement s = _
  simp only [execAdderElement, ha, hx, hl, hi, if_true, go]
  rfl

end Sys2Proof.Machine

namespace Sys2Proof.Settled

open Sys2Proof Sys2Proof.Machine Sys2Proof.Safety

/-- Settles O49: each step is the equation of its instruction in the case that the statement names. -/
theorem memorySteps : Obligations.MemorySteps := by
  unfold Obligations.MemorySteps
  refine fun s r => ⟨fun hr => ⟨exec_streamReadReply_served hr, ?plain, exec_streamReadReply_landed hr, exec_rmwReturn hr⟩,
    ?fetch, ?rmw, ?walk, ?copy, ?adder⟩
  case plain =>
    intro h2 hbad hbt hg hs hf hb
    simp only [exec_streamReadReply_landed hr h2, State.landReply_plain hbad hbt hg, Elem.landRead_plain _ _ hbt hs hf hb]
  case fetch =>
    intro sn st hl h0 h64 hw
    have hroom : st.beats.length < 64 ∧ 0 ≤ st.fetch ∧ st.fetch + 64 ≤ st.ext ∧ (!s.withheld s.rg s.nowE sn) = true :=
      ⟨hl, h0, h64, by rw [hw]; rfl⟩
    have hfetch := exec_heprBeatFetch hroom
    exact ⟨fun hd => by rw [hfetch, if_pos hd], fun hd => by rw [hfetch, if_neg (by rw [hd]; decide)]⟩
  case rmw =>
    intro i rest va op a cmp hint rid hc ha u old hp v
    change execRmwPerform s = _
    simp only [u] at hp
    simp only [execRmwPerform, hc, ha, hp]
    rfl
  case walk =>
    intro id w hw
    change execWalkComplete id s = _
    simp only [execWalkComplete, hw, go]
  case copy =>
    intro c hc
    change execCopyComplete s = _
    simp only [execCopyComplete, hc, go]
  case adder =>
    intro a x y loc ha k hx hl hi k' t
    have hadd := exec_adderElement ha hx hl hi
    exact ⟨fun hp => hadd.trans (congrArg _ (if_pos hp)), fun hp => hadd.trans (congrArg _ (if_neg (by rw [hp]; decide)))⟩

end Sys2Proof.Settled
end

section
/-! PROOFS. O33: the message layer, whatever the kind of a message. -/

namespace Sys2Proof.Machine

open Sys2Proof Sys2Proof.Safety

/-! ## What a host message does, whatever its kind (R38, R42 to R44) -/

/-- The step of every host message is its receipt, with checks and an effect of its kind's own. -/
theorem exec_of_msgBody {i : Instr} {h : MsgHdr} {k u : Nat} {p : List Byte} (hi : i.msgBody = some (h, k, u, p)) (s : State) :
    ∃ m b c e, exec i s = go (s.receive i h k m b c e) := by
  unfold Instr.msgBody at hi
  split at hi <;> simp only [Option.some.injEq, Prod.mk.injEq, reduceCtorEq] at hi <;> obtain ⟨rfl, rfl, rfl, rfl⟩ := hi
  all_goals exact ⟨_, _, _, _, rfl⟩

section Receipt

variable {s : State} {i : Instr} {h : MsgHdr} {k : Nat} {m b : Bool} {c : Nat} {e : State → State}

/-- A part that is viral, held or in a recovery hold discards what arrives (R24, R34, R58). -/
theorem State.receive_deaf (h0 : s.focus.n ≠ 1) (hd : s.viral = true ∨ s.held = true ∨ s.nmp.held = true) :
    s.receive i h k m b c e = s := by
  have : (s.viral || s.held || s.nmp.held) = true := by simpa [or_assoc] using hd
  rw [State.receive, if_neg h0, if_pos this]

/-- A part that listens takes what arrives by the case of its SEQ (R38): a duplicate has no effect, and one that comes too early is
only noted. -/
theorem State.receive_duplicate (hl : Listens s) (hc : seqCase s.nmp.hacc h.seq = .duplicate) : s.receive i h k m b c e = s := by
  obtain ⟨h0, h1, h2, h3⟩ := hl
  simp [State.receive, h0, h1, h2, h3, hc]

theorem State.receive_outOfSequence (hl : Listens s) (hc : seqCase s.nmp.hacc h.seq = .outOfSequence) :
    s.receive i h k m b c e = { s with nmp := { s.nmp with errSeq := true } } := by
  obtain ⟨h0, h1, h2, h3⟩ := hl
  simp [State.receive, h0, h1, h2, h3, hc]

theorem State.receive_beyond (hl : Listens s) (hc : seqCase s.nmp.hacc h.seq = .beyond) :
    s.receive i h k m b c e = { s with nmp := { s.nmp with errWin := true } } := by
  obtain ⟨h0, h1, h2, h3⟩ := hl
  simp [State.receive, h0, h1, h2, h3, hc]

/-- The next in sequence is accepted, and waits or is taken up (R43). -/
theorem State.receive_accept (hl : Listens s) (hc : seqCase s.nmp.hacc h.seq = .accept) : s.receive i h k m b c e =
    if (s.accept h).holdsBack h.func.toNat then
      { s.accept h with nmp := { (s.accept h).nmp with waiting := (s.accept h).nmp.waiting ++ [i] } }
    else (s.accept h).takeUp h k m b c e := by
  obtain ⟨h0, h1, h2, h3⟩ := hl
  simp [State.receive, h0, h1, h2, h3, hc]

theorem seqCase_next {a v : Word} (h : v = a + 1#32) : seqCase a v = .accept := by
  have : seqDist a v = 1 := by rw [h]; simp [seqDist]
  simp [seqCase, this]

/-- A message that arrives in order, and waits for none before it, is taken up. -/
theorem State.receive_arrives (ha : Arrives s h) : s.receive i h k m b c e = (s.accept h).takeUp h k m b c e := by
  obtain ⟨hl, hs, hw⟩ := ha
  rw [State.receive_accept hl (seqCase_next hs), if_neg (by rw [hw]; decide)]

/-- A message that is refused has its acknowledgement and no effect (R44). -/
theorem State.takeUp_refused {t : State} {st : Nat} (hst : t.msgStatus h m b c = st) (h0 : st ≠ 0) :
    t.takeUp h k m b c e = t.ack h k st := by
  rw [State.takeUp, hst]
  exact if_neg h0

/-- A message that arrives and is refused, by whatever check comes first. -/
theorem exec_refused (he : exec i s = go (s.receive i h k m b c e)) (ha : Arrives s h) {st : Nat}
    (hst : (s.accept h).msgStatus h m b c = st) (h0 : st ≠ 0) : exec i s = .next (acked s h k st) := by
  rw [he, State.receive_arrives ha, State.takeUp_refused hst h0]
  rfl

end Receipt

/-! ## The order of refusals (R44, R55) -/

theorem State.msgStatus_malformed (s : State) {h : MsgHdr} {b : Bool} (hb : h.bad = true ∨ b = true) (m : Bool) (c : Nat) :
    s.msgStatus h m b c = 0x01 := if_pos (by simpa using hb)

theorem State.msgStatus_foreign (s : State) {h : MsgHdr} (hb : h.bad = false) (hf : h.func ≠ 0#6) (c : Nat) :
    s.msgStatus h true false c = 0x02 := by simp [State.msgStatus, hb, hf]

theorem State.msgStatus_noTenant {s : State} {h : MsgHdr} (hb : h.bad = false) (hs : s.sends h.func.toNat = false) (c : Nat) :
    s.msgStatus h false false c = 0x03 := by simp [State.msgStatus, hb, hs]

/-! ## What acceptance changes (R38, R39) -/

theorem State.acknowledge_hacc (s : State) (v : Word) : (s.acknowledge v).nmp.hacc = s.nmp.hacc := by
  unfold State.acknowledge
  simp only []
  split <;> rfl

theorem State.accept_hacc (s : State) (h : MsgHdr) : (s.accept h).nmp.hacc = h.seq := State.acknowledge_hacc _ _

theorem State.accept_sends (s : State) (h : MsgHdr) (f : Nat) : (s.accept h).sends f = s.sends f := by
  obtain ⟨n, hn, -⟩ := State.accept_only s h
  rw [hn]; rfl

end Sys2Proof.Machine

namespace Sys2Proof.Settled

open Sys2Proof Sys2Proof.Machine Sys2Proof.Safety

/-- Settles O33: what each range of the distance from the last SEQ brings, and then the refusals in their order. -/
theorem messageLayer : Obligations.MessageLayer := by
  unfold Obligations.MessageLayer
  refine ⟨fun s i h k u p hi h0 => ⟨fun hd => ?deaf, fun hl => ?sequence⟩,
    fun s i h k u p hi ha => ⟨fun hb => ?malformed, fun kind hk => ?unknown⟩, fun s h dies ha hb hd hf => ?foreign,
    fun s h ltag value ha hb hs => ?noTenant⟩
  case deaf =>
    obtain ⟨m, b, c, e, he⟩ := exec_of_msgBody hi s
    rw [he, State.receive_deaf h0 hd]
    rfl
  case sequence =>
    intro d
    obtain ⟨m, b, c, e, he⟩ := exec_of_msgBody hi s
    have hcase : seqCase s.nmp.hacc h.seq = if d = 1 then .accept else if d = 0 ∨ 2 ^ 32 - 255 ≤ d then .duplicate
      else if d ≤ 256 then .outOfSequence else .beyond := rfl
    rw [he]
    refine ⟨fun hd => ?_, fun hd => ?_, fun hd => ?_, fun hd => ⟨State.accept_hacc s h, fun hw => ?_⟩⟩
    · rw [State.receive_duplicate hl (by rw [hcase, if_neg (by omega), if_pos hd])]; rfl
    · rw [State.receive_outOfSequence hl (by rw [hcase, if_neg (by omega), if_neg (by omega), if_pos hd.2])]; rfl
    · rw [State.receive_beyond hl (by rw [hcase, if_neg (by omega), if_neg (by omega), if_neg (by omega)])]; rfl
    · rw [State.receive_accept hl (by rw [hcase, if_pos hd]), if_pos hw]; rfl
  case malformed =>
    obtain ⟨m, b, c, e, he⟩ := exec_of_msgBody hi s
    exact exec_refused he ha (State.msgStatus_malformed _ (.inl hb) m c) (by decide)
  case unknown =>
    subst hk
    have hk : kind.toNat = k ∧ 1 = u ∧ [] = p := by simpa [Instr.msgBody] using hi
    obtain ⟨rfl, -, -⟩ := hk
    exact exec_refused rfl ha (State.msgStatus_malformed _ (.inr rfl) _ _) (by decide)
  case foreign =>
    have hform : (dies == 0#8 || decide (2 < (0#8 : Byte).toNat)) = false := by simp [hd]
    exact exec_refused rfl ha (by rw [hform]; exact State.msgStatus_foreign _ hb hf _) (by decide)
  case noTenant =>
    exact exec_refused rfl ha (State.msgStatus_noTenant hb (by rw [State.accept_sends, hs]) _) (by decide)

end Sys2Proof.Settled
end

section
/-! PROOFS. O34: the messages of tenants, CANCEL and QUERY. -/

namespace Sys2Proof.Machine

open Sys2Proof Sys2Proof.Safety

/-! ## What an acknowledgement leaves as it was (R42, R46) -/

/-- A message whose check passes is taken up, with any effect that agrees with its kind's on the acknowledged state. -/
theorem takenUp_congr {i : Instr} {s : State} {h : MsgHdr} {k : Nat} {m b : Bool} {c : Nat} {e e' : State → State}
    (he : exec i s = go (s.receive i h k m b c e)) (hb : b = false) (hc : c = 0) (hf : e (acked s h k 0) = e' (acked s h k 0)) :
    TakenUp i s h k m e' := by
  intro ha hw
  rw [takenUp he hb hc ha hw, hf]

theorem acked_tenants (s : State) (h : MsgHdr) (k st : Nat) : (acked s h k st).tenants = s.tenants := by
  obtain ⟨n, hn, -⟩ := acked_only s h k st
  rw [hn]

/-- A QUERY that arrives is checked in the state that has accepted it (R48). -/
theorem exec_query {s : State} {h : MsgHdr} (ha : Arrives s h) (sel : Byte) (tag : Word) :
    exec (.query h sel tag) s = go (s.receive (.query h sel tag) h 0x09 false (decide (2 < sel.toNat))
      (if sel = 0#8 ∧ (s.accept h).queryRecs h.func.toNat 0 tag = [] then 0x03 else 0)
      (fun t => (snapMsgs h.func.toNat h.tag (t.queryRecs h.func.toNat sel.toNat tag)).foldl State.send t)) := by
  have hat : s.atTake h = s.accept h := if_neg ha.1.1
  rw [← hat]
  rfl

/-- The form of a TENANT.BUDGET: its fields in their ranges, and function 0's own not changed where R36 fixes them. -/
theorem budgetForm {tgt cls pages prio : Byte} {ways keys : BitVec 16} {rows quant : Word}
    (hb : budgetBad cls ways pages prio rows quant = false) (ht : tgt.toNat ≤ 63)
    (hz : tgt.toNat = 0 → zeroBudget cls ways pages prio keys rows = true) :
    (budgetBad cls ways pages prio rows quant || decide (63 < tgt.toNat) ||
      (tgt == 0#8 && !(zeroBudget cls ways pages prio keys rows))) = false := by
  have h0 : tgt = 0#8 → zeroBudget cls ways pages prio keys rows = true := fun h => hz (by rw [h]; rfl)
  simpa [hb, Nat.not_lt.2 ht] using h0

/-! ## Sorting -/

theorem insertBy_ne_nil {α : Type} (lt : α → α → Bool) (x : α) (l : List α) : insertBy lt x l ≠ [] := by
  cases l with
  | nil => simp [insertBy]
  | cons y t => unfold insertBy; split <;> simp

/-- A sort loses nothing: only the empty list sorts to the empty list. -/
theorem sortBy_eq_nil {α : Type} (lt : α → α → Bool) (l : List α) : sortBy lt l = [] ↔ l = [] := by
  constructor
  · intro hl
    rcases l.eq_nil_or_concat with rfl | ⟨t, x, rfl⟩
    · rfl
    · rw [sortBy, List.concat_eq_append, List.foldl_append] at hl
      exact absurd hl (insertBy_ne_nil lt x _)
  · rintro rfl
    rfl

/-! ## The launch that the host names (R48) -/

/-- A launch of the function has the TAG: whichever of them is named, and whatever the order of acceptance. -/
theorem State.namedLaunch_isSome (s : State) (f : Nat) (tag : Word) : (s.namedLaunch f tag).isSome = true ↔
    ∃ t, s.tenant f = some t ∧ t.queue.filter (fun l => l.host == tag) ≠ [] := by
  unfold State.namedLaunch
  cases s.tenant f with
  | none => simp
  | some t => simp only [List.isSome_head?, ne_eq, sortBy_eq_nil, Option.some.injEq, exists_eq_left']

/-- An acknowledgement may change which of several launches of one TAG is named, but not that one is. -/
theorem exists_namedLaunch_acked {s : State} {f : Nat} {tag : Word} {l : Launch} (hl : s.namedLaunch f tag = some l) (h : MsgHdr)
    (k st : Nat) : ∃ l', (acked s h k st).namedLaunch f tag = some l' := by
  apply Option.isSome_iff_exists.1
  have hs : (s.namedLaunch f tag).isSome = true := by rw [hl]; rfl
  rw [State.namedLaunch_isSome] at hs ⊢
  unfold State.tenant at hs ⊢
  rwa [acked_tenants]

end Sys2Proof.Machine

namespace Sys2Proof.Settled

open Sys2Proof Sys2Proof.Machine Sys2Proof.Safety

/-- Settles O34: each message is the receipt of its kind, whose form and check the statement's cases decide. -/
theorem tenantMessages : Obligations.TenantMessages := by
  unfold Obligations.TenantMessages
  intro s h tgt cls pages prio ways keys rows quant rate ltag
  dsimp only
  refine ⟨fun hbad => ⟨fun h1 h63 hn => ?create, fun h1 h63 hs => ?createThere, fun h63 hs hz => ?budget, fun h63 hs hz => ?budgetNone⟩,
    fun h1 h63 hs => ?destroy, fun h1 h63 hs => ?destroyNone, ?cancelAll, fun l hl ha hw => ?cancelOne, fun hl => ?cancelNone,
    fun qs hqs hq => ?query, fun hq => ?queryNone⟩
  case create => exact takenUp rfl (by simp [hbad]; omega) (by rw [hn]; rfl)
  case createThere => exact refusedWith rfl (by simp [hbad]; omega) (if_pos hs) (by decide)
  case budget => exact takenUp rfl (budgetForm hbad h63 hz) (if_pos hs)
  case budgetNone => exact refusedWith rfl (budgetForm hbad h63 hz) (if_neg (by rw [hs]; decide)) (by decide)
  case destroy => exact takenUp rfl (by simp; omega) (by rw [hs]; rfl)
  case destroyNone => exact refusedWith rfl (by simp; omega) (if_neg (by rw [hs]; decide)) (by decide)
  case cancelAll => exact takenUp rfl rfl rfl
  case cancelOne =>
    obtain ⟨l', hl'⟩ := exists_namedLaunch_acked hl h 0x08 0
    refine ⟨l', hl', takenUp_congr (e' := fun t => t.cancelLaunch l') rfl rfl ?_ ?_ ha hw⟩
    · exact if_neg (by simp [hl])
    · simp [hl']
  case cancelNone => exact refusedWith rfl rfl (if_pos (by simp [hl])) (by decide)
  case query =>
    exact fun ha => takenUp (exec_query ha qs ltag) (by simpa using hqs) (if_neg fun hn => hq hn.1 hn.2) ha
  case queryNone => exact fun ha => refusedWith (exec_query ha 0#8 ltag) rfl (if_pos ⟨rfl, hq⟩) (by decide) ha

end Sys2Proof.Settled
end

section
/-! PROOFS. O35: IMAGE.LOAD and its end, ENDPOINT.BIND and LAUNCH. -/

namespace Sys2Proof.Machine

open Sys2Proof Sys2Proof.Safety

/-! ## The end of an IMAGE.LOAD (R49) -/

section ImageLoadDone

variable {s : State} {f k n a : Nat} {tag : Word} (hm : s.mgmt = [.imageLoad f k tag a n])

include hm

/-- The command whose end comes is the one under way, and it is no more; the slot has been emptied before the checks. -/
theorem exec_imageLoadDone_unread : exec (.imageLoadDone f k false) s =
    .next ((({ s with mgmt := [] }).emptySlot f k).complete f 0x04 0x12 tag 0 0 none) := by
  change execImageLoadDone f k false s = _
  simp [execImageLoadDone, hm, go]

theorem exec_imageLoadDone_error {e : Nat}
    (he : (({ s with mgmt := [] }).emptySlot f k).loadImage f k n ((({ s with mgmt := [] }).emptySlot f k).host.readN a n) = .error e) :
    exec (.imageLoadDone f k true) s = .next ((({ s with mgmt := [] }).emptySlot f k).complete f 0x04 e tag 0 0 none) := by
  change execImageLoadDone f k true s = _
  simp [execImageLoadDone, hm, go, he]

theorem exec_imageLoadDone_ok {u : State}
    (he : (({ s with mgmt := [] }).emptySlot f k).loadImage f k n ((({ s with mgmt := [] }).emptySlot f k).host.readN a n) = .ok u) :
    exec (.imageLoadDone f k true) s = .next (u.complete f 0x04 0 tag 0 0 none) := by
  change execImageLoadDone f k true s = _
  simp [execImageLoadDone, hm, go, he]

end ImageLoadDone

/-! ## Launches (R51) -/

/-- A LAUNCH that passes every check names a slot with an image. -/
theorem State.imageOf_of_launchStatus {s : State} {f slot set graph prio plen : Nat}
    (h : s.launchStatus f slot set graph prio plen = 0) : ∃ im, s.imageOf f slot = some im := by
  unfold State.launchStatus at h
  unfold State.imageOf
  cases ht : s.tenant f with
  | none => simp [ht] at h
  | some t =>
    cases hi : t.images.find slot with
    | none => simp [ht, hi] at h
    | some im => exact ⟨im, hi⟩

theorem acked_imageOf (s : State) (h : MsgHdr) (k st f slot : Nat) : (acked s h k st).imageOf f slot = s.imageOf f slot := by
  simp only [State.imageOf, State.tenant, acked_tenants]

end Sys2Proof.Machine

namespace Sys2Proof.Settled

open Sys2Proof Sys2Proof.Machine Sys2Proof.Safety

/-- Settles O35: the messages are receipts of their kinds, and the end of a load is its instruction's equation. -/
theorem imageMessages : Obligations.ImageMessages := by
  unfold Obligations.ImageMessages
  intro s h slot set ep prio plen haddr ha ext len graph param
  dsimp only
  refine ⟨fun hal hmin hmax => ⟨fun hs => ?load, fun hs => ?loadBusy⟩,
    fun tag a n hm => ⟨exec_imageLoadDone_unread hm, fun e => exec_imageLoadDone_error hm, fun u => exec_imageLoadDone_ok hm⟩,
    fun hset hep hha hext hmin hmax => ⟨fun hs => ?bind, fun e he hs => ?bindRefused⟩,
    fun hset hprio hplen => ⟨fun hs => ?launch, fun e he hs => ?launchRefused⟩⟩
  case load =>
    refine takenUp_congr rfl (by simp [hal]; omega) (if_neg (by rw [hs]; decide)) ?_
    simp only [State.lat_mgmt, State.lat_timers, State.lat_cycle]
  case loadBusy => exact refusedWith rfl (by simp [hal]; omega) (if_pos hs) (by decide)
  case bind => exact takenUp rfl (by simp [hha, hext]; omega) hs
  case bindRefused => exact refusedWith rfl (by simp [hha, hext]; omega) hs he
  case launch =>
    obtain ⟨im, him⟩ := State.imageOf_of_launchStatus hs
    refine ⟨im, him, takenUp_congr rfl (by simp; omega) hs ?_⟩
    simp only [acked_imageOf, him]
  case launchRefused => exact refusedWith rfl (by simp; omega) hs he

end Sys2Proof.Settled
end

section
/-! PROOFS. O36: SIGNAL, and the ends of launches, tenants and prefix entries. -/

namespace Sys2Proof.Machine

open Sys2Proof Sys2Proof.Safety

/-! ## What a SIGNAL names (R53) -/

/-- An acknowledgement changes no unresolved fault, and so names the same. -/
theorem acked_namedFault (s : State) (h : MsgHdr) (k st f : Nat) (tag fid : Word) :
    (acked s h k st).namedFault f tag fid = s.namedFault f tag fid := by
  obtain ⟨n, hn, hf⟩ := acked_only s h k st
  rw [hn, State.namedFault, State.namedFault, ← hf]
  rfl

/-- A SIGNAL that names a fault has an effect on that fault. -/
theorem takenUp_signalResume {s : State} {h : MsgHdr} {tag fid : Word} {q : FltRec} (hq : s.namedFault h.func.toNat tag fid = some q) :
    TakenUp (.signalResume h tag fid) s h 0x07 false (fun t => t.resumeFault h.func.toNat q) :=
  takenUp_congr rfl rfl (by simp [hq]) (by simp only [acked_namedFault, hq])

theorem takenUp_signalAbort {s : State} {h : MsgHdr} {tag fid : Word} {q : FltRec} (hq : s.namedFault h.func.toNat tag fid = some q) :
    TakenUp (.signalAbort h tag fid) s h 0x07 false (fun t => t.endLaunch h.func.toNat q.ltag 0x07) :=
  takenUp_congr rfl rfl (by simp [hq]) (by simp only [acked_namedFault, hq])

/-! ## Ends (R52, R55) -/

theorem exec_tenantDestroyDone {s : State} {f : Nat} {t : Tenant} {tag : Word} (ht : s.tenant f = some t) (hd : t.dying = some tag)
    (hr : s.destroyReady f = true) : exec (.tenantDestroyDone f) s = .next ((s.freeTenant f).complete 0 0x03 0 tag 0 0 none) := by
  change execTenantDestroyDone f s = _
  simp [execTenantDestroyDone, hr, ht, hd, go]

end Sys2Proof.Machine

namespace Sys2Proof.Settled

open Sys2Proof Sys2Proof.Machine Sys2Proof.Safety

/-- Settles O36: a SIGNAL by what it names, and each end by its instruction's equation. -/
theorem signalsAndEnds : Obligations.SignalsAndEnds := by
  unfold Obligations.SignalsAndEnds
  intro s h ltag value fid func idx
  dsimp only
  refine ⟨fun l hl hroom ha hw => ?value, fun hl => ?noLaunch, fun l hl hfull => ?full,
    fun q hq => ⟨takenUp_signalResume hq, takenUp_signalAbort hq⟩, fun hq => ⟨?noFault, ?noFaultAbort⟩, fun hl => ?hostWrite,
    fun l hl => ?complete, fun t tag ht hd hr => exec_tenantDestroyDone ht hd hr, rfl⟩
  case value =>
    obtain ⟨l', hl'⟩ := exists_namedLaunch_acked hl h 0x07 0
    refine ⟨l', _, hl', rfl, (takenUp rfl rfl (by simp [hl, hroom]) ha hw).trans ?_⟩
    simp only [hl']
  case noLaunch => exact refusedWith rfl rfl (by simp [hl]) (by decide)
  case full => exact refusedWith rfl rfl (by simp [hl, hfull]) (by decide)
  case noFault => exact refusedWith rfl rfl (by simp [hq]) (by decide)
  case noFaultAbort => exact refusedWith rfl rfl (by simp [hq]) (by decide)
  case hostWrite => exact congrArg Host.Outcome.next (if_pos hl)
  case complete =>
    change execLaunchComplete func ltag s = _
    simp only [execLaunchComplete, hl]
    rfl

end Sys2Proof.Settled
end

section
/-! PROOFS. O37: FW.STAGE, FW.ACTIVATE, CAL.RUN and RETIRE, and their ends. -/

namespace Sys2Proof.Machine

open Sys2Proof Sys2Proof.Safety

/-- The firmware bundle that is staged is not touched by an acknowledgement. -/
theorem acked_bundle (s : State) (h : MsgHdr) (k st : Nat) : (acked s h k st).bundle = s.bundle := by
  obtain ⟨n, hn, -⟩ := acked_only s h k st
  rw [hn]

/-- The form of a RETIRE: its fields in their ranges, and a DRAM region in units of 2 MiB (R62). -/
theorem retireForm {k i lane base ext most : Nat} (hk : k ≤ 2) (hi : i < most) (hl : lane ≤ 17) (hb : base % 2 ^ 21 = 0)
    (he : ext % 2 ^ 21 = 0) :
    (decide (2 < k) || decide (most ≤ i) || decide (17 < lane) || base % 2 ^ 21 != 0 || ext % 2 ^ 21 != 0) = false := by
  rw [hb, he]
  simp [hk, hi, hl]

/-! ## The ends of function 0's commands (R59 to R62) -/

/-- The one command of function 0 under way is the one that ends. -/
theorem State.mgmtHead_of_mgmt {s : State} {c : Mgmt} (hm : s.mgmt = [c]) (hc : ∀ f k tag a n, c ≠ .imageLoad f k tag a n) :
    s.mgmtHead = some c := by
  cases c with
  | imageLoad f k tag a n => exact absurd rfl (hc f k tag a n)
  | _ => rw [State.mgmtHead, hm]; rfl

theorem exec_fwStageDone {s : State} {tag : Word} {a n : Nat} (hm : s.mgmtHead = some (.fwStage tag a n)) (ok : Bool) :
    exec (.fwStageDone ok) s = .next (
      let st := if ok then bundleStatus n (s.host.readN a n) else 0x12
      ({ s with bundle := if st = 0 then s.host.readN a n else s.bundle }).mgmtDone 0x10 st tag) := by
  change execFwStageDone ok s = _
  simp [execFwStageDone, hm, go]

/-- The last die of an activation, once it is vacant, takes the new firmware or keeps the old (R60). -/
theorem exec_fwActivateDieDone {s : State} {tag : Word} {d c : Nat} (hm : s.mgmtHead = some (.fwActivate tag [d] c))
    (hv : s.dieVacant d = true) (ok : Bool) : exec (.fwActivateDieDone ok) s = .next (
      let t := { s.dieFreed d with dies := s.dies.modify d (fun x => { x with excluded := false }), choicePend := true }
      if ok then ({ t with
          dies := t.dies.modify d (fun x => { x with fwver := s.staged.1 })
          bootKeys := if d = 0 then some s.staged.2 else s.bootKeys }).mgmtDone 0x11 0 tag
      else t.mgmtDone 0x11 0x13 tag) := by
  change execFwActivateDieDone ok s = _
  cases ok <;> simp [execFwActivateDieDone, hm, hv, go, State.dieFreed]

theorem exec_calRunDone {s : State} {tag : Word} {q n : Nat} (hm : s.mgmtHead = some (.calRun tag q n))
    (hr : ¬(q = 0 ∧ (s.port n).st = .retraining)) (ok : Bool) : exec (.calRunDone ok) s = .next (
      if ok then (if q = 0 then s.modPort n (fun p => if p.st = .active then
          { p with width := (laneWidth p.lost).1, spare := (laneWidth p.lost).2, prior := none } else { p with prior := none })
        else if q = 1 then { s with hlmod := s.hlmod.set n true } else s).mgmtDone 0x12 0 tag
      else (if q = 0 then s.modPort n Port.uncalibrate else s).mgmtDone 0x12 0x13 tag) := by
  change execCalRunDone ok s = _
  cases ok <;> simp [execCalRunDone, hm, hr, go]

section Retire

variable {s : State} {tag : Word} {q n x a e : Nat} (hm : s.mgmtHead = some (.retire tag q n x a e))
  (hr : s.retireReady q n (s.emptied q n a e) = true)

include hm hr

theorem exec_retireDone_moved {u : State} (hu : (if q = 0 then s.dropDie (dieOfPage n) else s).vacate (s.emptied q n a e) = some u) :
    exec .retireDone s = .next { (if q = 0 then u.endStranded else u).mgmtDone 0x13 0 tag with choicePend := true } := by
  change execRetireDone s = _
  simp [execRetireDone, hm, hr, hu, go]

theorem exec_retireDone_noRoom (hu : (if q = 0 then s.dropDie (dieOfPage n) else s).vacate (s.emptied q n a e) = none) :
    exec .retireDone s = .next ((s.readmit q n a e).mgmtDone 0x13 0x14 tag) := by
  change execRetireDone s = _
  simp [execRetireDone, hm, hr, hu, go]

end Retire

end Sys2Proof.Machine

namespace Sys2Proof.Settled

open Sys2Proof Sys2Proof.Machine Sys2Proof.Safety

/-- Settles O37: each message is the receipt of its kind, and each end its instruction's equation. -/
theorem managementMessages : Obligations.ManagementMessages := by
  unfold Obligations.ManagementMessages
  intro s h haddr base ext len tag dies comp tkind index lane
  dsimp only
  refine ⟨fun hal hmax => ?stage, fun a n hm => ?staged, fun hd hc => ⟨fun hb => ?activateNone, fun hb => ?activate⟩,
    fun d c hm hv => ?activated, fun hi => ?calibrate, fun q n hm hr => ?calibrated,
    fun hk hi hl hb he => ⟨fun hs => ?retire, fun hs => ?retireKept⟩,
    fun q n x a e u hm hr => exec_retireDone_moved (State.mgmtHead_of_mgmt hm nofun) hr,
    fun q n x a e hm => exec_retireDone_noRoom (State.mgmtHead_of_mgmt hm nofun)⟩
  case stage =>
    refine takenUp_congr rfl (by simp [hal]; exact hmax) rfl ?_
    simp only [State.lat_mgmt, State.lat_timers, State.lat_cycle]
  case staged =>
    have hdone := exec_fwStageDone (State.mgmtHead_of_mgmt hm nofun)
    exact ⟨hdone false, fun hs => by simp [hdone, hs], fun e he hs => by simp [hdone, hs, he]⟩
  case activateNone =>
    refine takenUp_congr rfl (by simp [hd, hc]) rfl (if_pos ?_)
    rw [acked_bundle, hb]
  case activate =>
    refine takenUp_congr rfl (by simp [hd, hc]) rfl (if_neg ?_)
    rwa [acked_bundle]
  case activated =>
    have hdone := exec_fwActivateDieDone (State.mgmtHead_of_mgmt hm nofun) hv
    exact ⟨hdone false, hdone true⟩
  case calibrate => exact takenUp rfl (by simpa using hi) rfl
  case calibrated =>
    have hdone := exec_calRunDone (State.mgmtHead_of_mgmt hm nofun) hr
    exact ⟨hdone false, hdone true⟩
  case retire => exact takenUp rfl (retireForm hk hi hl hb he) hs
  case retireKept => exact refusedWith rfl (retireForm hk hi hl hb he) hs (by decide)

end Sys2Proof.Settled
end

section
/-! PROOFS. O38: the NMP sideband registers, and what is sent. -/

namespace Sys2Proof.Machine

open Sys2Proof Sys2Proof.Safety

/-! ## NMPDACK (R38, R56, R57) -/

section Acknowledge

variable {s : State} {v : Word}

theorem State.acknowledge_ignored (h : seqDist s.nmp.dack v = 0 ∨ seqDist s.nmp.dack s.nmp.diss < seqDist s.nmp.dack v) :
    s.acknowledge v = s := if_pos h

/-- An acknowledgement that advances, and not past what was issued, drops the kept messages that it covers. -/
theorem State.acknowledge_advances (h1 : 1 ≤ seqDist s.nmp.dack v) (h2 : seqDist s.nmp.dack v ≤ seqDist s.nmp.dack s.nmp.diss) :
    ∃ fin, s.acknowledge v = { s with nmp := { s.nmp with
      dack := v
      kept := s.nmp.kept.filter (fun p => decide (seqDist s.nmp.dack v < seqDist s.nmp.dack (BitVec.ofNat 32 p.1)))
      fin := fin } } :=
  ⟨_, if_neg (by omega)⟩

end Acknowledge

/-! ## NMPCTL (R41, R57) -/

/-- A snapshot that a RESYNC has prepared goes ahead of what is queued. -/
theorem State.sendSnapshot_sends {s : State} (hv : s.viral = false) : ∃ fin, s.sendSnapshot =
    { s with nmp := { s.nmp with snap := false, prep := [], queue := s.nmp.prep ++ s.nmp.queue, fin := fin } } :=
  ⟨_, if_neg (by rw [hv]; decide)⟩

theorem exec_nmpctlHoldRelease (s : State) : exec .nmpctlHoldRelease s = .next (
    if s.nmp.snap then ({ s with nmp := { s.nmp with hold := false, held := false } }).sendSnapshot
    else { s with nmp := { s.nmp with hold := false, held := false } }) := rfl

/-- Where a RESYNC leaves a completed request, the host still knows it: only the SEQ that ends it may differ. -/
theorem map_seq_none_resync (l : List FinRec) (last : Nat) :
    (l.map (fun f => { f with seq := some (f.seq.getD last) })).map (fun f => { f with seq := none }) =
      l.map (fun f => { f with seq := none }) := by
  rw [List.map_map]
  rfl

/-! ## DEVICE_MESSAGE_SEND (R40, R41, R433) -/

section Send

variable {s : State} (hs : s.canSend = true)

include hs

/-- A message to be sent again goes first. -/
theorem exec_deviceMessageSend_again {q : Nat} {m : DMsg} {rest : List (Nat × DMsg)} (hr : s.nmp.resending = (q, m) :: rest) :
    exec .deviceMessageSend s = .next { s with nmp := { s.nmp with
      resending := rest, resend := rest != [], out := s.nmp.out ++ [s.wire (BitVec.ofNat 32 q) m] } } := by
  change execDeviceMessageSend s = _
  simp [execDeviceMessageSend, hs, hr, go]

theorem exec_deviceMessageSend_new {m : DMsg} {rest : List DMsg} (hr : s.nmp.resending = []) (hq : s.nmp.queue = m :: rest) :
    exec .deviceMessageSend s = .next (({ s with nmp := { s.nmp with queue := rest } }).issue m) := by
  change execDeviceMessageSend s = _
  simp [execDeviceMessageSend, hs, hr, hq, go]

end Send

/-- What is sent goes out under the next SEQ and is kept, whatever its ACK lets govern. -/
theorem State.issue_nmp (s : State) (m : DMsg) : ∃ fin, (s.issue m).nmp = { s.nmp with
      diss := s.nmp.diss + 1#32
      kept := s.nmp.kept ++ [((s.nmp.diss + 1#32).toNat, m)]
      fin := fin
      out := s.nmp.out ++ [s.wire (s.nmp.diss + 1#32) m] } := by
  unfold State.issue
  cases m.eff <;> exact ⟨_, rfl⟩

theorem State.issue_tenants (s : State) (m : DMsg) : (s.issue m).tenants = (m.eff.elim s s.govern).tenants := rfl

end Sys2Proof.Machine

namespace Sys2Proof.Settled

open Sys2Proof Sys2Proof.Machine Sys2Proof.Safety

/-- Settles O38, register by register. -/
theorem nmpRegisters : Obligations.NmpRegisters := by
  unfold Obligations.NmpRegisters
  intro s v
  dsimp only
  refine ⟨fun hd => ?ignored, fun h1 h2 => ?acknowledged, rfl, rfl, fun hh => congrArg Host.Outcome.next (if_pos hh), fun hh => ?resync,
    fun hs => ?release, fun hs hv => ?releaseSnapshot, fun hh hr hrs hs hq => ?resend, fun hh => ?resendHeld, fun hr hrs => ?resendStart,
    fun hs => ⟨fun q m rest hr => exec_deviceMessageSend_again hs hr, fun m rest hr hq => ?send⟩⟩
  case ignored => exact congrArg Host.Outcome.next (State.acknowledge_ignored hd)
  case acknowledged =>
    obtain ⟨fin, hack⟩ := State.acknowledge_advances h1 h2
    refine ⟨_, congrArg Host.Outcome.next hack, rfl, rfl, fun p => ?_⟩
    rw [List.mem_filter, decide_eq_true_eq]
    rfl
  case resync =>
    exact ⟨_, congrArg Host.Outcome.next (if_pos hh), rfl, rfl, rfl, rfl, rfl, rfl, map_seq_none_resync _ _, rfl, rfl⟩
  case release => rw [exec_nmpctlHoldRelease, if_neg (by rw [hs]; decide)]
  case releaseSnapshot =>
    obtain ⟨fin, hsend⟩ := State.sendSnapshot_sends (s := { s with nmp := { s.nmp with hold := false, held := false } }) hv
    exact ⟨_, by rw [exec_nmpctlHoldRelease, if_pos hs, hsend], rfl, rfl, rfl, rfl, rfl⟩
  case resend => exact congrArg Host.Outcome.next (if_neg (by simp [hh, hr, hrs, hs, hq]))
  case resendHeld => exact congrArg Host.Outcome.next (if_pos (by simp [hh]))
  case resendStart => exact congrArg Host.Outcome.next (if_pos (by simp [hr, hrs]))
  case send =>
    obtain ⟨fin, hn⟩ := State.issue_nmp { s with nmp := { s.nmp with queue := rest } } m
    refine ⟨_, exec_deviceMessageSend_new hs hr hq, by rw [hn], by rw [hn], by rw [hn], by rw [hn]; rfl, fun hm => ?_, fun b hm => ?_⟩
    all_goals rw [State.issue_tenants, hm]; rfl

end Sys2Proof.Settled
end

section
/-! PROOFS. O53: the fields of a host message, as they stand in its bytes. -/

namespace Sys2Proof.Machine

open Sys2Proof

/-! ## Numbers as bytes (R37) -/

@[simp] theorem length_leBytes (n v : Nat) : (leBytes n v).length = n := by
  induction n generalizing v with
  | zero => rfl
  | succ n ih => simp [leBytes, ih]

/-- The bytes of a number hold it modulo their range. -/
theorem leNat_leBytes (n v : Nat) : leNat (leBytes n v) = v % 256 ^ n := by
  induction n generalizing v with
  | zero => simp [leBytes, leNat, Nat.mod_one]
  | succ n ih =>
    have hsplit : v % (256 * 256 ^ n) = v % 256 + 256 * (v / 256 % 256 ^ n) := Nat.mod_mul
    rw [Nat.pow_succ', hsplit, leBytes, leNat, ih, BitVec.toNat_ofNat]

theorem leNat_leBytes_one {v : Nat} (h : v < 256) : leNat (leBytes 1 v) = v := by
  rw [leNat_leBytes, Nat.pow_one, Nat.mod_eq_of_lt h]

/-- A word of n bytes is read back from its bytes. -/
@[simp] theorem ofNat_leNat_leBytes {w : Nat} (n : Nat) (v : BitVec w) (h : w = 8 * n) :
    BitVec.ofNat w (leNat (leBytes n v.toNat)) = v := by
  subst h
  have hv : v.toNat < 256 ^ n := by rw [show (256 : Nat) = 2 ^ 8 from rfl, ← Nat.pow_mul]; exact v.isLt
  rw [leNat_leBytes, Nat.mod_eq_of_lt hv, BitVec.ofNat_toNat, BitVec.setWidth_eq]

@[simp] theorem leNat_byte (b : Byte) : leNat [b] = b.toNat := by simp [leNat]

theorem leBytes_zero (n : Nat) : leBytes n 0 = List.replicate n 0#8 := by
  induction n with
  | zero => rfl
  | succ n ih => simp [leBytes, ih, List.replicate_succ]

/-- Reserved bytes read as 0 (R44). -/
@[simp] theorem all_zero_leBytes (n : Nat) : (leBytes n 0).all (· == 0#8) = true := by simp [leBytes_zero]

/-- A number below 256 in four bytes is one byte and three reserved ones. -/
theorem leBytes_four {v : Nat} (h : v < 256) : leBytes 4 v = leBytes 1 v ++ leBytes 3 0 := by
  simp [leBytes, show v / 256 = 0 by omega]

/-! ## A part of a list of bytes -/

/-- The bytes of a slice, one by one. -/
theorem sliceBytes_eq_map (l : List Byte) (o n : Nat) : sliceBytes l o n = (List.range n).map (fun i => (l[o + i]?).getD 0#8) := by
  apply List.ext_getElem (by simp [length_sliceBytes])
  intro i h1 h2
  have hn : i < n := by simpa using h2
  by_cases hl : o + i < l.length
  · simp [sliceBytes, hn, hl, show i < l.length - o by omega]
  · simp [sliceBytes, List.getElem_append, hl, show ¬ i < l.length - o by omega]

theorem sliceBytes_sliceBytes {l : List Byte} {o n m : Nat} (h : o + n ≤ m) : sliceBytes (sliceBytes l 0 m) o n = sliceBytes l o n := by
  simp only [sliceBytes_eq_map, List.map_inj_left, List.mem_range]
  intro i hi
  simp [show o + i < m by omega]

theorem sliceBytes_append_right {a b : List Byte} {o n : Nat} (h : a.length ≤ o) :
    sliceBytes (a ++ b) o n = sliceBytes b (o - a.length) n := by
  simp only [sliceBytes_eq_map, List.map_inj_left, List.mem_range]
  intro i hi
  rw [List.getElem?_append_right (by omega), show o + i - a.length = o - a.length + i by omega]

theorem sliceBytes_append_left {a b : List Byte} {n : Nat} (h : a.length = n) : sliceBytes (a ++ b) 0 n = a := by
  simp [sliceBytes, ← h]

@[simp] theorem sliceBytes_nil (o n : Nat) : sliceBytes [] o n = List.replicate n 0#8 := by simp [sliceBytes]

/-! ## A field of a list of fields -/

@[simp] theorem sliceBytes_cons_zero (b : Byte) (l : List Byte) : sliceBytes (b :: l) 0 1 = [b] := by simp [sliceBytes]

@[simp] theorem sliceBytes_cons_succ (b : Byte) (l : List Byte) (o n : Nat) : sliceBytes (b :: l) (o + 1) n = sliceBytes l o n := rfl

@[simp] theorem sliceBytes_field (k v : Nat) (l : List Byte) : sliceBytes (leBytes k v ++ l) 0 k = leBytes k v :=
  sliceBytes_append_left (length_leBytes k v)

@[simp] theorem sliceBytes_field_last (k v : Nat) : sliceBytes (leBytes k v) 0 k = leBytes k v := by
  simpa using sliceBytes_field k v []

@[simp] theorem sliceBytes_past_field {k o n : Nat} (v : Nat) (l : List Byte) (h : k ≤ o) :
    sliceBytes (leBytes k v ++ l) o n = sliceBytes l (o - k) n := by
  simpa using sliceBytes_append_right (a := leBytes k v) (b := l) (o := o) (n := n) (by simpa)

@[simp] theorem sliceBytes_past_last {k o n : Nat} (v : Nat) (h : k ≤ o) : sliceBytes (leBytes k v) o n = List.replicate n 0#8 := by
  simpa using sliceBytes_past_field (n := n) v [] h

/-! ## The fields of a message (R37, R45) -/

section Fields

variable (h : MsgHdr) {k u : Nat} (p : List Byte)

/-- The header is the first 16 bytes of a message. -/
theorem sliceBytes_header {o n : Nat} (hu : 0 < u) (ho : o + n ≤ 16) :
    sliceBytes (msgBytes h k u p) o n = sliceBytes (hdrBytes h k u ++ p) o n :=
  sliceBytes_sliceBytes (by omega)

/-- The payload begins behind the header. -/
theorem sliceBytes_payload {o n : Nat} (ho : 16 ≤ o) (hn : o + n ≤ 64 * u) :
    sliceBytes (msgBytes h k u p) o n = sliceBytes p (o - 16) n := by
  rw [msgBytes, sliceBytes_sliceBytes hn, sliceBytes_append_right (by simpa [hdrBytes] using ho)]
  simp [hdrBytes]

@[simp] theorem leAt_msgBytes_kind (hu : 0 < u) (hk : k < 256) : leAt (msgBytes h k u p) 4 1 = k := by
  rw [leAt, sliceBytes_header h p hu (by decide)]
  simp [hdrBytes, leNat_leBytes_one hk]

/-- The header of a message of its kind's units, with its reserved bytes 0, is read back. -/
@[simp] theorem msgHdr_msgBytes (hb : h.bad = false) (hu : 0 < u) (hu' : u < 256) : msgHdr (msgBytes h k u p) u true = h := by
  have hf : h.func.toNat < 64 := h.func.isLt
  have field : ∀ {o n}, o + n ≤ 16 → leAt (msgBytes h k u p) o n = leNat (sliceBytes (hdrBytes h k u ++ p) o n) :=
    fun ho => by rw [leAt, sliceBytes_header h p hu ho]
  obtain ⟨seq, func, ackn, tag, bad⟩ := h
  simp only at hb hf
  subst hb
  simp [msgHdr, vecAt, field, hdrBytes, leNat_leBytes_one hu', leNat_leBytes_one (show func.toNat < 256 by omega),
    leNat_leBytes_one (show 0 < 256 by decide), hf]

@[simp] theorem leAt_payload {o n : Nat} (ho : 16 ≤ o) (hn : o + n ≤ 64 * u) :
    leAt (msgBytes h k u p) o n = leNat (sliceBytes p (o - 16) n) := by
  rw [leAt, sliceBytes_payload h p ho hn]

@[simp] theorem vecAt_payload {o n w : Nat} (ho : 16 ≤ o) (hn : o + n ≤ 64 * u) :
    vecAt (msgBytes h k u p) o n w = BitVec.ofNat w (leNat (sliceBytes p (o - 16) n)) := by
  rw [vecAt, leAt_payload h p ho hn]

@[simp] theorem zeroAt_payload {o n : Nat} (ho : 16 ≤ o) (hn : o + n ≤ 64 * u) :
    zeroAt (msgBytes h k u p) o n = (sliceBytes p (o - 16) n).all (· == 0#8) := by
  rw [zeroAt, sliceBytes_payload h p ho hn]

end Fields

/-- The three forms of SIGNAL are told apart by MODE, a byte with three reserved ones behind it (R45). -/
theorem decodeMsg_signal (h : MsgHdr) (hb : h.bad = false) (m : Nat) (hm : m ≤ 2) (ltag v : Word) :
    decodeMsg (msgBytes h 0x07 1 (leBytes 4 m ++ leBytes 4 ltag.toNat ++ leBytes 4 v.toNat)) =
      if m = 1 then .signalResume h ltag v else if m = 2 then .signalAbort h ltag v else .signalValue h ltag v := by
  rw [leBytes_four (by omega)]
  obtain rfl | rfl | rfl : m = 0 ∨ m = 1 ∨ m = 2 := by omega
  all_goals simp [decodeMsg, hb, leNat_leBytes_one]

end Sys2Proof.Machine

namespace Sys2Proof.Settled

open Sys2Proof Sys2Proof.Machine Sys2Proof.Safety

/-- Settles O53, kind by kind: the kind, the header and each field are read back from where R45 puts them. -/
theorem messageRoundTrip : Obligations.MessageRoundTrip := by
  unfold Obligations.MessageRoundTrip
  intro i h k u p hbody hbad hkind
  unfold Instr.msgBody at hbody
  split at hbody <;> simp only [Option.some.injEq, Prod.mk.injEq, reduceCtorEq] at hbody <;> obtain ⟨rfl, rfl, rfl, rfl⟩ := hbody
  -- the three forms of SIGNAL
  case h_7 => exact decodeMsg_signal _ hbad 0 (by decide) _ _
  case h_8 => exact decodeMsg_signal _ hbad 1 (by decide) _ _
  case h_9 => exact decodeMsg_signal _ hbad 2 (by decide) _ _
  -- a kind that R45 does not list
  case h_16 => exact absurd rfl (hkind _)
  -- every other kind has one form
  all_goals simp [decodeMsg, hbad]

end Sys2Proof.Settled
end

section
/-! PROOFS. O45: a boundary at which the launch of the region ends, and what was staged is lost. -/

namespace Sys2Proof.Machine

open Sys2Proof Sys2Proof.Safety

/-! ## The order of a commit (R171) -/

/-- A fold that gives each item a mark keeps the items, in their order. -/
theorem foldl_marked_items {α β γ : Type} (g : α × List (β × γ) → γ → α × List (β × γ))
    (hg : ∀ a i, (g a i).2.map Prod.snd = a.2.map Prod.snd ++ [i]) (l : List γ) (a : α × List (β × γ)) :
    (l.foldl g a).2.map Prod.snd = a.2.map Prod.snd ++ l := by
  induction l generalizing a with
  | nil => simp
  | cons i l ih => simp [ih, hg]

/-- The phases are marks on the items of a commit. -/
theorem phased_items (l : List Staged) : (phased l).map Prod.snd = l := by
  simpa [phased] using foldl_marked_items _ (fun a i => by simp) l (([] : Tbl Nat), ([] : List (Nat × Staged)))

/-- The order of a commit loses nothing: only where nothing was staged is there nothing to commit. -/
theorem commitOrder_eq_nil (l : List Staged) : commitOrder l = [] ↔ l = [] := by
  constructor
  · intro h
    simp only [commitOrder, List.append_eq_nil_iff, List.map_eq_nil_iff, sortBy_eq_nil] at h
    obtain ⟨⟨hmem, hlate⟩, hevent⟩ := h
    have hmem : l.filter (fun i => i.act.memory) = [] := by rw [← phased_items (l.filter _), hmem]; rfl
    rw [List.filter_eq_nil_iff] at hmem hlate hevent
    refine List.eq_nil_iff_forall_not_mem.2 fun i hi => hlate i hi ?_
    simp [hmem i hi, hevent i hi]
  · rintro rfl
    rfl

/-! ## Two regions of one launch, of which one is in a debug break (R85, R254, R257) -/

/-- A signature that declares nothing, bound on a page. -/
def plainSig (page : Nat) : SigInst :=
  { decl := SigDecl.none, idx := 0, page := page, passed := false, final := false, done := false }

/-- A store that the round has staged. -/
def lostStore : Staged :=
  { sg := 0, x := 1, y := 0, sn := 0, epoch := 0, seq := 0, stamp := 0, sched := false, act := .store 0x200000 [7#8] 0 [] }

/-- The region whose round ends, in no debug break: it has staged one store. -/
def storingRegion : Region :=
  { Region.empty with func := 1, sigs := [plainSig 0], mode := .running, now := { Fabric.empty with staged := [lostStore] } }

/-- A region of the same launch in a debug break, with a round shadow that cannot be read. -/
def brokenRegion : Region :=
  { Region.empty with num := 1, func := 1, load := 1, sigs := [plainSig 1], mode := .running, commits := 1,
                      brk := some { sg := 0, x := 0, y := 0, stamp := 0, sched := false, age := 0, out := false }
                      shadowBad := some (1, 0, 0, 0) }

/-- Tenant 1, which runs both regions, owes more than its quantum. -/
def debtor : Tenant :=
  { Tenant.zero with quant := 1, deficit := -2
                     queue := [{ Launch.none with func := 1, active := true, released := [0, 1] }] }

/-- Tenant 2, which has credit, with a launch of one load that is pinned on the page of the region in the debug break. -/
def creditor : Tenant :=
  { Tenant.zero with
    deficit := 1
    queue := [{ Launch.none with
      func := 2, active := true, released := [0]
      img := { Image.none with sigs := [{ SigDecl.none with pin := 1 }]
                               graphs := [{ graph := 0, loads := [{ load := 0, preds := [], sigs := [0] }] }] } }] }

/-- The boundary of the storing region comes while the load of the creditor waits for a page of the debtor. -/
def debtAtBoundary : State :=
  { State.reset with
    cycle := 100
    regions := [(0, storingRegion), (1, brokenRegion)]
    tenants := [(0, Tenant.zero), (1, debtor), (2, creditor)]
    items := [{ func := 2, ltag := 0#32, aseq := 0, load := 0, prio := 0, rel := 0, saved := none }] }

/-- The debt has the region in the debug break asked to yield, so that its round is voided; its shadow cannot be read, so that its launch
ends; this voids the storing region as well, and its store is in no commit. -/
theorem roundBoundary_debtAtBoundary : ∃ t, exec .roundBoundary debtAtBoundary = .next t ∧ (t.reg 0).commit = [] :=
  ⟨_, rfl, by decide⟩

end Sys2Proof.Machine

namespace Sys2Proof.Settled

open Sys2Proof Sys2Proof.Machine Sys2Proof.Safety

/-- Refutes O45: where the yield requests of a boundary end the launch of the region in focus, by a debug break of another of its regions,
what the region had staged is not in the commit, though it is in no debug break itself. -/
theorem not_roundEnds : ¬ Obligations.RoundEnds := by
  unfold Obligations.RoundEnds
  rintro ⟨h, -⟩
  have hbound : Bound debtAtBoundary := rfl
  obtain ⟨⟨t, ht, -, -, -, -, -, -, -, -, -, -, -, hcommit, -⟩, -⟩ := h debtAtBoundary hbound
  obtain ⟨u, hu, hlost⟩ := roundBoundary_debtAtBoundary
  obtain rfl : t = u := by rw [ht] at hu; exact Host.Outcome.next.inj hu
  obtain ⟨more, hmore⟩ := hcommit rfl
  have hnil := (commitOrder_eq_nil ([lostStore] ++ more)).1 (hmore.symm.trans hlost)
  exact List.cons_ne_nil _ _ hnil

end Sys2Proof.Settled
end

section
/-! PROOFS. O12: stream reads and stores, and the words of host endpoints. -/

namespace Sys2Proof.Machine

open Sys2Proof Sys2Proof.Safety

/-! ## LDS and STS (R342 to R344) -/

section StreamBlocks

variable {s : State} {f : FM} {va a g : Nat}

/-- LDS with a target in an operand store issues its read for it (R343). -/
theorem fires_lds_store (hacc : StreamAccess s f.strm.toNat (blockSize f.mode) va false)
    (htarget : s.ldsTarget (s.blockOff f) (bitsOf f.mode 3 2) (blockSize f.mode) = (.ok, a, none)) :
    Fires (.lds f) s [f.d.toNat] [] (fun t =>
      ((t.asAcquire f.strm.toNat (fun u => u.issueRead f.strm.toNat va (blockSize f.mode) a none (bitAt f.off 18) false 0)).cmpBytes va
        (blockSize f.mode)).advance f.strm.toNat (blockSize f.mode) (bitAt f.off 19)) := by
  obtain ⟨hat, hchk⟩ := hacc
  refine fires_entry (i := .lds f) rfl ?_ ?_
  · simp only [htarget, hat, hchk, Chk.ok_and]
  · simp only [htarget, hat]

/-- LDS with a FIFO as its target promises it the words of its read (R129, R343). -/
theorem fires_lds_fifo (hacc : StreamAccess s f.strm.toNat (blockSize f.mode) va false)
    (htarget : s.ldsTarget (s.blockOff f) (bitsOf f.mode 3 2) (blockSize f.mode) = (.ok, a, some g)) :
    Fires (.lds f) s [f.d.toNat] [] (fun t =>
      (((t.modE (fun e => e.modGrp g (fun k => { k with promised := k.promised + blockSize f.mode / 4 }))).asAcquire f.strm.toNat
        (fun u => u.issueRead f.strm.toNat va (blockSize f.mode) a (some g) (bitAt f.off 18) false 0)).cmpBytes va
        (blockSize f.mode)).advance f.strm.toNat (blockSize f.mode) (bitAt f.off 19)) := by
  obtain ⟨hat, hchk⟩ := hacc
  refine fires_entry (i := .lds f) rfl ?_ ?_
  · simp only [htarget, hat, hchk, Chk.ok_and]
  · simp only [htarget, hat]

/-- STS with its bytes readable stages them, its walk begun and its stream's adders fed (R20, R344). -/
theorem fires_sts (hacc : StreamAccess s f.strm.toNat (blockSize f.mode) va true)
    (hread : LocalReadable s (s.blockOff f) (bitsOf f.mode 3 2) (blockSize f.mode) a) (hfeed : s.feedChk f.strm.toNat = .ok) :
    Fires (.sts f) s [f.d.toNat] [] (fun t =>
      ((((t.walkStore va (blockSize f.mode)).asRelease f.strm.toNat (fun u =>
        u.putStore f.strm.toNat va (s.sramOld a (blockSize f.mode)))).cmpBytes va (blockSize f.mode)).advance f.strm.toNat
          (blockSize f.mode) (bitAt f.off 19)).modE (fun e => e.markRead a (blockSize f.mode))) := by
  obtain ⟨hat, hchk⟩ := hacc
  obtain ⟨hlocal, hpoison⟩ := hread
  refine fires_entry (i := .sts f) rfl ?_ ?_
  · simp only [hlocal, hpoison, hat, hchk, hfeed, Chk.ok_and]
  · simp only [hlocal, hat]

end StreamBlocks

/-! ## Orders that are not pending (R173, R174) -/

/-- With no ACQ pending on its stream, an entry's reads are plain reads. -/
theorem State.asAcquire_plain {s : State} {sn : Nat} (h : s.nowE.acqNext.find sn = none) (issue : State → State) :
    s.asAcquire sn issue = issue s := by
  simp only [State.asAcquire, h]

/-- With no REL pending on its stream, an entry's stores are plain stores. -/
theorem State.asRelease_plain {s : State} {sn : Nat} (h : sn ∉ s.nowE.relNext) (issue : State → State) :
    s.asRelease sn issue = issue s := by
  rw [State.asRelease, if_neg (by simpa using h)]

/-! ## HEPR and HEPW (R345, R346) -/

section Endpoints

variable {s : State} {f : FM} {pos : Nat}

/-- HEPR with the beat of POS in its queue lands the word at POS; but for PEEK, POS moves on, and the beat goes with its last
word (R345). -/
theorem fires_hepr {beat : List Byte} (hat : s.streamAt f.strm.toNat 4 = (.ok, pos))
    (hbeat : (s.stream f.strm.toNat).beats.find? (fun q => q.1 == alignDown pos 64) = some (alignDown pos 64, beat)) :
    Fires (.hepr f) s [] [f.d.toNat] (fun t =>
      let u := t.put f.d.toNat (BitVec.ofNat 32 (leAt beat (pos % 64) 4))
      if bitAt f.mode 0 then u
      else u.modE (fun e => e.modStream f.strm.toNat (fun k => { k with
        pos := k.pos + 4
        beats := if (pos + 4) % 64 = 0 then k.beats.filter (fun q => q.1 != alignDown pos 64) else k.beats }))) := by
  refine fires_entry (i := .hepr f) rfl ?_ ?_
  · simp only [hat, hbeat, Option.isSome_some, if_true]
  · simp only [hat, hbeat, Option.map_some, Option.getD_some]

/-- HEPW with room in its queue of 64 beats appends its word (R110, R346). -/
theorem fires_hepw (hat : s.streamAt f.strm.toNat 4 = (.ok, pos)) (hroom : (s.stream f.strm.toNat).part.length < 1024) :
    Fires (.hepw f) s [f.d.toNat] [] (fun t => t.appendHost f.strm.toNat pos (s.src f.d.toNat)) := by
  refine fires_entry (i := .hepw f) rfl ?_ ?_
  · simp only [hat, hroom, if_true]
  · simp only [hat]

end Endpoints

end Sys2Proof.Machine

namespace Sys2Proof.Settled

open Sys2Proof Sys2Proof.Machine Sys2Proof.Safety

/-- Settles O12, entry by entry: each completes as its own equation says, once its checks are in order. -/
theorem streamEntries : Obligations.StreamEntries := by
  unfold Obligations.StreamEntries
  refine ⟨fun s f va a g => ⟨?_, ?_, ?_⟩, fun s sn issue => ⟨?_, ?_⟩, fun s f pos beat hat => ⟨?_, ?_⟩⟩
  · exact fires_lds_store
  · exact fires_lds_fifo
  · exact fires_sts
  · exact fun hacq => State.asAcquire_plain hacq issue
  · exact fun hrel => State.asRelease_plain hrel issue
  · exact fires_hepr hat
  · exact fires_hepw hat

end Sys2Proof.Settled
end

section
/-! PROOFS. O55: every instruction answers, and a step runs what is ready first. -/

namespace Sys2Proof.Machine

open Sys2Proof Sys2Proof.Safety

/-! ## Every instruction answers a next state -/

/-- The outcome is a next state. -/
def Answers (o : Host.Outcome State Fault Refusal) : Prop := ∃ t, o = .next t

theorem answers_go (s : State) : Answers (go s) := ⟨s, rfl⟩

/-- Every instruction answers a next state: most whatever the state is, and the others in each case of what they look for first. -/
theorem exec_answers (i : Instr) (s : State) : Answers (exec i s) := by
  cases i with
  | walkComplete _ | holdSuspend _ | fpop _ | lbsh _ | lbrd _ | yieldSaveDone | freezeBoundExpiry | debugBreakTimeout | rmwReturn
  | copyComplete | slotPortEffect | nodeOperationLand =>
    dsimp only [exec, execWalkComplete, execHoldSuspend, execFpop, execLbsh, execLbrd, execYieldSaveDone, execFreezeBoundExpiry,
      execDebugBreakTimeout, execRmwReturn, execCopyComplete, execSlotPortEffect, execNodeOperationLand]
    split <;> exact answers_go _
  | launchActivate _ _ | holdTakesEffect _ | bindComplete | windowClose | windowedResultArrival | streamReadReply | heprBeatFetch
  | rmwPerform | softTokenComplete | foldComplete =>
    dsimp only [exec, execLaunchActivate, execHoldTakesEffect, execBindComplete, execWindowClose, execWindowedResultArrival,
      execStreamReadReply, execHeprBeatFetch, execRmwPerform, execSoftTokenComplete, execFoldComplete]
    repeat' split
    all_goals exact answers_go _
  | _ => exact answers_go _

/-! ## A step, by what is ready (R101, R210, R211, R259) -/

section Steps

variable {s : State} {op : Op} {rest : List Op}

theorem step_of_ready (h : s.ready = op :: rest) : step s = State.runOp { s with ready := rest } op := by simp only [step, h]

theorem step_of_none (h : s.ready = []) : step s = .next s.nextPhase := by simp only [step, h, go]

/-- An element with an entry to fire runs that entry. -/
theorem runOp_fire {r sg x y : Nat} {e : Entry} (h : (s.atFire r sg x y).firing = some e) :
    s.runOp (.fire r sg x y) = (s.atFire r sg x y).runEntry e := by simp only [State.runOp, h]

end Steps

/-- An entry fires in both datapaths: its outcome is that of its instruction, compared. -/
theorem State.execBoth_of_exec {s t : State} {i : Instr} (h : exec i s = .next t) : s.execBoth i = .next (t.compared s i false) := by
  simp only [State.execBoth, h, go]

/-- Where the environment flips nothing, the comparison finds nothing and changes nothing. -/
theorem State.compared_of_no_upset {s : State} {tile : Bool} (h : s.upsetHere tile = none) (t : State) (i : Instr) :
    t.compared s i tile = t := by
  simp [State.compared, State.flipped, State.mismatch, h]

section Entries

variable {s : State} {e : Entry}

theorem State.runEntry_fires (hc : s.predChk e.pred.toNat = .ok) (hp : s.predTrue e.pred.toNat (e.pn == 1#1) = true) :
    s.runEntry e = s.execBoth e.instr := by simp only [State.runEntry, hc, hp, if_true]

theorem State.runEntry_nullified (hc : s.predChk e.pred.toNat = .ok) (hp : s.predTrue e.pred.toNat (e.pn == 1#1) = false) :
    s.runEntry e = .next (s.count 0x02) := by simp [State.runEntry, hc, hp, go]

theorem State.runEntry_stalls (hc : s.predChk e.pred.toNat = .stall) : s.runEntry e = .next s.stall := by
  simp only [State.runEntry, hc, State.under, go]

theorem State.execBoth_answers (s : State) (i : Instr) : Answers (s.execBoth i) := by
  obtain ⟨t, ht⟩ := exec_answers i s
  exact ⟨_, State.execBoth_of_exec ht⟩

theorem State.runEntry_answers (s : State) (e : Entry) : Answers (s.runEntry e) := by
  unfold State.runEntry
  split
  · split
    · exact s.execBoth_answers e.instr
    · exact answers_go _
  · exact answers_go _

end Entries

theorem State.runOp_answers (s : State) (op : Op) : Answers (s.runOp op) := by
  cases op with
  | fire r sg x y =>
    unfold State.runOp
    dsimp only
    split
    · exact State.runEntry_answers _ _
    · exact answers_go _
  | sbw off v => exact answers_go _
  | ev i f => exact exec_answers _ _
  | msg bytes => exact exec_answers _ _
  | flit port bytes => exact exec_answers (.flitReceive port (decodeFlit bytes)) _

/-- Every step answers a next state. -/
theorem step_answers (s : State) : Answers (step s) := by
  unfold step
  split
  · exact State.runOp_answers _ _
  · exact answers_go _

theorem entryOf_eq_some {w : EWord} {e : Entry} : entryOf w = some e ↔ decodeEntry w = .ok e := by
  unfold entryOf
  cases decodeEntry w <;> simp

/-- The entry that an element fires is decoded from a word of its schedule in force, under the stamp at which the counter stands (R100). -/
theorem State.firing_decoded {s : State} {e : Entry} (h : s.firing = some e) :
    ∃ w ∈ (if s.focus.sched then s.decl.schedB else s.decl.schedA), decodeEntry w = .ok e ∧ e.stamp.toNat = s.focus.stamp := by
  obtain ⟨w, hw, he⟩ := List.mem_filterMap.1 (List.mem_of_find?_eq_some h)
  exact ⟨w, hw, entryOf_eq_some.1 he, by simpa using List.find?_some h⟩

end Sys2Proof.Machine

namespace Sys2Proof.Settled

open Sys2Proof Sys2Proof.Machine Sys2Proof.Safety

/-- Settles O55: the first operation that is ready decides, and every one answers (`exec_answers`, `step_answers`). -/
theorem stepRuns : Obligations.StepRuns := by
  unfold Obligations.StepRuns
  refine fun s rest => ⟨fun i f h => step_of_ready h, fun b h => step_of_ready h, fun p b h => step_of_ready h,
    fun off v h => step_of_ready h, ?_, fun r sg x y e => State.firing_decoded, step_of_none, fun i => exec_answers i s, step_answers s⟩
  intro r sg x y e h hf
  have hstep := (step_of_ready h).trans (runOp_fire hf)
  refine ⟨fun hc hp => ?_, fun hc hp => hstep.trans (State.runEntry_nullified hc hp), fun hc => hstep.trans (State.runEntry_stalls hc)⟩
  obtain ⟨t, ht⟩ := exec_answers e.instr (State.atFire { s with ready := rest } r sg x y)
  have hfire := (hstep.trans (State.runEntry_fires hc hp)).trans (State.execBoth_of_exec ht)
  exact ⟨⟨t, ht, hfire⟩, fun hu => by rw [hfire, ht, State.compared_of_no_upset hu]⟩

end Sys2Proof.Settled
end

section
/-! PROOFS. O58: what the operations of fabric entries leave as it was in memory. -/

namespace Sys2Proof.Machine

open Sys2Proof Sys2Proof.Safety

/-! ## The memory that stores change when they are performed: device memory as coherent agents see it, and host memory (R121, R162) -/

/-- Device memory as coherent agents see it, and host memory. -/
def State.outside (s : State) : Memory × Memory := (s.coh, s.host)

section Changes

variable (s : State)

@[simp] theorem State.modR_outside (f : Region → Region) : (s.modR f).outside = s.outside := rfl
@[simp] theorem State.modNow_outside (f : Fabric → Fabric) : (s.modNow f).outside = s.outside := rfl
@[simp] theorem State.modE_outside (f : Elem → Elem) : (s.modE f).outside = s.outside := rfl
@[simp] theorem State.modEAt_outside (a x y : Nat) (f : Elem → Elem) : (s.modEAt a x y f).outside = s.outside := rfl
@[simp] theorem State.modSpan_outside (f : Span → Span) : (s.modSpan f).outside = s.outside := rfl
@[simp] theorem State.modFolio_outside (n : Nat) (f : Folio → Folio) : (s.modFolio n f).outside = s.outside := rfl
@[simp] theorem State.modSide_outside (n : Nat) (f : Elem → Elem) : (s.modSide n f).outside = s.outside := rfl
@[simp] theorem State.stall_outside : s.stall.outside = s.outside := rfl
@[simp] theorem State.raise_outside (f : Flt) : (s.raise f).outside = s.outside := rfl
@[simp] theorem State.count_outside (n : Nat) : (s.count n).outside = s.outside := rfl
@[simp] theorem State.countLine_outside (e n : Nat) : (s.countLine e n).outside = s.outside := rfl
@[simp] theorem State.fresh_outside : s.fresh.2.outside = s.outside := rfl
@[simp] theorem State.lat_outside : s.lat.2.outside = s.outside := by simp [State.outside]

@[simp] theorem State.setL2_outside (l : Tbl (List Line)) : { s with l2 := l }.outside = s.outside := rfl
@[simp] theorem State.setRanges_outside (l : Tbl RangeEntry) : { s with ranges := l }.outside = s.outside := rfl

/-- A fold of steps each of which leaves memory alone leaves it alone. -/
@[simp] theorem State.foldl_outside {α : Type} {g : State → α → State} (l : List α) (h : ∀ t a, (g t a).outside = t.outside) :
    (l.foldl g s).outside = s.outside := State.foldl_field State.outside h l s

end Changes

/-! ## Operands, windows, tokens and nodes -/

section Operands

variable (s : State)

@[simp] theorem State.popIn_outside (side : Nat) : (s.popIn side).outside = s.outside := rfl

@[simp] theorem State.pushOut_outside (side : Nat) (v : Word) : (s.pushOut side v).outside = s.outside := by
  unfold State.pushOut; split <;> simp

@[simp] theorem State.setPred_outside (n : Nat) (b : Bool) : (s.setPred n b).outside = s.outside := by
  unfold State.setPred; split <;> simp

@[simp] theorem State.putRaw_outside (c : Nat) (v : Word) : (s.putRaw c v).outside = s.outside := by
  unfold State.putRaw; split_ifs <;> simp

@[simp] theorem State.put_outside (c : Nat) (v : Word) : (s.put c v).outside = s.outside := s.putRaw_outside _ v

@[simp] theorem State.consume_outside (cs : List Nat) : (s.consume cs).outside = s.outside := by
  refine State.foldl_outside s _ (fun t side => ?_)
  split <;> simp

/-- What an entry does to memory is what its effect does: a freeze and a fault leave it alone. -/
theorem State.entry_outside {srcs ds : List Nat} {chk : Chk} {eff : State → State} (h : ∀ t, (eff t).outside = t.outside) :
    (s.entry srcs ds chk eff).outside = s.outside := by
  obtain he | he | ⟨f, he⟩ := s.entry_cases srcs ds chk eff <;> rw [he]
  · simp [fired, h]
  · simp
  · simp

@[simp] theorem State.compute_outside (srcs : List Nat) (d : Nat) (v : Word) : (s.compute srcs d v).outside = s.outside :=
  s.entry_outside (fun t => t.put_outside d v)

@[simp] theorem State.openWin_outside (k : WinKind) (d w wm : Nat) (r : Option Word) : (s.openWin k d w wm r).outside = s.outside := rfl

@[simp] theorem State.tokWait_outside (t w wm : Nat) (c : Option Nat) : (s.tokWait t w wm c).outside = s.outside := by
  unfold State.tokWait; extract_lets; simp only [State.openWin_outside]; split <;> simp

@[simp] theorem State.sendToken_outside (id : Nat) : (s.sendToken id).outside = s.outside := rfl

@[simp] theorem State.inFlight_outside (due : Nat) (i : Instr) (tile : Bool) (acc : List Nat) (a b : List Byte) (x : Word) (y : Nat)
    (z : List Word) (full : Bool) : (s.inFlight due i tile acc a b x y z full).outside = s.outside := rfl

@[simp] theorem State.slotPort_outside (d : Nat) (i : Instr) (a : List Byte) (y : Nat) : (s.slotPort d i a y).outside = s.outside := rfl

@[simp] theorem State.nodeOp_outside (d : Nat) (i : Instr) (acc : List Nat) (a b : List Byte) (x : Word) (y : Nat) (z : List Word)
    (full : Bool) : (s.nodeOp d i acc a b x y z full).outside = s.outside := rfl

@[simp] theorem State.markReg_outside (c : Nat) : (s.markReg c).outside = s.outside := by
  unfold State.markReg; split_ifs <;> simp

@[simp] theorem State.startSoft_outside (due : Nat) (i : Instr) (a b : Word) (data : List Byte) (m : List Pend) :
    (s.startSoft due i a b data m).2.outside = s.outside := rfl

end Operands

/-! ## Reads, stores and walks issued: what is stored waits in the commit buffer, and walks read -/

section Issues

variable (s : State)

theorem MemSide.outside {s t : State} (h : MemSide s t) : t.outside = s.outside := by rw [h.only]; rfl

@[simp] theorem State.cmpBytes_outside (va n : Nat) : (s.cmpBytes va n).outside = s.outside := by
  unfold State.cmpBytes; split <;> simp

@[simp] theorem State.advance_outside (sn size : Nat) (na : Bool) : (s.advance sn size na).outside = s.outside := by
  unfold State.advance; split <;> simp

@[simp] theorem State.engineKib_outside (n : Nat) : (s.engineKib n).outside = s.outside := rfl

@[simp] theorem State.beginWalk_outside (id va acc : Nat) (w e : Bool) : (s.beginWalk id va acc w e).outside = s.outside := by
  simp only [State.beginWalk]; split <;> exact s.lat_outside

@[simp] theorem State.walkStore_outside (va n : Nat) : (s.walkStore va n).outside = s.outside :=
  State.foldl_outside s _ (fun t _ => State.beginWalk_outside t.fresh.2 _ _ _ _ _)

@[simp] theorem State.issueRead_outside (sn va size dst : Nat) (fifo : Option Nat) (bt gath : Bool) (seq : Nat) :
    (s.issueRead sn va size dst fifo bt gath seq).outside = s.outside := by
  simp only [State.issueRead, State.count_outside]; split <;> simp

@[simp] theorem State.stageAt_outside (sn ep : Nat) (a : Act) : (s.stageAt sn ep a).outside = s.outside := rfl

@[simp] theorem State.stage_outside (sn : Nat) (a : Act) : (s.stage sn a).outside = s.outside := by
  simp only [State.stage]; split <;> simp

@[simp] theorem State.stageEvent_outside (src : Nat) (v : Word) (stamp : Nat) : (s.stageEvent src v stamp).outside = s.outside := rfl

@[simp] theorem State.stagePlaced_outside (a : Act) : (s.stagePlaced a).outside = s.outside := rfl

/-- Reads that are an acquire's leave memory alone where plain ones do. -/
@[simp] theorem State.asAcquire_outside {sn : Nat} {issue : State → State} (h : ∀ t, (issue t).outside = t.outside) :
    (s.asAcquire sn issue).outside = s.outside := by
  unfold State.asAcquire; split <;> simp [h]

/-- Stores that are a release's leave memory alone where plain ones do. -/
@[simp] theorem State.asRelease_outside {sn : Nat} {issue : State → State} (h : ∀ t, (issue t).outside = t.outside) :
    (s.asRelease sn issue).outside = s.outside := by
  unfold State.asRelease; split <;> simp [h]

@[simp] theorem State.feed_outside (sg : Nat) (a : AdderDecl) (loc : Bool) (ws : List Word) : (s.feed sg a loc ws).outside = s.outside := rfl

@[simp] theorem State.sendChain_outside (sn port chain : Nat) (ws : List Word) : (s.sendChain sn port chain ws).outside = s.outside := by
  unfold State.sendChain
  split
  · split <;> simp
  · simp

@[simp] theorem State.feedAll_outside (sn : Nat) (bytes : List Byte) : (s.feedAll sn bytes).outside = s.outside := by
  simp only [State.feedAll]
  exact (State.foldl_outside _ _ (fun t _ => t.sendChain_outside _ _ _ _)).trans
    (State.foldl_outside s _ (fun t _ => t.feed_outside _ _ _ _))

@[simp] theorem State.putStore_outside (sn va : Nat) (bytes : List Byte) : (s.putStore sn va bytes).outside = s.outside := by
  simp [State.putStore]

@[simp] theorem State.flushBeat_outside (sn : Nat) : (s.flushBeat sn).outside = s.outside := by
  simp [State.flushBeat]

@[simp] theorem State.appendHost_outside (sn off : Nat) (w : Word) : (s.appendHost sn off w).outside = s.outside := by
  simp only [State.appendHost]; split <;> simp

@[simp] theorem State.logStore_outside (va : Nat) (bytes : List Byte) : (s.logStore va bytes).outside = s.outside := by
  simp [State.logStore]

@[simp] theorem State.logSoft_outside (st : Word) (r : Soft) (flags : Nat) : (s.logSoft st r flags).outside = s.outside := by
  unfold State.logSoft
  extract_lets dc pay t u
  rw [State.modE_outside]
  unfold u
  split <;> simp [t]

end Issues

/-! ## The L2 and the tables: what an access moves there changes no byte of memory -/

section Caches

variable (s : State)

@[simp] theorem State.suspendFor_outside (pa : Nat) : (s.suspendFor pa).outside = s.outside := (MemSide.suspendFor s pa).outside

@[simp] theorem State.cleanSectors_outside (ln mask : Nat) : (s.cleanSectors ln mask).outside = s.outside :=
  (MemSide.cleanSectors s ln mask).outside

@[simp] theorem State.cleanThrough_outside (func : Nat) (l : List (Nat × Nat)) : (s.cleanThrough func l).outside = s.outside :=
  (MemSide.flushLines s _ true false).outside

@[simp] theorem State.countAccess_outside (pa func page : Nat) (hit : Bool) : (s.countAccess pa func page hit).outside = s.outside := rfl

@[simp] theorem State.refusePin_outside (pa owner : Nat) : (s.refusePin pa owner).outside = s.outside := rfl

@[simp] theorem State.pinLine_outside (pa func ways : Nat) : (s.pinLine pa func ways).outside = s.outside := by
  simp only [State.pinLine]; split
  · rfl
  · split_ifs <;> simp

/-- An access to the L2 writes back to DRAM at most. -/
@[simp] theorem State.l2Access_outside (func page acc pa mask whole : Nat) (w : Bool) (hint : Nat) :
    (s.l2Access func page acc pa mask whole w hint).outside = s.outside := by
  simp only [State.l2Access]
  split
  · rfl
  · split
    · split_ifs <;> simp
    · split
      · split_ifs <;> simp
      · split
        · split_ifs <;> simp
        · split_ifs <;> split <;> simp

@[simp] theorem State.touchLine_outside (func page acc pa mask hint : Nat) : (s.touchLine func page acc pa mask hint).outside = s.outside := by
  unfold State.touchLine; split <;> simp [State.rowAccess]

@[simp] theorem State.touchRead_outside (func page acc pa n hint : Nat) : (s.touchRead func page acc pa n hint).outside = s.outside :=
  State.foldl_outside s _ (fun t _ => t.touchLine_outside _ _ _ _ _ _)

@[simp] theorem State.touchSectors_outside (func page acc base : Nat) (secs : List Nat) (hint : Nat) :
    (s.touchSectors func page acc base secs hint).outside = s.outside :=
  State.foldl_outside s _ (fun t _ => t.touchLine_outside _ _ _ _ _ _)

@[simp] theorem State.touchVa_outside (func page va n hint : Nat) : (s.touchVa func page va n hint).outside = s.outside := by
  unfold State.touchVa
  split
  · rfl
  · split
    · refine State.foldl_outside s _ (fun t p => ?_)
      split <;> simp
    · exact State.foldl_outside s _ (fun t p => by simp)

@[simp] theorem State.walkRead_outside (func pa : Nat) : (s.walkRead func pa).outside = s.outside := s.touchLine_outside _ _ _ _ _ _

@[simp] theorem State.hostFill_outside (die func gpa : Nat) : (s.hostFill die func gpa).outside = s.outside := by
  simp only [State.hostFill]
  split
  · rfl
  · split
    · rfl
    · split
      · rfl
      · split <;> exact State.foldl_outside s _ (fun t _ => t.walkRead_outside _ _)

/-- A nested walk reads tables through the L2 and fills the nested TLB. -/
@[simp] theorem State.nestedFill_outside (die func va : Nat) : (s.nestedFill die func va).outside = s.outside := by
  simp only [State.nestedFill]
  split
  · rfl
  · split
    · rw [State.hostFill_outside]
      exact State.foldl_outside s _ (fun u g => by split <;> simp)
    · exact State.foldl_outside s _ (fun u g => by split <;> simp)

@[simp] theorem State.walkAt_outside (v : Nat) : (s.walkAt v).outside = s.outside := by
  simp only [State.walkAt]
  split
  · rfl
  · split <;> simp [State.installWalk, State.installRange]

@[simp] theorem State.prefWalk_outside (va n : Nat) : (s.prefWalk va n).outside = s.outside :=
  State.foldl_outside s _ (fun t _ => t.walkAt_outside _)

@[simp] theorem State.rowWalk_outside (id va : Nat) (w : Bool) : (s.rowWalk id va w).outside = s.outside := by
  unfold State.rowWalk; split <;> simp

end Caches

/-! ## Rows, orders and events -/

section Orders

variable (s : State)

@[simp] theorem State.takeHold_outside (pa : Nat) (reopen : Bool) : (s.takeHold pa reopen).outside = s.outside := by
  refine (State.foldl_outside _ _ (fun t _ => ?_)).trans rfl
  exact t.lat_outside

@[simp] theorem State.barrier_outside (named held : Nat) (die : Bool) : (s.barrier named held die).outside = s.outside := by
  unfold State.barrier; split <;> simp

@[simp] theorem State.sbar_outside (named held : Nat) : (s.sbar named held).outside = s.outside := rfl

@[simp] theorem State.throughNow_outside (l : List (Nat × Nat)) : (s.throughNow l).outside = s.outside := by
  simp only [State.throughNow]; split <;> simp

@[simp] theorem State.fence_outside (named scope : Nat) (also : List (Nat × Nat)) : (s.fence named scope also).outside = s.outside := by
  simp only [State.fence]; split_ifs <;> simp

@[simp] theorem State.send_outside (m : DMsg) : (s.send m).outside = s.outside := by
  unfold State.send; split_ifs <;> rfl

@[simp] theorem State.eventMsg_outside (func src page : Nat) (tag v : Word) (x y stamp : Nat) :
    (s.eventMsg func src page tag v x y stamp).outside = s.outside := s.send_outside _

end Orders

/-! ## Every fabric entry -/

/-- The outcome `o` of an instruction in state `s` is an answer that leaves memory as `s` has it. -/
def State.Leaves (s : State) (o : Host.Outcome State Fault Refusal) : Prop := ∃ t, o = .next t ∧ t.outside = s.outside

section Entries

variable (s : State)

theorem State.leaves_entry {srcs ds : List Nat} {chk : Chk} {eff : State → State} (h : ∀ t, (eff t).outside = t.outside) :
    s.Leaves (go (s.entry srcs ds chk eff)) := ⟨_, rfl, s.entry_outside h⟩

theorem State.leaves_compute (srcs : List Nat) (d : Nat) (v : Word) : s.Leaves (go (s.compute srcs d v)) :=
  ⟨_, rfl, s.compute_outside srcs d v⟩

theorem State.leaves_raiseHere (c d : Nat) : s.Leaves (go (s.raiseHere c d)) := ⟨_, rfl, rfl⟩

theorem execLoope_leaves (f : FK) : s.Leaves (execLoope f s) :=
  s.leaves_entry (fun t => by split_ifs <;> simp)

theorem execLatch_leaves (f : FW) : s.Leaves (execLatch f s) :=
  s.leaves_entry (fun t => by split <;> simp)

theorem execLds_leaves (f : FM) : s.Leaves (execLds f s) := by
  refine s.leaves_entry (fun t => ?_)
  rw [State.advance_outside, State.cmpBytes_outside, State.asAcquire_outside _ (fun _ => by simp)]
  split <;> simp

theorem execFpush_leaves (f : FM) : s.Leaves (execFpush f s) :=
  s.leaves_entry (fun t => by split <;> simp)

theorem execFpop_leaves (f : FM) : s.Leaves (execFpop f s) := by
  unfold execFpop
  extract_lets k
  split
  · exact s.leaves_raiseHere _ _
  · exact s.leaves_entry (fun t => by simp)

theorem execLbsh_leaves (f : FM) : s.Leaves (execLbsh f s) := by
  unfold execLbsh
  split
  · exact s.leaves_raiseHere _ _
  · exact s.leaves_entry (fun t => by simp)

theorem execLbrd_leaves (f : FM) : s.Leaves (execLbrd f s) := by
  unfold execLbrd
  split
  · exact s.leaves_raiseHere _ _
  · exact s.leaves_entry (fun t => by simp)

theorem State.leaves_startCopy (f : FK) (tagged : Bool) : s.Leaves (go (s.startCopy f tagged)) := by
  unfold State.startCopy
  extract_lets cid off r d desc chk slot
  clear_value desc
  refine s.leaves_entry (fun t => ?_)
  cases desc with
  | none => rfl
  | some _ => exact t.lat_outside

theorem execCpyw_leaves (f : FW) : s.Leaves (execCpyw f s) :=
  s.leaves_entry (fun t => by split <;> simp)

theorem execPref_leaves (f : FM) : s.Leaves (execPref f s) := by
  refine s.leaves_entry (fun t => ?_)
  split
  · rfl
  · rw [State.modE_outside]
    refine State.foldl_outside t _ (fun u v => ?_)
    dsimp only
    split
    · rw [State.touchVa_outside, State.prefWalk_outside]
    · exact u.prefWalk_outside _ _

theorem execHepr_leaves (f : FM) : s.Leaves (execHepr f s) :=
  s.leaves_entry (fun t => by split <;> simp)

theorem execFence_leaves (f : FK) : s.Leaves (execFence f s) :=
  s.leaves_entry (fun t => by split <;> simp)

theorem execRel_leaves (f : FK) : s.Leaves (execRel f s) := by
  refine s.leaves_entry (fun t => ?_)
  rw [State.modE_outside]
  split <;> simp

theorem execDqnt_leaves (f : FF) : s.Leaves (execDqnt f s) :=
  s.leaves_entry (fun t => by split <;> simp)

theorem execBsc_leaves (f : FT) : s.Leaves (execBsc f s) := by
  unfold execBsc
  extract_lets a b
  split
  · exact s.leaves_entry (fun t => t.modE_outside _)
  · exact s.leaves_compute _ _ _
  · exact s.leaves_entry (fun t => by simp)

theorem execMzro_leaves (f : FX) : s.Leaves (execMzro f s) :=
  s.leaves_entry (fun t => t.modE_outside _)

theorem execFolv_leaves (f : FK) : s.Leaves (execFolv f s) :=
  s.leaves_entry (fun t => by split <;> simp)

theorem execRowopen_leaves (f : FK) : s.Leaves (execRowopen f s) := by
  refine s.leaves_entry (fun t => ?_)
  split
  · exact t.walkAt_outside _
  · rfl

theorem execRowhold_leaves (f : FK) : s.Leaves (execRowhold f s) := by
  refine s.leaves_entry (fun t => ?_)
  dsimp only
  split
  · simp
  · split <;> simp

theorem execRowrd_leaves (f : FM) : s.Leaves (execRowrd f s) :=
  s.leaves_entry (fun t => by simp)

theorem execRowwr_leaves (f : FM) : s.Leaves (execRowwr f s) :=
  s.leaves_entry (fun t => by simp)

theorem execStka_leaves (f : FK) : s.Leaves (execStka f s) :=
  s.leaves_entry (fun t => by split <;> simp)

theorem execStkn_leaves (f : FK) : s.Leaves (execStkn f s) :=
  s.leaves_entry (fun t => by split <;> simp)

theorem execStke_leaves (f : FM) : s.Leaves (execStke f s) := by
  refine s.leaves_entry (fun t => ?_)
  refine (State.foldl_outside _ _ (fun u v => by simp)).trans ?_
  split <;> exact t.lat_outside

theorem execGmsk_leaves (f : FK) : s.Leaves (execGmsk f s) :=
  s.leaves_entry (fun t => by split <;> simp)

theorem execGstp_leaves (f : FK) : s.Leaves (execGstp f s) :=
  s.leaves_entry (fun t => by split <;> simp)

theorem execPlog_leaves (f : FK) : s.Leaves (execPlog f s) :=
  s.leaves_entry (fun t => by split_ifs <;> simp)

theorem execRngs_leaves (f : FK) : s.Leaves (execRngs f s) :=
  s.leaves_entry (fun t => by split <;> simp)

theorem execDbrk_leaves (f : FK) : s.Leaves (execDbrk f s) :=
  s.leaves_entry (fun t => by split <;> simp)

theorem execSigq_leaves (f : FK) : s.Leaves (execSigq f s) :=
  s.leaves_entry (fun t => by split <;> simp)

/-- Every entry with an opcode answers and leaves memory alone: the entries that only write a register; those whose effect the rules
above cover; and those whose effect has cases of its own. A message and an event have no opcode. -/
theorem exec_leaves {i : Instr} {o : BitVec 8} (h : i.opc = some o) : s.Leaves (exec i s) := by
  cases i with
  | mov f | movi f | movhi f | add f | addi f | sub f | adds f | subs f | neg f | abs f | min f | max f | mul f | mulh f | mad f | andW f
    | orW f | xorW f | andn f | andi f | ori f | xori f | shl f | shr f | shra f | rot f | shi f | clz f | popc f | brev f | bfx f
    | bfi f | cmp f | sel f | lea f | pack f | unpk f | shuf f | dot4 f | dot2 f | tokt f | red f | bart f | fadd f | fsub f | fmul f
    | fma f | fmin f | fmax f | fabs f | fneg f | fcmp f | fcls f | fex2 f | flg2 f | frnd f | cvt f | cvti f | cvtf f | qnt f | hdrr f
    | fsum f | fdot f | fmaxa f | fscl f | rowq f | idnt f | time f | pmrd f | cfgr f =>
    exact s.leaves_compute _ _ _
  | div f | rem f | pset f | addc f | cnti f | cnts f | cntv f | cntt f | sws f | rotb f | toks f | tokw f | loopb f | waitw f | handl f
    | ldl f | stl f | sts f | sopen f | smark f | srew f | sclose f | gath f | scat f | rmw f | cmo f | retn f | unpin f | hint f
    | hepw f | stag f | bufsw f | sbar f | bara f | barw f | keyw f | acq f | drain f | fdiv f | fsqrt f | hdrw f | bfly f | mclm f
    | mrel f | mld f | mst f | mma f | mmas f | mout f | mtrn f | mctr f | msrt f | mkey f | macc f | folb f | fold f | folm f | folc f
    | folr f | foli f | folq f | rowrel f | stkh f | stkm f | stkq f | collapse f | vtxt f | stopStr f | phsh f | prpl f | trap f
    | pmcf f | pmwr f | fltm f | nop | halts | endp | keys | halt =>
    exact s.leaves_entry (fun t => by simp)
  | cpy f | cpyt f => exact s.leaves_startCopy f _
  | loope f => exact execLoope_leaves s f
  | latch f => exact execLatch_leaves s f
  | lds f => exact execLds_leaves s f
  | fpush f => exact execFpush_leaves s f
  | cpyw f => exact execCpyw_leaves s f
  | pref f => exact execPref_leaves s f
  | hepr f => exact execHepr_leaves s f
  | fence f => exact execFence_leaves s f
  | rel f => exact execRel_leaves s f
  | dqnt f => exact execDqnt_leaves s f
  | mzro f => exact execMzro_leaves s f
  | folv f => exact execFolv_leaves s f
  | rowopen f => exact execRowopen_leaves s f
  | stka f => exact execStka_leaves s f
  | stkn f => exact execStkn_leaves s f
  | stke f => exact execStke_leaves s f
  | gmsk f => exact execGmsk_leaves s f
  | gstp f => exact execGstp_leaves s f
  | plog f => exact execPlog_leaves s f
  | rngs f => exact execRngs_leaves s f
  | dbrk f => exact execDbrk_leaves s f
  | sigq f => exact execSigq_leaves s f
  | fpop f => exact execFpop_leaves s f
  | lbsh f => exact execLbsh_leaves s f
  | lbrd f => exact execLbrd_leaves s f
  | bsc f => exact execBsc_leaves s f
  | rowhold f => exact execRowhold_leaves s f
  | rowrd f => exact execRowrd_leaves s f
  | rowwr f => exact execRowwr_leaves s f
  | tenantCreate h tgt cls ways pages prio keys rows quant rate | tenantBudget h tgt cls ways pages prio keys rows quant rate
    | tenantDestroy h tgt | tenantDestroyDone func | imageLoad h slot haddr len | imageLoadDone func slot readOk
    | endpointBind h slot set ep haddr ext | launch h slot set graph prio plen param | signalValue h ltag value | signalResume h ltag fid
    | signalAbort h ltag fid | cancel h scope ltag | query h sel ltag | fwStage h haddr len | fwStageDone readOk | fwActivate h dies comp
    | fwActivateDieDone ok | calRun h tkind index | calRunDone ok | retire h tkind index lane base ext | launchComplete func ltag
    | resetSequence fwOk badPages badDies badModules | droopCountClear die | nmpdackWrite v | nmperrClear v | eccCountClear uncorrectable
    | registerWriteIgnored off v | flitReceive port f | replayRequest port | laneEyeFail port lane
    | portRetrainDone port failedLanes farAcc | hostLinkModuleLoss module | portWrite port pa data | portRead port pa n | droopDetect die
    | droopRecover die | thermalLimit die | thermalRecover die | l2WayGate die way gate | scrubPass shared | launchActivate func ltag
    | fabricLoadRelease func ltag load | walkComplete id | holdTakesEffect line | holdSuspend row | holdResume row
    | hotBlockTimeout block | softError kind loc uncorrectable | unknownKind h kind | hostWriteFailed func ltag
    | prefixEntryReclaim func idx | retireDone | deviceMessageSend | rstctlWarmReset | rstctlColdReset | powerOn | nmpctlHoldSet
    | holdEstablished | nmpctlResync | nmpctlHoldRelease | nmpctlResend | resendStart | adderElement | thermalTrip | firmwareFatal
    | bankWakeDone | fabricLoadBind | bindComplete | yieldSaveDone | spanWrap | scheduleSwitchEnd | roundBoundary | roundStart
    | roundCommit | commitEpochPerform | roundLimitExpiry | replayStart | windowClose | freezeBoundExpiry | windowedResultArrival
    | freezeRelease | tokenArrival | handlerTokenArrival | handlerWriteEffect | keystoneArrival | keystonePass | barrierArrival
    | debugBreakTimeout | streamReadReply | heprBeatFetch | rmwPerform | rmwReturn | copyComplete | slotPortEffect | nodeOperationLand
    | softTokenComplete | foldComplete | firmwareInitiatedReset | passThrough =>
    cases h

end Entries

end Sys2Proof.Machine

namespace Sys2Proof.Settled

open Sys2Proof Sys2Proof.Machine

/-- Settles O58: an entry freezes, raises a fault or has its effect, and no effect writes device or host memory: stores are staged in the
commit buffer. -/
theorem entriesLeaveMemory : Obligations.EntriesLeaveMemory := by
  unfold Obligations.EntriesLeaveMemory
  intro s i o h
  obtain ⟨t, ht, hm⟩ := exec_leaves s h
  exact ⟨t, ht, congrArg Prod.fst hm, congrArg Prod.snd hm⟩

end Sys2Proof.Settled
end

section
/-! PROOFS. O48: windows: what their result is, when it is there, and what their end does. -/

namespace Sys2Proof.Machine

open Sys2Proof Sys2Proof.Safety

/-! ## Arrivals, closes and the freeze bound (R113, R114) -/

section WindowSteps

variable (s : State) {w : Win}

/-- A window whose kind has nothing left to read: its result is held or ends the window, once it is there. The three hypotheses on its
kind are the side conditions of the last branch. -/
theorem windowedResultArrival_of_read (hw : s.nowE.wins.find s.focus.n = some w)
    (hrow : ∀ pa va ready seq after, w.kind ≠ .row pa va ready seq after none) (htext : ∀ due id a, w.kind ≠ .text due id a none)
    (hblock : ∀ due m k a h, w.kind ≠ .prefixOp due m k a h none) :
    exec .windowedResultArrival s = go (if w.res.isSome || !(s.winReady w) then s
      else if w.closed then (s.winValue w).2.endWin s.focus.n w (s.winValue w).1
      else (s.winValue w).2.modE (fun e => { e with wins := e.wins.set s.focus.n { w with res := some (s.winValue w).1 } })) := by
  change execWindowedResultArrival s = _
  simp only [execWindowedResultArrival, hw]
  split_ifs <;> rfl

theorem windowedResultArrival_row (hw : s.nowE.wins.find s.focus.n = some w) {pa va ready seq : Nat} {after : List Nat}
    (hk : w.kind = .row pa va ready seq after none) :
    exec .windowedResultArrival s = .next (s.rowFetch s.focus.n w pa va ready seq after) := by
  change execWindowedResultArrival s = _
  simp only [execWindowedResultArrival, hw, hk]
  rfl

theorem windowedResultArrival_text (hw : s.nowE.wins.find s.focus.n = some w) {due id a : Nat} (hk : w.kind = .text due id a none) :
    exec .windowedResultArrival s = .next (s.textFetch s.focus.n w due id a) := by
  change execWindowedResultArrival s = _
  simp only [execWindowedResultArrival, hw, hk]
  rfl

theorem windowedResultArrival_block (hw : s.nowE.wins.find s.focus.n = some w) {due m k a : Nat} {h : BitVec 64}
    (hk : w.kind = .prefixOp due m k a h none) :
    exec .windowedResultArrival s = .next (s.blockFetch s.focus.n w due m k a h) := by
  change execWindowedResultArrival s = _
  simp only [execWindowedResultArrival, hw, hk]
  rfl

theorem windowClose_latched (hw : s.nowE.wins.find s.focus.n = some w) {v : Word} (hv : w.res = some v) :
    exec .windowClose s = .next (s.endWin s.focus.n w v) := by
  change execWindowClose s = _
  simp only [execWindowClose, hw, hv]
  rfl

theorem windowClose_empty (hw : s.nowE.wins.find s.focus.n = some w) (hv : w.res = none) :
    exec .windowClose s = go (if w.wm = 1 then (s.winFault w 0x20).count 0x04
      else (s.modE (fun e => { e with wins := e.wins.set s.focus.n { w with closed := true } })).count 0x04) := by
  change execWindowClose s = _
  simp only [execWindowClose, hw, hv]
  split_ifs <;> rfl

theorem freezeBoundExpiry_eq (hw : s.nowE.wins.find s.focus.n = some w) :
    exec .freezeBoundExpiry s = .next (s.winFault w 0x21) := by
  change execFreezeBoundExpiry s = _
  simp only [execFreezeBoundExpiry, hw]
  rfl

theorem State.endWin_text (l : Nat) (v : Word) {due id a : Nat} {got : Option (List Byte)} (hk : w.kind = .text due id a got) :
    s.endWin l w v = ((s.modE (fun e => { e with marks := e.marks.erase (.range a 1023) })).putRaw w.dst v).modE
      (fun e => { e with wins := e.wins.del l }) := by
  simp only [State.endWin, hk]

theorem State.endWin_prefixOp (l : Nat) (v : Word) {due m k a : Nat} {h : BitVec 64} {hb recs : List Byte}
    (hk : w.kind = .prefixOp due m k a h (some (hb, recs))) :
    s.endWin l w v = ((s.prefixAct w m a h hb recs).2.putRaw w.dst (s.prefixAct w m a h hb recs).1).modE
      (fun e => { e with wins := e.wins.del l }) := by
  simp only [State.endWin, hk, Option.getD_some]

/-- A window of any other kind, the last branch of `State.endWin`, only writes its destination. -/
theorem State.endWin_plain (l : Nat) (v : Word) (hblock : ∀ due m k a h got, w.kind ≠ .prefixOp due m k a h got)
    (htext : ∀ due id a got, w.kind ≠ .text due id a got) :
    s.endWin l w v = (s.putRaw w.dst v).modE (fun e => { e with wins := e.wins.del l }) := by
  simp only [State.endWin]

end WindowSteps

/-! ## PHSH at its window's end (R411) -/

section PrefixSteps

variable (s : State) (w : Win) (a : Nat) (prev : BitVec 64) (hb recs : List Byte)

/-- H(b): the chain hash of a block after the one before it. -/
def chainHash : BitVec 64 := shake256_64 (leBytes 8 prev.toNat ++ hb)

/-- The state after PHSH has written H(b). -/
def State.hashed : State := (s.atWin w).softWrite a (leBytes 8 (chainHash prev hb).toNat)

theorem State.prefixAct_found {e : PrefixEntry} (he : (s.hashed w a prev hb).prefixMatch (chainHash prev hb) recs = some e) :
    s.prefixAct w 0 a prev hb recs = (1#32, ((((s.hashed w a prev hb).softWrite (a + 8) (leBytes 8 e.value.toNat)).holdPrefix
      (chainHash prev hb) recs).stage 10 (.addRef (chainHash prev hb) recs)).count 0x39) := by
  unfold State.hashed chainHash at *
  simp only [State.prefixAct, he]

theorem State.prefixAct_missed (he : (s.hashed w a prev hb).prefixMatch (chainHash prev hb) recs = none) :
    s.prefixAct w 0 a prev hb recs = (0#32, s.hashed w a prev hb) := by
  unfold State.hashed chainHash at *
  simp only [State.prefixAct, he]

end PrefixSteps

/-! ## When a result is there, and what it is -/

section Results

variable (s : State) {w : Win}

theorem Region.drained_iff (r : Region) (sg x y mask : Nat) : r.drained sg x y mask = true ↔
    ∀ i ∈ r.commit, i.sg = sg → i.x = x → i.y = y → mask.testBit i.sn = false := by
  simp [Region.drained]

theorem Elem.copyBusy_eq_false_iff (e : Elem) (c : Nat) : e.copyBusy c = false ↔ ∀ q ∈ e.copies, q.id = c → q.done = true := by
  simp [Elem.copyBusy]

theorem State.neighbourPassed_iff (side : Nat) : s.neighbourPassed side = true ↔
    ∃ q, s.rg.chained s.focus.sg side = some q ∧ (s.rg.sig q).passed = true := by
  unfold State.neighbourPassed
  split <;> simp_all

theorem State.winReady_link {side : Nat} (hk : w.kind = .link side) (hc : s.isCut side = false) :
    s.winReady w = true ↔ s.nowE.taken.get 0 side < (s.inWords side).length := by
  simp [State.winReady, hk, hc]

theorem State.winValue_link {side : Nat} {v : Word} {rest : List Word} (hk : w.kind = .link side) (hc : s.isCut side = false)
    (hq : s.nowE.inq.get [] side = v :: rest) : s.winValue w = (v,
      if s.nowE.rangePoison (regWord (64 + side)) 4 then (s.popIn side).consumed w.stamp w.sched 0 else s.popIn side) := by
  simp [State.winValue, hk, hc, hq]

theorem State.winValue_cut {side : Nat} (hk : w.kind = .link side) (hc : s.isCut side = true) : s.winValue w =
    (0#32, s.raise { s.fltHere 0x22 0 0 with stamp := w.stamp, sch := if w.sched then 1 else 0 }) := by
  simp [State.winValue, hk, hc]

end Results

end Sys2Proof.Machine

namespace Sys2Proof.Settled

open Sys2Proof Sys2Proof.Machine

/-- Settles O48: the three steps of a window branch on its kind and its latch; a condition is the model's own function for its class. -/
theorem windows : Obligations.Windows := by
  unfold Obligations.Windows
  refine ⟨?steps, ?prefixes, ?results⟩
  case steps =>
    intro s w l keep drop flt hw
    refine ⟨fun pa va ready seq after hk => windowedResultArrival_row s hw hk, fun due id a hk => windowedResultArrival_text s hw hk,
      fun due m k a h hk => windowedResultArrival_block s hw hk, fun hrow htext hblock => ?arrive, ?plain, ?text, ?block, ?fault, ?stay,
      freezeBoundExpiry_eq s hw⟩
    case arrive =>
      rw [windowedResultArrival_of_read s hw hrow htext hblock]
      refine ⟨fun hres hr hc => ?_, fun hres hr hc => ?_, fun hor => ?_⟩
      · simp [hres, hr, hc, go, keep, l]
      · simp [hres, hr, hc, go, l]
      · have hgo : (w.res.isSome || !(s.winReady w)) = true := by
          obtain h | h := hor
          · simp [Option.isSome_iff_ne_none.mpr h]
          · simp [h]
        simp [hgo, go]
    case plain => exact fun v hv hblock htext => by rw [windowClose_latched s hw hv, s.endWin_plain l v hblock htext]
    case text => exact fun v due id a got hv hk => by rw [windowClose_latched s hw hv, s.endWin_text l v hk]
    case block => exact fun v due m k a h hb recs hv hk => by rw [windowClose_latched s hw hv, s.endWin_prefixOp l v hk]
    case fault => exact fun hv hm => by rw [windowClose_empty s hw hv, if_pos hm]; rfl
    case stay => exact fun hv hm => by rw [windowClose_empty s hw hv, if_neg hm]; rfl
  case prefixes =>
    intro s w a prev hb recs
    exact ⟨fun e he => s.prefixAct_found w a prev hb recs he, s.prefixAct_missed w a prev hb recs, rfl, rfl⟩
  case results =>
    intro s w
    refine ⟨?result, ?token, ?wait, ?holds, ?link, ?cut, ?drain, ?barrier, ?copy, ?keystone, ?waited, ?plain, ?row, ?text, ?block⟩
    case result => exact fun due v hk => by simp [State.winReady, State.winValue, hk]
    case token => exact fun t c hk => by simp [State.winReady, State.winValue, hk]
    case wait => exact fun k n hk => by simp [State.winValue, hk]
    case holds => exact fun c n hk => by simp [State.winReady, hk]
    case link => exact fun side v rest hk hc hq => ⟨s.winReady_link hk hc, s.winValue_link hk hc hq⟩
    case cut => exact fun side hk hc => ⟨by simp [State.winReady, hk, hc], s.winValue_cut hk hc⟩
    case drain => exact fun m hk => by rw [← Region.drained_iff]; simp [State.winReady, hk]
    case barrier => exact fun b hk => by simp [State.winReady, State.barMet, hk]
    case copy => exact fun c hk => by rw [← Elem.copyBusy_eq_false_iff]; simp [State.winReady, hk]
    case keystone => exact fun side hk => by rw [← State.neighbourPassed_iff]; simp [State.winReady, hk]
    case waited => exact fun c hk => by simp [State.winValue, hk, Elem.awaited]
    case plain =>
      rintro c (hk | hk | hk) <;> simp [State.winValue, hk]
    case row => exact fun pa va ready seq after got hk => by simp [State.winReady, State.winValue, hk, Option.isSome_iff_ne_none]
    case text => exact fun due id a x hk => by simp [State.winReady, State.winValue, hk, State.softWrite]
    case block => exact fun due m k a h got hk => by simp [State.winReady, State.winValue, hk, Option.isSome_iff_ne_none]

end Sys2Proof.Settled
end

section
/-! PROOFS. O46: the period's end of a span, its switches and freezes, and words that pass through. -/

namespace Sys2Proof.Machine

open Sys2Proof Sys2Proof.Safety

/-! ## Spans and elements of a fabric after a change to one -/

section FabricChanges

variable (f : Fabric)

theorem Fabric.span_modSpan (sg n m : Nat) (g : Span → Span) :
    (f.modSpan sg n g).span sg m = if n = m then g (f.span sg n) else f.span sg m := by
  simp [Fabric.modSpan, Fabric.span, Tbl.get_set]

@[simp] theorem Fabric.span_modSpan_self (sg n : Nat) (g : Span → Span) : (f.modSpan sg n g).span sg n = g (f.span sg n) := by
  simp [Fabric.span_modSpan]

@[simp] theorem Fabric.elem_modSpan (sg n a x y : Nat) (g : Span → Span) : (f.modSpan sg n g).elem a x y = f.elem a x y := rfl

@[simp] theorem Fabric.elem_modElem_self (sg x y : Nat) (g : Elem → Elem) : (f.modElem sg x y g).elem sg x y = g (f.elem sg x y) := by
  simp [Fabric.modElem, Fabric.elem]

theorem Fabric.elem_modElem_of_ne {sg x y x' y' : Nat} (g : Elem → Elem) (h : elemKey sg x y ≠ elemKey sg x' y') :
    (f.modElem sg x y g).elem sg x' y' = f.elem sg x' y' := by
  simp [Fabric.modElem, Fabric.elem, Tbl.get_set_of_ne _ _ _ h]

end FabricChanges

/-! ## The elements of a span -/

/-- Coordinates of a page's grid have keys of their own. -/
theorem elemKey_ne {sg x y : Nat} {c : Nat × Nat} (hc : c.1 < 32) (hx : x < 32) (h : (x, y) ≠ c) :
    elemKey sg c.1 c.2 ≠ elemKey sg x y := by
  obtain ⟨a, b⟩ := c
  simp only [ne_eq, Prod.mk.injEq, elemKey] at *
  omega

/-- Changes to elements of a list change no element that it does not name. -/
theorem Fabric.elem_foldl_modElem_of_notMem {sg : Nat} (g : Elem → Elem) {x y : Nat} (hx : x < 32) (l : List (Nat × Nat))
    (hl : ∀ c ∈ l, c.1 < 32) (f : Fabric) (h : (x, y) ∉ l) :
    (l.foldl (fun f c => f.modElem sg c.1 c.2 g) f).elem sg x y = f.elem sg x y := by
  induction l generalizing f with
  | nil => rfl
  | cons c l ih =>
    rw [List.mem_cons, not_or] at h
    rw [List.foldl_cons, ih (fun d hd => hl d (List.mem_cons_of_mem _ hd)) _ h.2,
      f.elem_modElem_of_ne g (elemKey_ne (hl c List.mem_cons_self) hx h.1)]

/-- One change made to each element of a list that names none twice. -/
theorem Fabric.elem_foldl_modElem {sg : Nat} (g : Elem → Elem) {x y : Nat} (hx : x < 32) (l : List (Nat × Nat)) (hn : l.Nodup)
    (hl : ∀ c ∈ l, c.1 < 32) (f : Fabric) (h : (x, y) ∈ l) :
    (l.foldl (fun f c => f.modElem sg c.1 c.2 g) f).elem sg x y = g (f.elem sg x y) := by
  induction l generalizing f with
  | nil => cases h
  | cons c l ih =>
    rw [List.nodup_cons] at hn
    have hl' : ∀ d ∈ l, d.1 < 32 := fun d hd => hl d (List.mem_cons_of_mem _ hd)
    rw [List.foldl_cons]
    by_cases hc : (x, y) = c
    · subst hc
      rw [Fabric.elem_foldl_modElem_of_notMem g hx l hl' _ hn.1, Fabric.elem_modElem_self]
    · rw [ih hn.2 hl' _ ((List.mem_cons.mp h).resolve_left hc),
        f.elem_modElem_of_ne g (elemKey_ne (hl c List.mem_cons_self) hx hc)]

theorem Fabric.span_foldl_modElem {sg a n : Nat} (g : Elem → Elem) (l : List (Nat × Nat)) (f : Fabric) :
    (l.foldl (fun f c => f.modElem a c.1 c.2 g) f).span sg n = f.span sg n := by
  induction l generalizing f with
  | nil => rfl
  | cons c l ih => exact ih _

namespace SpanDecl

variable (d : SpanDecl)

theorem mem_coords {x y : Nat} : (x, y) ∈ d.coords ↔ (d.x0 ≤ x ∧ x ≤ d.x1) ∧ d.y0 ≤ y ∧ y ≤ d.y1 := by
  simp only [coords, List.mem_flatMap, List.mem_map, List.mem_range, Prod.mk.injEq]
  constructor
  · rintro ⟨j, hj, i, hi, rfl, rfl⟩; omega
  · exact fun h => ⟨y - d.y0, by omega, x - d.x0, by omega, by omega, by omega⟩

theorem nodup_coords : d.coords.Nodup := by
  rw [coords, List.nodup_flatMap]
  refine ⟨fun j _ => List.nodup_range.map (fun a b h => by simpa using h), List.nodup_range.imp (fun {a b} hab => ?_)⟩
  rw [Function.onFun, List.disjoint_left]
  rintro p hp hq
  simp only [List.mem_map, List.mem_range] at hp hq
  obtain ⟨i, -, rfl⟩ := hp
  obtain ⟨j, -, hj⟩ := hq
  simp only [Prod.mk.injEq] at hj
  omega

end SpanDecl

/-! ## The wrap (R103) -/

theorem spanAfterWrap_idle (d : SpanDecl) {p : Span} (h : p.haltAtWrap = true ∨ p.keyed = true) : (spanAfterWrap d p).run = .idle := by
  simp [spanAfterWrap, h]

/-- The fields of a span that a wrap sets whichever way it goes on. -/
theorem spanAfterWrap_fields (d : SpanDecl) (p : Span) :
    (spanAfterWrap d p).counter = 0 ∧ (spanAfterWrap d p).periods = p.periods + 1 ∧ (spanAfterWrap d p).choice = none ∧
    (spanAfterWrap d p).endp = false ∧ (spanAfterWrap d p).haltAtWrap = false ∧ (spanAfterWrap d p).sched = p.choice.getD p.sched := by
  simp only [spanAfterWrap]
  split_ifs with _ _ hs <;> simp_all

/-- Where ENDP or the declared round length ends the round. -/
theorem spanAfterWrap_waiting (d : SpanDecl) {p : Span} (hh : p.haltAtWrap = false) (hk : p.keyed = false)
    (h : p.endp = true ∨ (p.periods + 1 - p.pstart) % d.roundLen = 0) :
    (spanAfterWrap d p).run = .waiting (p.choice.getD p.sched != p.sched) := by
  simp [spanAfterWrap, hh, hk, h]

theorem spanAfterWrap_goes (d : SpanDecl) {p : Span} (hh : p.haltAtWrap = false) (hk : p.keyed = false) (he : p.endp = false)
    (h : (p.periods + 1 - p.pstart) % d.roundLen ≠ 0) :
    (spanAfterWrap d p).run = if p.choice.getD p.sched = p.sched then p.run else .switching 2 := by
  by_cases hs : p.choice.getD p.sched = p.sched <;> simp [spanAfterWrap, hh, hk, he, h, hs]

/-- A wrap changes the rotation base and the counters of a CE and nothing else of it. -/
theorem Elem.wrap_fields (e : Elem) : e.wrap.rot = e.rot + 1#5 ∧ e.wrap = { e with rot := e.wrap.rot, c := e.wrap.c } ∧
    e.wrap.c = stepCounters (fun _ k => k.mode == 1#2) e.c := by
  simp only [Elem.wrap, and_self]

/-- The fabric after a wrap of span `d` of a signature: its CEs wrapped, then the span. -/
def Fabric.wrapped (f : Fabric) (sg : Nat) (d : SpanDecl) : Fabric :=
  ((d.coords.filter (fun c => kindAt c.1 c.2 == .ce)).foldl (fun g c => g.modElem sg c.1 c.2 Elem.wrap) f).modSpan sg d.n (spanAfterWrap d)

theorem spanWrap_eq (s : State) : exec .spanWrap s = .next (s.modNow (fun f => f.wrapped s.focus.sg s.spanDecl)) := rfl

theorem Fabric.wrapped_span (f : Fabric) (sg : Nat) (d : SpanDecl) :
    (f.wrapped sg d).span sg d.n = spanAfterWrap d (f.span sg d.n) := by
  rw [Fabric.wrapped, Fabric.span_modSpan_self, Fabric.span_foldl_modElem]

theorem Fabric.wrapped_elem (f : Fabric) (sg : Nat) (d : SpanDecl) (hd : d.x1 < 32) {x y : Nat} (hxy : (x, y) ∈ d.coords)
    (hce : (x + y) % 2 = 0) : (f.wrapped sg d).elem sg x y = (f.elem sg x y).wrap := by
  rw [Fabric.wrapped, Fabric.elem_modSpan]
  have hlt : ∀ c ∈ d.coords, c.1 < 32 := fun c hc => by
    obtain ⟨⟨-, h⟩, -⟩ := d.mem_coords.mp hc
    omega
  exact Fabric.elem_foldl_modElem Elem.wrap (hlt _ hxy) _ (d.nodup_coords.filter _) (fun c hc => hlt c (List.mem_of_mem_filter hc)) f
    (List.mem_filter.mpr ⟨hxy, by simp [kindAt, hce]⟩)

end Sys2Proof.Machine

namespace Sys2Proof.Settled

open Sys2Proof Sys2Proof.Machine Sys2Proof.Safety

/-- Settles O46: a wrap changes each CE of the span once, since a span's coordinates differ, and then the span by the cases of
`spanAfterWrap`. -/
theorem spanSteps : Obligations.SpanSteps := by
  unfold Obligations.SpanSteps
  intro s hb d p n
  refine ⟨fun hx hy => ⟨_, spanWrap_eq s, State.modNow_only hb _, ?wrap⟩, ⟨_, rfl, State.modNow_only hb _, State.modNow_now hb _⟩,
    ⟨_, rfl, State.modNow_only hb _, State.modNow_now hb _⟩, ?pass, ?full⟩
  case wrap =>
    have hq : (s.modNow (fun f => f.wrapped s.focus.sg d)).rg.now.span s.focus.sg d.n = spanAfterWrap d p := by
      rw [State.modNow_now hb, Fabric.wrapped_span]
    intro q
    obtain ⟨hcounter, hperiods, hchoice, hendp, hhalt, hsched⟩ := spanAfterWrap_fields d p
    rw [show q = spanAfterWrap d p from hq, hsched]
    refine ⟨hcounter, hperiods, hchoice, hendp, hhalt, rfl, spanAfterWrap_idle d, fun hh hk => ⟨spanAfterWrap_waiting d hh hk,
      spanAfterWrap_goes d hh hk⟩, fun x y hx0 hx1 hy0 hy1 hce => ?_⟩
    have hw : elemNow (s.modNow (fun f => f.wrapped s.focus.sg d)) x y = (elemNow s x y).wrap := by
      unfold elemNow
      rw [State.modNow_now hb]
      exact Fabric.wrapped_elem _ _ d hx (d.mem_coords.mpr ⟨⟨hx0, hx1⟩, hy0, hy1⟩) hce
    rw [hw]
    exact (elemNow s x y).wrap_fields
  case pass =>
    intro h
    change Host.Outcome.next (s.under s.passChk _) = _
    rw [h]
    rfl
  case full =>
    intro h
    change Host.Outcome.next (s.under s.passChk _) = _
    rw [h]
    rfl

end Sys2Proof.Settled
end

section
/-! PROOFS. O47: arrivals of tokens, handler tokens, keystones and barrier counts. -/

namespace Sys2Proof.Safety

open Sys2Proof Sys2Proof.Machine

variable {s t u : State}

theorem OnlyFabric.refl : OnlyFabric s s := ⟨⟨rfl, fun _ _ => rfl⟩, rfl⟩

theorem OnlyFabric.trans (h : OnlyFabric s t) (k : OnlyFabric t u) : OnlyFabric s u := by
  obtain ⟨⟨hst, hr⟩, hrg⟩ := h
  obtain ⟨⟨htu, kr⟩, krg⟩ := k
  have hf : t.focus = s.focus := by rw [hst]
  refine ⟨⟨?_, fun r hne => (kr r (by rwa [hf])).trans (hr r hne)⟩, ?_⟩
  · unfold OnlyRegions at *
    rw [htu, hst]
  · rw [krg, hrg]

end Sys2Proof.Safety

namespace Sys2Proof.Machine

open Sys2Proof Sys2Proof.Safety

/-! ## Changes to the region in focus, one after another -/

section Composed

theorem Tbl.modify_modify {α : Type} (t : Tbl α) (k : Nat) (f g : α → α) : (t.modify k f).modify k g = t.modify k (fun a => g (f a)) := by
  induction t with
  | nil => rfl
  | cons p t ih => obtain ⟨a, b⟩ := p; by_cases h : a = k <;> simp [Tbl.modify, h, ih]

theorem Tbl.modify_id {α : Type} (t : Tbl α) (k : Nat) : t.modify k (fun a => a) = t := by
  induction t with
  | nil => rfl
  | cons p t ih => obtain ⟨a, b⟩ := p; by_cases h : a = k <;> simp [Tbl.modify, h, ih]

variable (s : State)

theorem State.modR_modR (f g : Region → Region) : (s.modR f).modR g = s.modR (fun r => g (f r)) := by
  simp only [State.modR, State.modReg, Tbl.modify_modify]

theorem State.modR_id : s.modR (fun r => r) = s := by
  simp only [State.modR, State.modReg, Tbl.modify_id]

theorem State.modNow_bound {s : State} (f : Fabric → Fabric) : Bound (s.modNow f) ↔ Bound s := State.modR_bound _

@[simp] theorem State.modNow_sig (f : Fabric → Fabric) : (s.modNow f).sig = s.sig := by
  unfold State.sig State.rg State.modNow State.modR
  rw [State.modReg_focus, State.reg_modReg]
  split <;> rfl

end Composed

/-! ## Tokens that elements receive (R115) -/

section Tokens

/-- The pending count of a token id in element (x, y) of signature sg. -/
def State.pending (s : State) (sg x y id : Nat) : Nat := (s.rg.now.elem sg x y).tok.get 0 id

/-- What an arriving token of an id does to one element that receives it. -/
def State.tokenAt (sg id : Nat) (s : State) (d : ElemDecl) : State :=
  if s.pending sg d.x d.y id ≥ 15 then s.raisePage 0x61 id
  else s.modEAt sg d.x d.y (fun e => { e with tok := e.tok.set id (s.pending sg d.x d.y id + 1) })

theorem tokenArrival_eq (s : State) :
    exec .tokenArrival s = .next ((s.receivers s.focus.n).foldl (State.tokenAt s.focus.sg s.focus.n) s.takeTok) := rfl

theorem State.tokenAt_focus (sg id : Nat) (s : State) (d : ElemDecl) : (s.tokenAt sg id d).focus = s.focus := by
  unfold State.tokenAt; split <;> rfl

/-- The pending count of an element, read in any state with the same signature in focus. -/
theorem elemNow_tok {s t : State} (h : t.focus = s.focus) (x y id : Nat) : (elemNow t x y).tok.get 0 id = t.pending s.focus.sg x y id := by
  rw [← h]; rfl

variable {s : State} (hb : Bound s) {sg id : Nat}
include hb

theorem State.tokenAt_bound (d : ElemDecl) : Bound (s.tokenAt sg id d) := by
  unfold State.tokenAt State.raisePage State.raise State.modEAt State.modNow
  split <;> exact (State.modR_bound _).mpr hb

/-- The element's count after it: one more, up to 15. -/
theorem State.tokenAt_pending (d : ElemDecl) : (s.tokenAt sg id d).pending sg d.x d.y id =
    if s.pending sg d.x d.y id < 15 then s.pending sg d.x d.y id + 1 else s.pending sg d.x d.y id := by
  by_cases h : s.pending sg d.x d.y id < 15
  · rw [if_pos h, State.tokenAt, if_neg (by omega)]
    simp [State.pending, State.modEAt, State.modNow_now hb, Fabric.modElem, Fabric.elem]
  · rw [if_neg h, State.tokenAt, if_pos (by omega)]
    simp [State.pending, State.raisePage, State.raise, State.modR_rg hb]

theorem State.tokenAt_pending_of_ne {d : ElemDecl} {x y : Nat} (h : elemKey sg d.x d.y ≠ elemKey sg x y) :
    (s.tokenAt sg id d).pending sg x y id = s.pending sg x y id := by
  unfold State.tokenAt
  split
  · simp [State.pending, State.raisePage, State.raise, State.modR_rg hb]
  · simp [State.pending, State.modEAt, State.modNow_now hb, Fabric.modElem, Fabric.elem, Tbl.get_set_of_ne _ _ _ h]

theorem State.tokenAt_counted {d : ElemDecl} (h : s.pending sg d.x d.y id < 15) :
    (s.tokenAt sg id d).rg.raised = s.rg.raised := by
  rw [State.tokenAt, if_neg (by omega), State.modEAt, State.modNow, State.modR_rg hb]

theorem State.tokenAt_dropped {d : ElemDecl} (h : 15 ≤ s.pending sg d.x d.y id) :
    ∃ e, (s.tokenAt sg id d).rg.raised = s.rg.raised ++ [e] ∧ e.code = 0x61 ∧ e.addr = id := by
  rw [State.tokenAt, if_pos h, State.raisePage, State.raise, State.modR_rg hb]
  exact ⟨_, rfl, rfl, rfl⟩

theorem State.foldl_tokenAt_pending_of_ne {x y : Nat} (l : List ElemDecl) (h : ∀ d ∈ l, elemKey sg d.x d.y ≠ elemKey sg x y) :
    (l.foldl (State.tokenAt sg id) s).pending sg x y id = s.pending sg x y id := by
  induction l generalizing s with
  | nil => rfl
  | cons d l ih =>
    rw [List.foldl_cons, ih (State.tokenAt_bound hb d) (fun c hc => h c (List.mem_cons_of_mem _ hc)),
      State.tokenAt_pending_of_ne hb (h d List.mem_cons_self)]

/-- Each element of a list that names none twice counts the token once. -/
theorem State.foldl_tokenAt_pending (l : List ElemDecl) (hn : (l.map (fun d => elemKey sg d.x d.y)).Nodup) {d : ElemDecl} (hd : d ∈ l) :
    (l.foldl (State.tokenAt sg id) s).pending sg d.x d.y id =
      if s.pending sg d.x d.y id < 15 then s.pending sg d.x d.y id + 1 else s.pending sg d.x d.y id := by
  induction l generalizing s with
  | nil => cases hd
  | cons c l ih =>
    rw [List.map_cons, List.nodup_cons] at hn
    have hne : ∀ e ∈ l, elemKey sg c.x c.y ≠ elemKey sg e.x e.y := fun e he hk => hn.1 (List.mem_map.mpr ⟨e, he, hk.symm⟩)
    rw [List.foldl_cons]
    obtain rfl | hm := List.mem_cons.mp hd
    · rw [State.foldl_tokenAt_pending_of_ne (State.tokenAt_bound hb d) l (fun e he => (hne e he).symm), State.tokenAt_pending hb]
    · rw [ih (State.tokenAt_bound hb c) hn.2 hm, State.tokenAt_pending_of_ne hb (hne d hm)]

/-- One fault for each element whose count is full. -/
theorem State.foldl_tokenAt_raised (l : List ElemDecl) (hn : (l.map (fun d => elemKey sg d.x d.y)).Nodup) :
    ∃ es, (l.foldl (State.tokenAt sg id) s).rg.raised = s.rg.raised ++ es ∧ (∀ e ∈ es, e.code = 0x61 ∧ e.addr = id) ∧
      es.length = (l.filter (fun d => decide (15 ≤ s.pending sg d.x d.y id))).length := by
  induction l generalizing s with
  | nil => exact ⟨[], by simp, by simp, rfl⟩
  | cons c l ih =>
    rw [List.map_cons, List.nodup_cons] at hn
    obtain ⟨es, hes, hcode, hlen⟩ := ih (State.tokenAt_bound hb c) hn.2
    -- the counts of the rest stand as they did before element c
    have hrest : l.filter (fun d => decide (15 ≤ (s.tokenAt sg id c).pending sg d.x d.y id)) =
        l.filter (fun d => decide (15 ≤ s.pending sg d.x d.y id)) :=
      List.filter_congr (fun d hd => by
        rw [State.tokenAt_pending_of_ne hb (fun hk => hn.1 (List.mem_map.mpr ⟨d, hd, hk.symm⟩))])
    rw [hrest] at hlen
    rw [List.foldl_cons]
    by_cases h : s.pending sg c.x c.y id < 15
    · refine ⟨es, by rw [hes, State.tokenAt_counted hb h], hcode, ?_⟩
      rw [hlen, List.filter_cons_of_neg (by simpa using h)]
    · obtain ⟨e, he, hc, ha⟩ := State.tokenAt_dropped hb (Nat.le_of_not_lt h)
      refine ⟨e :: es, by rw [hes, he, List.append_assoc]; rfl, fun a ham => ?_, ?_⟩
      · obtain rfl | ham := List.mem_cons.mp ham
        · exact ⟨hc, ha⟩
        · exact hcode a ham
      · rw [List.length_cons, hlen, List.filter_cons_of_pos (by simpa using h), List.length_cons]

end Tokens

/-! ## Handler tokens (R116, R117) -/

/-- Nothing differs but the spans of the region in focus and its event counts. -/
def SpansOnly (s t : State) : Prop := OnlyFabric s t ∧ t.rg.now = { s.rg.now with spans := t.rg.now.spans } ∧ Bound t

section SpansOnly

variable {s t u : State}

theorem SpansOnly.refl (hb : Bound s) : SpansOnly s s := ⟨.refl, rfl, hb⟩

theorem SpansOnly.trans (h : SpansOnly s t) (k : SpansOnly t u) : SpansOnly s u :=
  ⟨h.1.trans k.1, by rw [k.2.1, h.2.1], k.2.2⟩

theorem SpansOnly.focus (h : SpansOnly s t) : t.focus = s.focus := by rw [h.1.1.1]

theorem SpansOnly.cycle (h : SpansOnly s t) : t.cycle = s.cycle := by rw [h.1.1.1]

theorem SpansOnly.sig (h : SpansOnly s t) : t.sig = s.sig := by
  unfold State.sig
  rw [h.1.2, h.focus]
  rfl

theorem SpansOnly.handlers (h : SpansOnly s t) : t.rg.now.handlers = s.rg.now.handlers := by rw [h.2.1]

theorem SpansOnly.raised (h : SpansOnly s t) : t.rg.raised = s.rg.raised := by rw [h.1.2]

theorem SpansOnly.foldl {α : Type} {g : State → α → State} (hg : ∀ t a, Bound t → SpansOnly t (g t a)) (hb : Bound s) (l : List α) :
    SpansOnly s (l.foldl g s) := by
  induction l generalizing s with
  | nil => exact .refl hb
  | cons a l ih => exact (hg s a hb).trans (ih (hg s a hb).2.2)

theorem State.modNow_modSpan_only (hb : Bound s) (sg n : Nat) (g : Span → Span) : SpansOnly s (s.modNow (fun f => f.modSpan sg n g)) :=
  ⟨State.modNow_only hb _, by rw [State.modNow_now hb]; rfl, (State.modNow_bound _).mpr hb⟩

end SpansOnly

/-- A handler word acts on a span once, however often it is named in one action. -/
theorem handlerAct_idem (c : Nat) (w : Word) (p : Span) : handlerAct c w (handlerAct c w p) = handlerAct c w p := by
  unfold handlerAct
  generalize bitsOf w 24 23 = op
  match op with
  | 0 => cases hr : p.run <;> simp [hr]
  | 1 => by_cases h : p.swsAt = some c <;> simp [h]
  | 2 => rfl
  | _ + 3 => rfl

/-- A fold of changes to spans: a span that the list names is changed, a change that does nothing the second time; any other stays. -/
theorem Fabric.span_foldl_modSpan {sg m : Nat} {g : Span → Span} (hg : ∀ p, g (g p) = g p) (l : List Nat) (f : Fabric) :
    (l.foldl (fun f n => f.modSpan sg n g) f).span sg m = if m ∈ l then g (f.span sg m) else f.span sg m := by
  induction l generalizing f with
  | nil => simp
  | cons n l ih =>
    rw [List.foldl_cons, ih, Fabric.span_modSpan]
    by_cases hn : n = m
    · subst hn; simp [hg]
    · simp [hn, Ne.symm hn]

section Handlers

variable {s : State} (hb : Bound s)
include hb

theorem State.actHandler_only (w : Word) : SpansOnly s (s.actHandler w) :=
  SpansOnly.foldl (fun _ _ h => State.modNow_modSpan_only h _ _ _) hb _

theorem State.foldl_modNow_now {α : Type} (g : α → Fabric → Fabric) (l : List α) :
    (l.foldl (fun t a => t.modNow (g a)) s).rg.now = l.foldl (fun f a => g a f) s.rg.now := by
  induction l generalizing s with
  | nil => rfl
  | cons a l ih => rw [List.foldl_cons, ih ((State.modNow_bound _).mpr hb), State.modNow_now hb]; rfl

theorem State.actHandler_span (w : Word) (n : Nat) : (s.actHandler w).rg.now.span s.focus.sg n =
    if n ∈ s.handlerSpans w then handlerAct s.cycle w (s.rg.now.span s.focus.sg n) else s.rg.now.span s.focus.sg n := by
  rw [State.actHandler, State.foldl_modNow_now hb]
  exact Fabric.span_foldl_modSpan (handlerAct_idem _ _) _ _

theorem State.entryActs_only (act : List Tok) (e : Nat) : SpansOnly s (s.entryActs act e) := by
  unfold State.entryActs
  extract_lets w
  split
  · exact SpansOnly.foldl (fun t _ h => State.actHandler_only h w) hb _
  · exact .refl hb

theorem State.foldl_entryActs_only (act : List Tok) (l : List Nat) : SpansOnly s (l.foldl (fun u e => u.entryActs act e) s) :=
  SpansOnly.foldl (fun _ _ h => State.entryActs_only h act _) hb l

/-- A handler word that acts once for each of a list of tokens, on a span of the signature. -/
theorem State.foldl_actHandler_span {α : Type} (w : Word) {n : Nat} (hn : n ∈ s.sig.decl.spans.map (·.n)) (l : List α) :
    (l.foldl (fun t _ => t.actHandler w) s).rg.now.span s.focus.sg n =
      if bitAt w n then l.foldl (fun p _ => handlerAct s.cycle w p) (s.rg.now.span s.focus.sg n) else s.rg.now.span s.focus.sg n := by
  induction l generalizing s with
  | nil => simp
  | cons a l ih =>
    have ho := State.actHandler_only hb w
    have hi := ih ho.2.2 (by rwa [ho.sig])
    rw [ho.focus, ho.cycle, State.actHandler_span hb] at hi
    rw [List.foldl_cons, hi, List.foldl_cons]
    by_cases hw : bitAt w n <;> simp [State.handlerSpans, List.mem_filter, hw, hn]

end Handlers

/-- What entry e of a handler table does to span n of signature sg, for the tokens that arrive. -/
def spanActs (cycle sg : Nat) (h : Tbl Word) (act : List Tok) (n : Nat) (p : Span) (e : Nat) : Span :=
  let w := h.get 0#32 (sg * 16 + e)
  if bitAt w 31 ∧ bitsOf w 24 23 ≠ 3 ∧ bitAt w n then
    (act.filter (fun k => k.id == bitsOf w 30 25)).foldl (fun p _ => handlerAct cycle w p) p
  else p

/-- The word of entry e of a handler table, where it acts on token id. -/
def entryFor (h : Tbl Word) (sg id e : Nat) : Option Word :=
  let w := h.get 0#32 (sg * 16 + e)
  if bitAt w 31 && bitsOf w 30 25 == id && bitsOf w 24 23 != 3 then some w else none

section Entries

variable {s : State} (hb : Bound s)
include hb

theorem State.entryActs_span (act : List Tok) {n : Nat} (hn : n ∈ s.sig.decl.spans.map (·.n)) (e : Nat) :
    (s.entryActs act e).rg.now.span s.focus.sg n =
      spanActs s.cycle s.focus.sg s.rg.now.handlers act n (s.rg.now.span s.focus.sg n) e := by
  unfold State.entryActs spanActs
  extract_lets w
  by_cases hv : bitAt w 31 = true ∧ bitsOf w 24 23 ≠ 3
  · rw [if_pos (by simpa using hv), State.foldl_actHandler_span hb w hn]
    simp only [hv.1, hv.2, ne_eq, not_false_eq_true, true_and]
  · rw [if_neg (by simpa using hv), if_neg (fun h => hv ⟨h.1, h.2.1⟩)]

/-- The entries of the table act one after another on each span of the signature. -/
theorem State.foldl_entryActs_span (act : List Tok) {n : Nat} (hn : n ∈ s.sig.decl.spans.map (·.n)) (l : List Nat) :
    (l.foldl (fun u e => u.entryActs act e) s).rg.now.span s.focus.sg n =
      l.foldl (spanActs s.cycle s.focus.sg s.rg.now.handlers act n) (s.rg.now.span s.focus.sg n) := by
  induction l generalizing s with
  | nil => rfl
  | cons e l ih =>
    have ho := State.entryActs_only hb act e
    have hi := ih ho.2.2 (by rwa [ho.sig])
    rw [ho.focus, ho.cycle, ho.handlers, State.entryActs_span hb act hn] at hi
    exact hi

omit hb in
theorem State.entryActs_single (k : Tok) (e : Nat) : s.entryActs [k] e =
    ((entryFor s.rg.now.handlers s.focus.sg k.id e).map s.actHandler).getD s := by
  unfold State.entryActs entryFor
  extract_lets w
  by_cases hv : bitAt w 31 = true ∧ bitsOf w 24 23 ≠ 3
  · by_cases hk : k.id = bitsOf w 30 25
    · simp [hv, hk]
    · simp [hv, hk, Ne.symm hk]
  · rw [if_neg (by simpa using hv), if_neg (fun h => hv (by simp_all))]
    rfl

/-- For one token, the entries that name it act, in ascending index. -/
theorem State.foldl_entryActs_single (k : Tok) (l : List Nat) : l.foldl (fun u e => u.entryActs [k] e) s =
    (l.filterMap (entryFor s.rg.now.handlers s.focus.sg k.id)).foldl State.actHandler s := by
  induction l generalizing s with
  | nil => rfl
  | cons e l ih =>
    have ho := State.entryActs_only hb [k] e
    rw [List.foldl_cons, ih ho.2.2, ho.focus, ho.handlers, State.entryActs_single]
    cases he : entryFor s.rg.now.handlers s.focus.sg k.id e <;> simp [he]

end Entries

theorem State.raisePage_eq (s : State) (code addr : Nat) : ∃ e : Flt, s.raisePage code addr =
    s.modR (fun r => { r with raised := r.raised ++ [e] }) ∧ e.code = code ∧ e.addr = addr := ⟨_, rfl, rfl, rfl⟩

/-- The faults of a list of tokens that no entry names. -/
theorem State.foldl_raisePage (ks : List Tok) (s : State) : ∃ es, ks.foldl (fun (u : State) k => u.raisePage 0x60 k.id) s =
    s.modR (fun r => { r with raised := r.raised ++ es }) ∧ (∀ e ∈ es, e.code = 0x60) ∧ es.map (·.addr) = ks.map (·.id) := by
  induction ks generalizing s with
  | nil => exact ⟨[], by simp [State.modR_id], by simp, rfl⟩
  | cons k ks ih =>
    obtain ⟨e, he, hc, ha⟩ := s.raisePage_eq 0x60 k.id
    obtain ⟨es, hes, hcode, haddr⟩ := ih (s.raisePage 0x60 k.id)
    refine ⟨e :: es, ?_, List.forall_mem_cons.mpr ⟨hc, hcode⟩, by rw [List.map_cons, haddr, List.map_cons, ha]⟩
    rw [List.foldl_cons, hes, he, State.modR_modR]
    simp only [List.append_assoc, List.singleton_append]

section Arrival

variable (s : State)

/-- The handler tokens that are due in the signature in focus and act: those whose entries no write holds back. -/
def State.actingToks : List Tok := (s.rg.now.toks.filter s.handlerDue).filter (fun k => s.rewriting k.id == [])

/-- The fabric once its due handler tokens are taken: they act, wait for a write, or are parked. -/
def State.sortToks (f : Fabric) : Fabric := { f with
  toks := f.toks.filter (fun k => !(s.handlerDue k))
  heldToks := f.heldToks ++ ((s.rg.now.toks.filter s.handlerDue).filter (fun k => s.rewriting k.id != [])).map (fun k => (k, s.rewriting k.id))
  parked := f.parked ++ (s.actingToks.filter (fun k => s.handlersOf k.id == [])).map (fun k => (k.sg, k.id)) }

theorem handlerTokenArrival_eq : exec .handlerTokenArrival s = .next ((List.range 16).foldl (fun u e => u.entryActs s.actingToks e)
    ((s.actingToks.filter (fun k => s.handlersOf k.id == [])).foldl (fun (u : State) k => u.raisePage 0x60 k.id) (s.modNow s.sortToks))) := rfl

theorem actingToks_single {k : Tok} (hk : s.rg.now.toks = [k]) (hd : s.handlerDue k = true) (hr : s.rewriting k.id = []) :
    s.actingToks = [k] := by
  simp [State.actingToks, hk, hd, hr]

end Arrival

/-! ## Handler writes and keystones (R336, R118) -/

section Writes

variable (s : State)

theorem handlerWriteEffect_single {s : State} (hb : Bound s) {w : HWrite} (hw : s.rg.now.hwrites = [w]) (hsg : w.sg = s.focus.sg)
    (he : w.e = s.focus.n) (hd : w.due ≤ s.cycle) (hh : s.rg.now.heldToks = []) : ∃ t, exec .handlerWriteEffect s = .next t ∧
    OnlyFabric s t ∧ t.rg.now = { s.rg.now with handlers := s.rg.now.handlers.set (w.sg * 16 + w.e) w.word, hwrites := [] } := by
  refine ⟨_, rfl, (State.modNow_only hb _).trans (State.modNow_only ((State.modNow_bound _).mpr hb) _), ?_⟩
  rw [State.modNow_now ((State.modNow_bound _).mpr hb), State.modNow_now hb]
  simp [hw, hsg, he, hd, hh, sortBy, insertBy]

/-- The fabric after a keystone has reached the spans of a signature. -/
def Fabric.keystone (f : Fabric) (sg : Nat) (l : List SpanDecl) : Fabric :=
  l.foldl (fun f d => f.modSpan sg d.n (fun p => { p with keyed := true })) f

theorem keystoneArrival_eq : exec .keystoneArrival s = .next (s.modNow (fun f => f.keystone s.focus.sg s.sig.decl.spans)) := rfl

theorem Fabric.keystone_spans (sg : Nat) (l : List SpanDecl) (f : Fabric) : f.keystone sg l = { f with spans := (f.keystone sg l).spans } := by
  induction l generalizing f with
  | nil => rfl
  | cons d l ih => exact ih _

theorem Fabric.keystone_keyed (sg : Nat) (l : List SpanDecl) (f : Fabric) {n : Nat} (h : n ∈ l.map (·.n) ∨ (f.span sg n).keyed = true) :
    ((f.keystone sg l).span sg n).keyed = true := by
  induction l generalizing f with
  | nil => simpa [Fabric.keystone] using h
  | cons d l ih =>
    refine ih _ ?_
    rw [Fabric.span_modSpan]
    by_cases hd : d.n = n
    · simp [hd]
    · simpa [hd, Ne.symm hd] using h

end Writes

/-! ## Barriers (R366) -/

section Barriers

/-- A barrier with the arrivals that are due by a cycle counted. -/
def Barrier.counted (b : Barrier) (c : Nat) : Barrier := { b with
  coming := b.coming.filter (fun q => !(decide (q.2 ≤ c)))
  arrived := (b.coming.filter (fun q => q.2 ≤ c)).foldl (fun (t : Tbl Nat) (q : Nat × Nat) => t.set q.1 (t.get 0 q.1 + 1)) b.arrived }

/-- The phase that is done once `d` is: the next one, where its `n` arrivals have come. -/
def Barrier.next (b : Barrier) (n d : Nat) : Nat := if 0 < b.arrived.get 0 (d + 1) ∧ n ≤ b.arrived.get 0 (d + 1) then d + 1 else d

/-- A barrier of `n` participants after its arrivals of a cycle. -/
def Barrier.arrive (b : Barrier) (c n : Nat) : Barrier :=
  { b.counted c with done := (b.counted c).next n ((b.counted c).next n b.done) }

theorem barrierArrival_eq (s : State) : exec .barrierArrival s =
    .next (s.modNow (fun f => f.modBar s.focus.n (fun b => b.arrive s.cycle (s.rg.barN s.focus.n)))) := rfl

/-- A list of keys counted into a table. -/
theorem Tbl.get_foldl_count (l : List (Nat × Nat)) (t : Tbl Nat) (q : Nat) :
    (l.foldl (fun (t : Tbl Nat) (a : Nat × Nat) => t.set a.1 (t.get 0 a.1 + 1)) t).get 0 q = t.get 0 q + (l.filter (fun a => a.1 == q)).length := by
  induction l generalizing t with
  | nil => rfl
  | cons a l ih =>
    rw [List.foldl_cons, ih, Tbl.get_set]
    by_cases h : a.1 = q
    · simp [h]; omega
    · simp [h]

variable (b : Barrier) (c n : Nat)

theorem Barrier.arrive_arrived (q : Nat) : (b.arrive c n).arrived.get 0 q =
    b.arrived.get 0 q + (b.coming.filter (fun a => a.1 == q && decide (a.2 ≤ c))).length := by
  refine (Tbl.get_foldl_count _ _ _).trans ?_
  rw [List.filter_filter]

theorem Barrier.arrive_coming : (b.arrive c n).coming = b.coming.filter (fun q => decide (c < q.2)) :=
  List.filter_congr (fun q _ => by rw [← decide_not]; exact decide_eq_decide.mpr Nat.not_le)

/-- At most two phases complete, one after the other. -/
theorem Barrier.arrive_done {count : Nat → Nat} (hc : ∀ q, (b.arrive c n).arrived.get 0 q = count q) : (b.arrive c n).done =
    if 0 < count (b.done + 1) ∧ n ≤ count (b.done + 1) then
      if 0 < count (b.done + 2) ∧ n ≤ count (b.done + 2) then b.done + 2 else b.done + 1
    else b.done := by
  have hn : ∀ d, (b.counted c).next n d = if 0 < count (d + 1) ∧ n ≤ count (d + 1) then d + 1 else d := fun d => by
    rw [← hc]; rfl
  change (b.counted c).next n ((b.counted c).next n b.done) = _
  rw [hn b.done]
  by_cases h : 0 < count (b.done + 1) ∧ n ≤ count (b.done + 1)
  · rw [if_pos h, if_pos h, hn]
  · rw [if_neg h, if_neg h, hn, if_neg h]

theorem barrierArrival_bars {s : State} (hb : Bound s) : ∃ t, exec .barrierArrival s = .next t ∧ OnlyFabric s t ∧
    t.rg.now = { s.rg.now with bars := t.rg.now.bars } ∧ t.rg.now.bars.get Barrier.zero s.focus.n =
      (s.rg.now.bars.get Barrier.zero s.focus.n).arrive s.cycle (s.rg.barN s.focus.n) := by
  refine ⟨_, barrierArrival_eq s, State.modNow_only hb _, ?_, ?_⟩ <;> rw [State.modNow_now hb]
  · rfl
  · exact Tbl.get_set_self _ _ _ _

end Barriers

/-! ## HANDLER_TOKEN_ARRIVAL as a whole (R117) -/

section HandlerArrival

variable {s : State} (hb : Bound s)
include hb

/-- Once the tokens are taken and the lost ones have faulted, the machine is as before in all that the entries read. -/
theorem State.takenToks : ∃ u l, (s.actingToks.filter (fun k => s.handlersOf k.id == [])).foldl (fun (u : State) k => u.raisePage 0x60 k.id)
      (s.modNow s.sortToks) = u ∧ Bound u ∧ u.focus = s.focus ∧ u.cycle = s.cycle ∧ u.sig = s.sig ∧ u.rg.now = s.sortToks s.rg.now ∧
    u.rg.raised = s.rg.raised ++ l ∧ (∀ e ∈ l, e.code = 0x60) ∧
      l.map (·.addr) = (s.actingToks.filter (fun k => s.handlersOf k.id == [])).map (·.id) := by
  obtain ⟨l, hl, hcode, haddr⟩ := State.foldl_raisePage (s.actingToks.filter (fun k => s.handlersOf k.id == [])) (s.modNow s.sortToks)
  have hb' : Bound (s.modNow s.sortToks) := (State.modNow_bound _).mpr hb
  refine ⟨_, l, hl, (State.modR_bound _).mpr hb', rfl, rfl, ?_, ?_, ?_, hcode, haddr⟩
  · rw [← s.modNow_sig s.sortToks]
    unfold State.sig
    conv_lhs => rw [State.modR_focus]
    rw [State.modR_rg hb']
    rfl
  · rw [State.modR_rg hb', State.modNow_now hb]
  · rw [State.modR_rg hb', State.modNow, State.modR_rg hb]

theorem handlerTokenArrival_many : ∃ t l, exec .handlerTokenArrival s = .next t ∧
    t.rg.now.toks = s.rg.now.toks.filter (fun k => !(s.handlerDue k)) ∧ t.rg.now.heldToks = (s.sortToks s.rg.now).heldToks ∧
    t.rg.raised = s.rg.raised ++ l ∧ (∀ e ∈ l, e.code = 0x60) ∧
    l.map (·.addr) = (s.actingToks.filter (fun k => s.handlersOf k.id == [])).map (·.id) ∧
    ∀ n, n ∈ s.sig.decl.spans.map (·.n) → t.rg.now.span s.focus.sg n =
      (List.range 16).foldl (spanActs s.cycle s.focus.sg s.rg.now.handlers s.actingToks n) (s.rg.now.span s.focus.sg n) := by
  obtain ⟨u, l, hu, hbu, hf, hc, hsig, hnow, hraised, hcode, haddr⟩ := State.takenToks hb
  have ho := State.foldl_entryActs_only hbu s.actingToks (List.range 16)
  refine ⟨_, l, by rw [handlerTokenArrival_eq, hu], ?_, ?_, ?_, hcode, haddr, fun n hn => ?_⟩
  · rw [ho.2.1, hnow]; rfl
  · rw [ho.2.1, hnow]
  · rw [ho.raised, hraised]
  · have h := State.foldl_entryActs_span hbu s.actingToks (hsig ▸ hn) (List.range 16)
    rw [hf, hc, hnow] at h
    exact h

/-- One due token that no write holds back: the entries that name it act; where none does it is parked. -/
theorem handlerTokenArrival_single {k : Tok} (hk : s.rg.now.toks = [k]) (hd : s.handlerDue k = true) (hr : s.rewriting k.id = []) :
    ∃ u t, exec .handlerTokenArrival s = .next t ∧ SpansOnly u t ∧ u.rg.now = s.sortToks s.rg.now ∧
      t = (s.handlersOf k.id).foldl State.actHandler u ∧ u.focus = s.focus ∧ u.cycle = s.cycle ∧ u.sig = s.sig ∧
      (s.handlersOf k.id ≠ [] → u = s.modNow s.sortToks) ∧
      (s.handlersOf k.id = [] → ∃ e, u.rg.raised = s.rg.raised ++ [e] ∧ e.code = 0x60 ∧ e.addr = k.id) := by
  obtain ⟨u, l, hu, hbu, hf, hc, hsig, hnow, hraised, hcode, haddr⟩ := State.takenToks hb
  have hact := actingToks_single s hk hd hr
  have hfold := State.foldl_entryActs_single hbu k (List.range 16)
  rw [hf, hnow] at hfold
  refine ⟨u, _, by rw [handlerTokenArrival_eq, hu], State.foldl_entryActs_only hbu _ _, hnow, by rw [hact]; exact hfold, hf, hc, hsig,
    fun hne => ?_, fun he => ?_⟩
  · rw [← hu, hact, List.filter_cons_of_neg (by simpa using hne), List.filter_nil, List.foldl_nil]
  · rw [hact, List.filter_cons_of_pos (by simp [he])] at haddr
    obtain ⟨e, rfl, ha⟩ := List.map_eq_singleton_iff.mp haddr
    exact ⟨e, hraised, hcode e List.mem_cons_self, ha⟩

end HandlerArrival

end Sys2Proof.Machine

namespace Sys2Proof.Settled

open Sys2Proof Sys2Proof.Machine Sys2Proof.Safety

/-- Settles O47: each arrival is a fold over elements, entries, spans or phases, and its statement reads the fold's result at one of them. -/
theorem arrivals : Obligations.Arrivals := by
  unfold Obligations.Arrivals
  intro s hb f id
  have hbt : Bound s.takeTok := (State.modNow_bound _).mpr hb
  have hpend : ∀ x y i, s.takeTok.pending s.focus.sg x y i = s.pending s.focus.sg x y i := fun x y i => by
    unfold State.pending State.takeTok; rw [State.modNow_now hb]; rfl
  have hraised : s.takeTok.rg.raised = s.rg.raised := by rw [State.takeTok, State.modNow, State.modR_rg hb]
  refine ⟨?one, ?many, ?handlers, ?acts, ?parks, ?write, ?keystone, ?barrierOne, ?barrier⟩
  case one =>
    intro d hd c
    have hexec : exec .tokenArrival s = .next (s.takeTok.tokenAt s.focus.sg id d) := by rw [tokenArrival_eq, hd]; rfl
    have hp := State.tokenAt_pending hbt (sg := s.focus.sg) (id := id) d
    have hc : s.takeTok.pending s.focus.sg d.x d.y id = c := hpend _ _ _
    rw [hc] at hp
    replace hp := (elemNow_tok (s := s) (t := s.takeTok.tokenAt s.focus.sg id d) (State.tokenAt_focus _ _ _ _) _ _ _).trans hp
    refine ⟨fun h => ⟨_, hexec, hp.trans (if_pos h), ?_⟩, fun h => ⟨_, hexec, hp.trans (if_neg (by omega)), ?_⟩⟩
    · rw [State.tokenAt_counted hbt (by rwa [hc]), hraised]
    · rw [← hraised]; exact State.tokenAt_dropped hbt (by rwa [hc])
  case many =>
    intro hn
    obtain ⟨l, hl, hcode, hlen⟩ := State.foldl_tokenAt_raised hbt (id := id) (s.receivers id) hn
    simp only [hpend] at hlen
    refine ⟨_, l, tokenArrival_eq s, fun d hd => ?_, by rw [hl, hraised], hcode, hlen⟩
    have hp := State.foldl_tokenAt_pending hbt (id := id) (s.receivers id) hn hd
    rw [hpend] at hp
    exact (elemNow_tok (s := s) (State.foldl_field State.focus (State.tokenAt_focus _ _) (s.receivers id) s.takeTok) _ _ _).trans hp
  case handlers =>
    intro due act _
    obtain ⟨t, l, ht, htoks, hheld, hr, hcode, haddr, hspan⟩ := handlerTokenArrival_many hb
    exact ⟨t, l, ht, htoks, hheld, hr, hcode, haddr, fun n _ hn => hspan n hn⟩
  case acts =>
    intro k w hk hd hr hw
    obtain ⟨u, t, ht, ho, hnow, htu, hf, hc, hsig, hu, -⟩ := handlerTokenArrival_single hb hk hd hr
    have hus := hu (by simp [hw])
    refine ⟨t, ht, (hus ▸ State.modNow_only hb _).trans ho.1, ?_, fun n _ => ?_⟩
    · rw [ho.2.1, hnow]
      change s.rg.now.toks = [k] at hk
      simp [State.sortToks, hk, hd]
    · have hbu : Bound u := hus ▸ (State.modNow_bound _).mpr hb
      have hspan := State.actHandler_span hbu w n
      rw [hf, hc, hnow] at hspan
      rw [htu, hw, List.foldl_cons, List.foldl_nil, hspan]
      simp only [State.handlerSpans, hsig]
      rfl
  case parks =>
    intro k hk hd hr hw
    obtain ⟨u, t, ht, ho, hnow, -, -, -, -, -, hu⟩ := handlerTokenArrival_single hb hk hd hr
    refine ⟨t, ht, ?_, ?_⟩
    · rw [ho.2.1, hnow]
      simp [State.sortToks, actingToks_single s hk hd hr, hw, f]
    · rw [ho.raised]; exact hu hw
  case write =>
    exact fun w hw hsg he hd hh => handlerWriteEffect_single hb hw hsg he hd hh
  case keystone =>
    refine ⟨_, keystoneArrival_eq s, State.modNow_only hb _, ?_, fun d hd => ?_⟩ <;> rw [State.modNow_now hb]
    · exact Fabric.keystone_spans _ _ _
    · exact Fabric.keystone_keyed _ _ _ (.inl (List.mem_map.mpr ⟨d, hd, rfl⟩))
  case barrierOne =>
    intro p due hbar hdue
    obtain ⟨t, ht, ho, hnow, hget⟩ := barrierArrival_bars hb
    refine ⟨t, ht, ho, hnow, ?_⟩
    rw [hget, hbar]
    by_cases hn : s.rg.barN id ≤ 1 <;>
      simp [Barrier.arrive, Barrier.counted, Barrier.next, hdue, hn, Tbl.set, Tbl.get, id]
  case barrier =>
    intro b n count met
    obtain ⟨t, ht, ho, hnow, hget⟩ := barrierArrival_bars hb
    refine ⟨t, ht, ho, hnow, ?_⟩
    rw [hget]
    exact ⟨b.arrive_coming _ n, b.arrive_arrived _ n, b.arrive_done _ n (b.arrive_arrived _ n)⟩

end Sys2Proof.Settled
end

section
/-! PROOFS. O44: rounds that begin, replay and are saved. -/

namespace Sys2Proof.Machine

open Sys2Proof Sys2Proof.Safety

/-! ## A region that has bound: its first round, or the save that was asked for meanwhile (R88, R102) -/

section Starts

variable (s : State)

@[simp] theorem State.chargeSave_regions (g : Region) (own : Bool) (pc bytes : Nat) : (s.chargeSave g own pc bytes).regions = s.regions := by
  unfold State.chargeSave; split <;> rfl

@[simp] theorem State.chargeSave_focus (g : Region) (own : Bool) (pc bytes : Nat) : (s.chargeSave g own pc bytes).focus = s.focus := by
  unfold State.chargeSave; split <;> rfl

@[simp] theorem State.chargeSave_cycle (g : Region) (own : Bool) (pc bytes : Nat) : (s.chargeSave g own pc bytes).cycle = s.cycle := by
  unfold State.chargeSave; split <;> rfl

/-- A posting changes of the regions only what the posted one owes. -/
theorem State.post_regions (r : Nat) : (s.post r).regions = s.regions.modify r (fun g => { g with
    pageStart := s.cycle, roundBytes := 0, baseBytes := 0 }) := by
  simp only [State.post, State.postAmount]
  split
  · rw [State.modReg, State.chargeSave_regions]; rfl
  · rfl

/-- A save that begins within what is left of the bounds of R88. -/
theorem Region.saveMost_le {g : Region} {q : Nat} (hq : g.yieldReq = some q) (c : Nat) :
    g.saveMost c ≤ 10000 ∧ g.saveMost c ≤ q + 22500 - c := by
  simp only [Region.saveMost, hq]
  exact ⟨Nat.min_le_left _ _, Nat.min_le_right _ _⟩

variable {s}

theorem State.startBound_yields {r q : Nat} (hq : (s.reg r).yieldReq = some q) : s.startBound r =
    ((s.post r).latMost ((s.reg r).saveMost s.cycle)).2.modReg r (fun g => { g with
      old := g.now, ckpt := g.now, mode := .saving (s.cycle + ((s.post r).latMost ((s.reg r).saveMost s.cycle)).1) true }) := by
  rw [State.startBound, if_pos (by simp [hq])]

/-- A region that was asked to yield saves, and keeps whether it is yet to be restored. -/
theorem State.startBound_saves {r q : Nat} (hb : (s.regions.find r).isSome = true) (hq : (s.reg r).yieldReq = some q) :
    ∃ n, ((s.startBound r).reg r).mode = .saving n true ∧ ((s.startBound r).reg r).saved = (s.reg r).saved ∧
      n ≤ s.cycle + 10000 ∧ (s.cycle ≤ q + 22500 → n ≤ q + 22500) := by
  have hn := (s.post r).latMost_le ((s.reg r).saveMost s.cycle)
  obtain ⟨h1, h2⟩ := Region.saveMost_le hq s.cycle
  rw [State.startBound_yields hq, State.reg_modReg, if_pos ⟨rfl, by simp [State.post_regions, hb]⟩]
  refine ⟨_, rfl, ?_, by omega, fun hc => by omega⟩
  obtain ⟨g, hg⟩ := Option.isSome_iff_exists.mp hb
  simp [State.reg, State.post_regions, Tbl.get_eq_find, hg]

theorem State.startBound_begins {r : Nat} (hq : (s.reg r).yieldReq = none) : s.startBound r = s.beginRound r := by
  simp [State.startBound, hq]

/-- A round that begins keeps whether the region is yet to be restored. -/
theorem State.beginRound_reg {r : Nat} (hb : (s.regions.find r).isSome = true) : ((s.beginRound r).reg r).mode = .running ∧
    ((s.beginRound r).reg r).saved = (s.reg r).saved := by
  simp only [State.beginRound, State.reg_modReg, hb, and_self, if_true]

theorem State.beginRound_begins (hb : Bound s) : RoundBegins s (s.beginRound s.focus.r) := by
  have hrg : (s.beginRound s.focus.r).rg = _ := State.modR_rg hb _
  refine ⟨State.modR_only s _, ?_⟩
  rw [hrg]
  exact ⟨rfl, rfl, rfl, rfl, rfl, rfl, rfl⟩

end Starts

/-! ## BIND_COMPLETE (R90, R92, R102, R254) -/

section Binds

/-- The state once the region in focus is paid for as a saved one, and counts as one no more. -/
def State.paidSave (s : State) : State :=
  (s.chargeSave s.rg s.rg.savedOwn 0 s.rg.saveBytes).modR (fun g => { g with saved := false, savedOwn := false })

/-- Rows held again leave everything but the memory side as it was. -/
theorem MemSide.reopenRows (s : State) (r : Nat) : MemSide s (s.reopenRows r) :=
  MemSide.foldl (fun t h => by
    dsimp only
    split
    · exact (MemSide.flushLines t _ true true).trans ⟨rfl, id⟩
    · exact .refl t) _ s

variable {s : State}

theorem bindComplete_fresh (h : s.rg.saved = false) : exec .bindComplete s = .next (s.startBound s.focus.r) := by
  change execBindComplete s = _
  simp only [execBindComplete, h]
  rfl

theorem bindComplete_unreadable {sg : Nat} (h : s.rg.saved = true) (hbad : s.rg.savedBad = some sg) : exec .bindComplete s = .next
    (s.paidSave.endByFault s.focus.r (s.rg.savedFault sg) true) := by
  change execBindComplete s = _
  simp only [execBindComplete, h, hbad, if_true]
  rfl

/-- The region with its saved state back: its streams fetch again, and its written-back stores are the commit's. -/
def Region.restoredAt (c : Nat) (g : Region) : Region := { g with
  now := { g.now with elems := g.now.elems.map (fun (p : Nat × Elem) => (p.1, { p.2 with
    streams := p.2.streams.map (fun (q : Nat × Stream) => (q.1, q.2.refetch c)) })) }
  commit := g.writeBacks, commitOn := g.writeBacks != [], commitDue := c, readsTo := 0, writeBacks := [] }

/-- A round that replays, with what the first attempt, in `g`, began with. -/
def Region.retrying (g n : Region) : Region :=
  { n with attempt := g.attempt, roundNs := g.roundNs, sigSnap := g.sigSnap, pmFile := g.pmFile, cfgs := g.cfgs }

/-- The state once the saved region in focus is paid for, its rows are held again, and it is restored. -/
def State.restored (s : State) : State :=
  (s.paidSave.reopenRows s.focus.r).modR (Region.restoredAt s.cycle)

/-- Whatever starts, a saved region is restored first. -/
theorem bindComplete_restores (h : s.rg.saved = true) (hbad : s.rg.savedBad = none) : exec .bindComplete s = .next
    (if s.rg.attempt = 0 then s.restored.startBound s.focus.r else (s.restored.startBound s.focus.r).modReg s.focus.r s.rg.retrying) := by
  change execBindComplete s = _
  simp only [execBindComplete, h, hbad, if_true]
  rfl

theorem State.paidSave_bound (hb : Bound s) : Bound s.paidSave := (State.modR_bound _).mpr (by simpa [Bound] using hb)

theorem State.paidSave_rg (hb : Bound s) : s.paidSave.rg = { s.rg with saved := false, savedOwn := false } := by
  have hbc : Bound (s.chargeSave s.rg s.rg.savedOwn 0 s.rg.saveBytes) := by simpa [Bound] using hb
  rw [State.paidSave, State.modR_rg hbc]
  simp [State.rg, State.reg]

/-- What restoring leaves for the start to read. -/
theorem State.restored_facts (hb : Bound s) : Bound s.restored ∧ s.restored.focus = s.focus ∧ s.restored.cycle = s.cycle ∧
    s.restored.rg.saved = false ∧ s.restored.rg.yieldReq = s.rg.yieldReq := by
  have hm := (MemSide.reopenRows s.paidSave s.focus.r).only
  have hbr : Bound (s.paidSave.reopenRows s.focus.r) := by rw [hm]; exact State.paidSave_bound hb
  have hrg : (s.paidSave.reopenRows s.focus.r).rg = { s.rg with saved := false, savedOwn := false } := by
    rw [← State.paidSave_rg hb, hm]; rfl
  refine ⟨(State.modR_bound _).mpr hbr, ?_, ?_, ?_⟩
  · rw [State.restored, State.modR_focus, hm]; exact State.chargeSave_focus _ _ _ _ _
  · rw [State.restored, State.modR_cycle, hm]; exact State.chargeSave_cycle _ _ _ _ _
  · rw [State.restored, State.modR_rg hbr, hrg]
    exact ⟨rfl, rfl⟩

/-- What a saved region that can be read comes to, once its round starts or its save is under way. -/
theorem bindComplete_resumes (h : s.rg.saved = true) (hbad : s.rg.savedBad = none) {P : Region → Prop}
    (hP : ∀ g n : Region, P n → P (g.retrying n)) (hs : P ((s.restored.startBound s.focus.r).reg s.focus.r)) :
    ∃ t, exec .bindComplete s = .next t ∧ P (t.reg s.focus.r) := by
  refine ⟨_, bindComplete_restores h hbad, ?_⟩
  split
  · exact hs
  · rw [State.reg_modReg]
    split
    · exact hP _ _ hs
    · exact hs

end Binds

/-! ## YIELD_SAVE_DONE (R88, R163) -/

section Saves

variable {s : State}

theorem State.suspends_iff (s : State) (r : Nat) : s.suspends r = true ↔ ∃ h ∈ s.rows, h.r = r ∧ h.st = .suspended := by
  simp [State.suspends]

theorem yieldSaveDone_waits (h : s.rg.commitOn = true ∨ s.suspends s.focus.r = true) : exec .yieldSaveDone s = .next s := by
  change execYieldSaveDone s = _
  rw [execYieldSaveDone, if_pos (by simpa using h)]
  rfl

theorem yieldSaveDone_saves (hc : s.rg.commitOn = false) (hs : s.suspends s.focus.r = false) : exec .yieldSaveDone s =
    .next (((s.finishSave s.focus.r).creditClear s.rg.func).choiceAfter ((s.finishSave s.focus.r).newPrio s)) := by
  change execYieldSaveDone s = _
  rw [execYieldSaveDone, if_neg (by simp [hc, hs])]
  rfl

end Saves

end Sys2Proof.Machine

namespace Sys2Proof.Settled

open Sys2Proof Sys2Proof.Machine Sys2Proof.Safety

/-- Settles O44: BIND_COMPLETE restores what was saved, which leaves the yield request as it is, and then starts the round or the save. -/
theorem roundStarts : Obligations.RoundStarts := by
  unfold Obligations.RoundStarts
  intro s hb
  refine ⟨?fresh, ?unreadable, ?resumes, ?yields, ⟨_, rfl, State.beginRound_begins hb⟩, ⟨_, rfl, State.modR_only s _, State.modR_rg hb _⟩,
    ?waits, ?saves⟩
  case fresh =>
    intro h hq
    exact ⟨_, bindComplete_fresh h, by rw [State.startBound_begins hq]; exact State.beginRound_begins hb⟩
  case unreadable => exact fun sg h hbad => bindComplete_unreadable h hbad
  case resumes =>
    intro h hbad
    obtain ⟨hbu, hf, hc, hsaved, hq⟩ := State.restored_facts hb
    rw [Bound, hf] at hbu
    rw [State.rg, hf] at hsaved hq
    refine bindComplete_resumes h hbad (P := fun g => g.saved = false ∧ (s.rg.yieldReq = none → g.mode = .running))
      (fun g n hn => hn) ?_
    cases hy : s.rg.yieldReq with
    | none =>
      obtain ⟨hmode, hsv⟩ := State.beginRound_reg hbu
      rw [State.startBound_begins (hq.trans hy)]
      exact ⟨hsv.trans hsaved, fun _ => hmode⟩
    | some q =>
      obtain ⟨n, -, hsv, -, -⟩ := State.startBound_saves hbu (hq.trans hy)
      exact ⟨hsv.trans hsaved, nofun⟩
  case yields =>
    intro q hq hbad
    cases h : s.rg.saved with
    | false =>
      obtain ⟨n, hmode, -, hn, hn'⟩ := State.startBound_saves hb hq
      exact ⟨_, n, bindComplete_fresh h, hmode, hn, hn'⟩
    | true =>
      obtain ⟨hbu, hf, hc, -, hy⟩ := State.restored_facts hb
      rw [Bound, hf] at hbu
      rw [State.rg, hf] at hy
      obtain ⟨n, hmode, -, hn, hn'⟩ := State.startBound_saves hbu (hy.trans hq)
      rw [hc] at hn hn'
      obtain ⟨t, ht, hm⟩ := bindComplete_resumes h (hbad h) (P := fun g => g.mode = .saving n true) (fun _ _ h => h) hmode
      exact ⟨t, n, ht, hm, hn, hn'⟩
  case waits =>
    rw [← State.suspends_iff]
    exact yieldSaveDone_waits
  case saves =>
    intro hc hrows
    refine ⟨_, yieldSaveDone_saves hc (Bool.eq_false_iff.mpr fun h => ?_), rfl⟩
    obtain ⟨k, hk, hr, hst⟩ := (s.suspends_iff _).mp h
    exact hrows k hk hr hst

end Sys2Proof.Settled
end

section
/-! PROOFS. O57: every instruction and every step completes and keeps device and host memory in canonical form. -/

namespace Sys2Proof.Safety

open Sys2Proof Sys2Proof.Machine

/-! ## Steps that are done in turn, and states with the same memory -/

/-- Two states with the same device and host memory. -/
theorem canonical_congr {s t : State} (h : (t.coh, t.dram, t.host) = (s.coh, s.dram, s.host)) : Canonical t ↔ Canonical s := by
  obtain ⟨hc, hd, hh⟩ : t.coh = s.coh ∧ t.dram = s.dram ∧ t.host = s.host := by simpa using h
  rw [Canonical, hc, hd, hh, Canonical]

section Turns

variable {s : State}

/-- Steps each of which keeps the canonical form keep it together. -/
theorem Canonical.foldl {α : Type} {g : State → α → State} {l : List α} (h : Canonical s)
    (hg : ∀ t a, Canonical t → Canonical (g t a)) : Canonical (l.foldl g s) := by
  induction l generalizing s with
  | nil => exact h
  | cons a l ih => exact ih (hg s a h)

/-- Steps each of which leaves memory alone leave it alone together. -/
theorem canonical_foldl {α : Type} {g : State → α → State} (l : List α) (hg : ∀ t a, Canonical (g t a) ↔ Canonical t) :
    Canonical (l.foldl g s) ↔ Canonical s := by
  induction l generalizing s with
  | nil => rfl
  | cons a l ih => exact ih.trans (hg s a)

theorem Canonical.ite {c : Prop} {d : Decidable c} {a b : State} (ha : Canonical a) (hb : Canonical b) : Canonical (if c then a else b) := by
  split
  · exact ha
  · exact hb

end Turns

/-! ## What changes no memory: regions, tenants, messages (R40, R71, R123, R247 to R251) -/

section Named

variable (s : State)

@[simp] theorem canonical_modReg (r : Nat) (f : Region → Region) : Canonical (s.modReg r f) ↔ Canonical s := .rfl
@[simp] theorem canonical_modR (f : Region → Region) : Canonical (s.modR f) ↔ Canonical s := .rfl
@[simp] theorem canonical_modNow (f : Fabric → Fabric) : Canonical (s.modNow f) ↔ Canonical s := .rfl
@[simp] theorem canonical_modE (f : Elem → Elem) : Canonical (s.modE f) ↔ Canonical s := .rfl
@[simp] theorem canonical_modEAt (a x y : Nat) (f : Elem → Elem) : Canonical (s.modEAt a x y f) ↔ Canonical s := .rfl
@[simp] theorem canonical_modTenant (n : Nat) (f : Tenant → Tenant) : Canonical (s.modTenant n f) ↔ Canonical s := .rfl
@[simp] theorem canonical_modLaunch (n : Nat) (t : Word) (f : Launch → Launch) : Canonical (s.modLaunch n t f) ↔ Canonical s := .rfl
@[simp] theorem canonical_fresh : Canonical s.fresh.2 ↔ Canonical s := .rfl
@[simp] theorem canonical_count (n : Nat) : Canonical (s.count n) ↔ Canonical s := .rfl
@[simp] theorem canonical_raise (f : Flt) : Canonical (s.raise f) ↔ Canonical s := .rfl
@[simp] theorem canonical_raiseHere (c a : Nat) : Canonical (s.raiseHere c a) ↔ Canonical s := .rfl
@[simp] theorem canonical_chargeOwn (g : Region) (pc b : Nat) : Canonical (s.chargeOwn g pc b) ↔ Canonical s := .rfl

@[simp] theorem canonical_lat : Canonical s.lat.2 ↔ Canonical s := by unfold State.lat; split <;> rfl
@[simp] theorem canonical_latMost (n : Nat) : Canonical (s.latMost n).2 ↔ Canonical s := canonical_lat s

@[simp] theorem canonical_send (m : DMsg) : Canonical (s.send m) ↔ Canonical s := by unfold State.send; split_ifs <;> rfl

@[simp] theorem canonical_ack (h : MsgHdr) (kind status : Nat) : Canonical (s.ack h kind status) ↔ Canonical s := canonical_send s _

@[simp] theorem canonical_complete (func kind status : Nat) (tag : Word) (pc b : Nat) (flt : Option (Nat × Nat)) :
    Canonical (s.complete func kind status tag pc b flt) ↔ Canonical s := canonical_send s _

@[simp] theorem canonical_eventMsg (func src page : Nat) (tag v : Word) (x y stamp : Nat) :
    Canonical (s.eventMsg func src page tag v x y stamp) ↔ Canonical s := canonical_send s _

@[simp] theorem canonical_chargeSave (g : Region) (own : Bool) (pc b : Nat) : Canonical (s.chargeSave g own pc b) ↔ Canonical s := by
  unfold State.chargeSave; split <;> rfl

@[simp] theorem canonical_postAmount (r pc b : Nat) : Canonical (s.postAmount r pc b) ↔ Canonical s := by
  simp only [State.postAmount, canonical_modReg]; split <;> simp

@[simp] theorem canonical_post (r : Nat) : Canonical (s.post r) ↔ Canonical s := canonical_postAmount s ..

@[simp] theorem canonical_voidRound (r : Nat) (charged : Bool) : Canonical (s.voidRound r charged) ↔ Canonical s := by
  unfold State.voidRound
  extract_lets g t
  have ht : Canonical t ↔ Canonical s := by
    unfold t
    split <;> exact canonical_postAmount s ..
  clear_value t
  exact (canonical_congr (s := t) rfl).trans ht

@[simp] theorem canonical_report (r : Nat) (f : Flt) : Canonical (s.report r f).2 ↔ Canonical s := canonical_send _ _

@[simp] theorem canonical_voidLast (r : Nat) : Canonical (s.voidLast r) ↔ Canonical s := by unfold State.voidLast; split <;> simp

@[simp] theorem canonical_creditClear (f : Nat) : Canonical (s.creditClear f) ↔ Canonical s := by
  unfold State.creditClear; split <;> simp

@[simp] theorem canonical_endLaunch (f : Nat) (tag : Word) (status : Nat) : Canonical (s.endLaunch f tag status) ↔ Canonical s := by
  unfold State.endLaunch
  extract_lets gone nums t u
  refine (canonical_foldl _ fun u p => ?_).trans (canonical_creditClear u f)
  split
  · split <;> simp
  · rfl

@[simp] theorem canonical_endByFault (r : Nat) (f : Flt) (charged : Bool) : Canonical (s.endByFault r f charged) ↔ Canonical s := by
  simp [State.endByFault]

@[simp] theorem canonical_countedVoid (r : Nat) (f : Flt) : Canonical (s.countedVoid r f) ↔ Canonical s := by
  simp only [State.countedVoid]; split <;> simp

@[simp] theorem canonical_takeFault (r : Nat) : Canonical (s.takeFault r) ↔ Canonical s := by
  unfold State.takeFault
  split
  · rfl
  · simp
  · next f _ _ =>
    split
    · simp
    · split
      · have ht : Canonical ((s.voidRound r true).report r f).2 ↔ Canonical s := by simp
        generalize (s.voidRound r true).report r f = p at ht ⊢
        dsimp only
        split <;> simpa [Canonical] using ht
      · simp

end Named

/-! ## Operands, windows, tokens, nodes and ports: no memory changes (R98, R111, R298, R336) -/

section Operands

variable (s : State)

@[simp] theorem canonical_popIn (side : Nat) : Canonical (s.popIn side) ↔ Canonical s := .rfl
@[simp] theorem canonical_openWin (k : WinKind) (d w wm : Nat) (r : Option Word) : Canonical (s.openWin k d w wm r) ↔ Canonical s := .rfl
@[simp] theorem canonical_modSide (n : Nat) (f : Elem → Elem) : Canonical (s.modSide n f) ↔ Canonical s := .rfl
@[simp] theorem canonical_modFolio (n : Nat) (f : Folio → Folio) : Canonical (s.modFolio n f) ↔ Canonical s := .rfl
@[simp] theorem canonical_slotPort (d : Nat) (i : Instr) (a : List Byte) (y : Nat) : Canonical (s.slotPort d i a y) ↔ Canonical s := .rfl
@[simp] theorem canonical_nodeOp (d : Nat) (i : Instr) (acc : List Nat) (a b : List Byte) (x : Word) (y : Nat) (z : List Word)
    (full : Bool) : Canonical (s.nodeOp d i acc a b x y z full) ↔ Canonical s := .rfl
@[simp] theorem canonical_inFlight (due : Nat) (i : Instr) (tile : Bool) (acc : List Nat) (a b : List Byte) (x : Word) (y : Nat)
    (z : List Word) (full : Bool) : Canonical (s.inFlight due i tile acc a b x y z full) ↔ Canonical s := .rfl
@[simp] theorem canonical_sendToken (id : Nat) : Canonical (s.sendToken id) ↔ Canonical s := .rfl
@[simp] theorem canonical_startSoft (due : Nat) (i : Instr) (a b : Word) (data : List Byte) (m : List Pend) :
    Canonical (s.startSoft due i a b data m).2 ↔ Canonical s := .rfl
@[simp] theorem canonical_modPort (p : Nat) (f : Port → Port) : Canonical (s.modPort p f) ↔ Canonical s := .rfl
@[simp] theorem canonical_raisePage (c a : Nat) : Canonical (s.raisePage c a) ↔ Canonical s := .rfl
@[simp] theorem canonical_consumed (stamp : Nat) (sched : Bool) (va : Nat) : Canonical (s.consumed stamp sched va) ↔ Canonical s := .rfl

@[simp] theorem canonical_pushOut (side : Nat) (v : Word) : Canonical (s.pushOut side v) ↔ Canonical s := by
  unfold State.pushOut; split <;> simp

@[simp] theorem canonical_poisonOut (side : Nat) : Canonical (s.poisonOut side) ↔ Canonical s := by
  unfold State.poisonOut; split <;> simp

@[simp] theorem canonical_setPred (n : Nat) (b : Bool) : Canonical (s.setPred n b) ↔ Canonical s := by
  unfold State.setPred; split <;> simp

@[simp] theorem canonical_putRaw (c : Nat) (v : Word) : Canonical (s.putRaw c v) ↔ Canonical s := by
  unfold State.putRaw; split_ifs <;> simp

@[simp] theorem canonical_put (c : Nat) (v : Word) : Canonical (s.put c v) ↔ Canonical s := canonical_putRaw s ..

@[simp] theorem canonical_consume (cs : List Nat) : Canonical (s.consume cs) ↔ Canonical s :=
  canonical_foldl _ fun t side => by split <;> simp

@[simp] theorem canonical_markReg (c : Nat) : Canonical (s.markReg c) ↔ Canonical s := by
  unfold State.markReg; split_ifs <;> simp

@[simp] theorem canonical_unmarkReg (c : Nat) : Canonical (s.unmarkReg c) ↔ Canonical s := by
  unfold State.unmarkReg; split_ifs <;> simp

@[simp] theorem canonical_tokWait (t w wm : Nat) (c : Option Nat) : Canonical (s.tokWait t w wm c) ↔ Canonical s := by
  simp only [State.tokWait, canonical_openWin]; split <;> simp

@[simp] theorem canonical_entryActs (act : List Tok) (e : Nat) : Canonical (s.entryActs act e) ↔ Canonical s := by
  simp only [State.entryActs]
  split
  · exact canonical_foldl _ fun t _ => canonical_foldl _ fun u _ => by simp
  · rfl

@[simp] theorem canonical_idle (p : Nat) : Canonical (s.idle p) ↔ Canonical s := by unfold State.idle; split <;> simp

@[simp] theorem canonical_pump (p : Nat) : Canonical (s.pump p) ↔ Canonical s := by unfold State.pump; split <;> simp

@[simp] theorem canonical_portSend (p c : Nat) (l : List Byte) : Canonical (s.portSend p c l) ↔ Canonical s := by simp [State.portSend]

end Operands

/-- An entry keeps the canonical form where its effect does: a freeze and a fault leave memory alone (R101, R111, R249). -/
theorem Canonical.entry {s : State} {srcs ds : List Nat} {chk : Chk} {eff : State → State} (h : Canonical s)
    (he : ∀ t, Canonical t → Canonical (eff t)) : Canonical (s.entry srcs ds chk eff) := by
  obtain hc | hc | ⟨f, hc⟩ := s.entry_cases srcs ds chk eff <;> rw [hc]
  · exact (canonical_count ..).2 (he _ ((canonical_consume ..).2 h))
  · exact h
  · exact h

theorem Canonical.under {s : State} {c : Chk} {eff : State → State} (h : Canonical s) (he : Canonical (eff s)) : Canonical (s.under c eff) := by
  unfold State.under
  split
  · exact he
  · exact h
  · exact h
  · exact h

/-! ## The L2 and the tables: write-backs put bytes of memory into DRAM (R83, R137 to R149, R159, R161) -/

/-- What keeps to the memory side keeps the canonical form. -/
theorem Canonical.of_memSide {s t : State} (h : Canonical s) (k : MemSide s t) : Canonical t := by
  obtain ⟨hc, hd, hh⟩ := h
  rw [k.only]
  exact ⟨hc, k.wf hd, hh⟩

section Caches

variable {s : State}

@[simp] theorem canonical_setL2 (s : State) (l : Tbl (List Line)) : Canonical { s with l2 := l } ↔ Canonical s := .rfl
@[simp] theorem canonical_setNtlb (s : State) (l : Tbl (List NTlb)) : Canonical { s with ntlb := l } ↔ Canonical s := .rfl
@[simp] theorem canonical_setFocus (s : State) (f : Focus) : Canonical { s with focus := f } ↔ Canonical s := .rfl
@[simp] theorem canonical_countLine (s : State) (ev o : Nat) : Canonical (s.countLine ev o) ↔ Canonical s := .rfl
@[simp] theorem canonical_countAccess (s : State) (pa f p : Nat) (hit : Bool) : Canonical (s.countAccess pa f p hit) ↔ Canonical s := .rfl
@[simp] theorem canonical_refusePin (s : State) (pa o : Nat) : Canonical (s.refusePin pa o) ↔ Canonical s := .rfl

@[simp] theorem canonical_suspendRow (s : State) (row : Nat) : Canonical (s.suspendRow row) ↔ Canonical s :=
  canonical_congr (by simp [State.suspendRow])

@[simp] theorem canonical_suspendFor (s : State) (pa : Nat) : Canonical (s.suspendFor pa) ↔ Canonical s :=
  canonical_foldl _ fun t _ => canonical_suspendRow t _

@[simp] theorem canonical_rowAccess (s : State) (pa p : Nat) : Canonical (s.rowAccess pa p) ↔ Canonical s := canonical_suspendFor s pa

@[simp] theorem canonical_pinLine (s : State) (pa f w : Nat) : Canonical (s.pinLine pa f w) ↔ Canonical s := by
  simp only [State.pinLine]
  split
  · rfl
  · split_ifs <;> simp

theorem Canonical.cleanSectors (h : Canonical s) (ln mask : Nat) : Canonical (s.cleanSectors ln mask) :=
  h.of_memSide (.cleanSectors s ln mask)

theorem Canonical.flushLines (h : Canonical s) (pick : Line → Bool) (clean inv : Bool) : Canonical (s.flushLines pick clean inv) :=
  h.of_memSide (.flushLines s pick clean inv)

theorem Canonical.l2Access (h : Canonical s) (func page acc pa mask whole : Nat) (w : Bool) (hint : Nat) :
    Canonical (s.l2Access func page acc pa mask whole w hint) := by
  unfold State.l2Access
  split
  · exact h
  · next x _ =>
    extract_lets key lines ln retain fetched u u'
    have hf : ∀ v u, Canonical u → Canonical (fetched v u) := fun _ _ hu => .ite hu ((canonical_suspendFor ..).2 hu)
    have hu : Canonical u := (canonical_countAccess ..).2 (hf _ _ h)
    clear_value u
    split
    · extract_lets l' lines' v
      have hv : Canonical v := (canonical_countAccess ..).2 (hf _ _ ((canonical_setL2 ..).2 h))
      exact .ite ((canonical_pinLine ..).2 hv) hv
    · refine .ite (.ite (hu.cleanSectors ..) hu) ?_
      split
      · have hv : Canonical u' := .ite (hu.cleanSectors ..) hu
        exact .ite ((canonical_refusePin ..).2 hv) hv
      · extract_lets v l rest w
        have hv : Canonical v := by
          unfold v
          split
          · exact (canonical_countLine ..).2 (hu.cleanSectors ..)
          · exact hu
        clear_value v
        have hw : Canonical w := (canonical_countLine ..).2 ((canonical_setL2 ..).2 hv)
        exact .ite ((canonical_pinLine ..).2 hw) hw

theorem Canonical.touchLine (h : Canonical s) (func page acc pa mask hint : Nat) : Canonical (s.touchLine func page acc pa mask hint) :=
  .ite ((canonical_rowAccess ..).2 h) (h.l2Access ..)

theorem Canonical.touchRead (h : Canonical s) (func page acc pa n hint : Nat) : Canonical (s.touchRead func page acc pa n hint) :=
  h.foldl fun _ _ h => h.touchLine ..

theorem Canonical.touchSectors (h : Canonical s) (func page acc base : Nat) (secs : List Nat) (hint : Nat) :
    Canonical (s.touchSectors func page acc base secs hint) := h.foldl fun _ _ h => h.touchLine ..

theorem Canonical.touchVa (h : Canonical s) (func page va n hint : Nat) : Canonical (s.touchVa func page va n hint) := by
  unfold State.touchVa
  split
  · exact h
  · refine .ite (h.foldl fun t p h => ?_) (h.foldl fun t p h => (h.touchSectors ..).touchSectors ..)
    split
    · exact h.touchRead ..
    · exact h

theorem Canonical.readVa (h : Canonical s) (func page va n hint : Nat) : Canonical (s.readVa func page va n hint).2 := by
  unfold State.readVa
  split
  · exact h
  · dsimp only
    split
    · exact h.touchVa ..
    · exact (h.touchVa ..).foldl fun t _ h => h

theorem Canonical.walkRead (h : Canonical s) (func pa : Nat) : Canonical (s.walkRead func pa) := h.touchLine ..

theorem Canonical.hostFill (h : Canonical s) (die func gpa : Nat) : Canonical (s.hostFill die func gpa) := by
  simp only [State.hostFill]
  split
  · exact h
  · next t _ =>
    refine .ite h ?_
    split
    · exact h
    · have hu := (canonical_count _ 0x16).2 (h.foldl (l := (hostStage s.coh func t gpa).2) fun u pa h => h.walkRead func pa)
      split
      · exact (canonical_setNtlb ..).2 hu
      · exact hu

/-- A nested walk reads tables through the L2 and fills the nested TLB. -/
theorem Canonical.nestedFill (h : Canonical s) (die func va : Nat) : Canonical (s.nestedFill die func va) := by
  simp only [State.nestedFill]
  split
  · exact h
  · next t _ =>
    have hu := h.foldl (l := (guestStage s.coh func t va).2) (g := fun u g =>
        match (hostStage s.coh func t g).1 with
        | .ok f size _ _ => (u.hostFill die func g).walkRead func (f + g % size)
        | _ => u.hostFill die func g) fun u g h => by
      split
      · exact (h.hostFill ..).walkRead ..
      · exact h.hostFill ..
    split
    · exact hu.hostFill ..
    · exact hu

theorem Canonical.walkAt (h : Canonical s) (v : Nat) : Canonical (s.walkAt v) := by
  simp only [State.walkAt]
  have hu : Canonical ((s.count 0x15).nestedFill (dieOfPage s.page) s.rg.func v) :=
    ((canonical_count ..).2 h).nestedFill ..
  refine .ite h ?_
  split
  · exact (canonical_congr (s := (s.count 0x15).nestedFill (dieOfPage s.page) s.rg.func v) rfl).2 hu
  · exact hu

theorem Canonical.prefWalk (h : Canonical s) (va n : Nat) : Canonical (s.prefWalk va n) := h.foldl fun _ _ h => h.walkAt _

theorem Canonical.faultWalks (h : Canonical s) (va n : Nat) : Canonical (s.faultWalks va n) := h.foldl fun _ _ h =>
  ((canonical_count ..).2 h).nestedFill ..

theorem Canonical.walksOf (h : Canonical s) (sg : Nat) (f : Flt) : Canonical (s.walksOf sg f) := by
  unfold State.walksOf
  extract_lets _ t missed
  have ht : Canonical t := (canonical_setFocus ..).2 h
  exact .ite ((canonical_setFocus ..).2 (ht.faultWalks ..)) h

theorem Canonical.cmoRange (h : Canonical s) (func va len : Nat) (clean inv : Bool) : Canonical (s.cmoRange func va len clean inv) :=
  h.flushLines ..

theorem Canonical.acquireRanges (h : Canonical s) (l : List (Nat × Nat)) : Canonical (s.acquireRanges l) := h.foldl fun _ _ h => h.cmoRange ..

theorem Canonical.cleanThrough (h : Canonical s) (func : Nat) (l : List (Nat × Nat)) : Canonical (s.cleanThrough func l) := h.flushLines ..

end Caches

/-! ## Stores performed: bytes of device memory, and of DRAM where a line is held (R121, R151 to R155, R165, R217, R253) -/

section Stores

variable {s : State}

/-- Bytes written to device memory as coherent agents see it. -/
theorem Canonical.setCoh (h : Canonical s) (a : Nat) (l : List Byte) (p : List Nat) : Canonical { s with coh := s.coh.writeN a l, poison := p } :=
  ⟨Memory.wf_writeN _ _ h.1, h.2⟩

/-- Bytes written to DRAM. -/
theorem Canonical.setDram (h : Canonical s) (a : Nat) (l : List Byte) : Canonical { s with dram := s.dram.writeN a l } :=
  ⟨h.1, Memory.wf_writeN _ _ h.2.1, h.2.2⟩

theorem Canonical.storePa (h : Canonical s) (func page acc pa : Nat) (b : List Byte) (hint : Nat) (block : Bool) :
    Canonical (s.storePa func page acc pa b hint block) := by
  refine h.foldl fun t p h => ?_
  have ht := h.setCoh p.1 (sliceBytes b (p.1 - pa) p.2)
  exact .ite ((canonical_rowAccess ..).2 ((ht _).setDram ..)) ((ht _).l2Access ..)

theorem Canonical.storeVaPlain (h : Canonical s) (func page acc va : Nat) (b : List Byte) (hint : Nat) (block : Bool) :
    Canonical (s.storeVaPlain func page acc va b hint block) := by
  refine h.foldl fun t p h => ?_
  split
  · exact h.storePa ..
  · exact h

@[simp] theorem canonical_advanceVersion (s : State) (func layer : Nat) : Canonical (s.advanceVersion func layer) ↔ Canonical s := by
  simp only [State.advanceVersion]; split <;> rfl

@[simp] theorem canonical_watch (s : State) (func va n : Nat) : Canonical (s.watch func va n) ↔ Canonical s := by
  unfold State.watch
  split
  · rfl
  · exact canonical_foldl _ fun u q => canonical_advanceVersion ..

@[simp] theorem canonical_poisonStored (s : State) (func base : Nat) (secs : List Nat) : Canonical (s.poisonStored func base secs) ↔ Canonical s :=
  .rfl

theorem Canonical.storeBlock (h : Canonical s) (func : Nat) (q : StoreBy) (b : Buffer) (k off : Nat) (bytes : List Byte) (bad : List Nat) :
    Canonical (s.storeBlock func q b k off bytes bad) := by
  have hs := h.storeVaPlain func q.page
  unfold State.storeBlock
  extract_lets va acc slot hot new t data new' lost u v w
  split
  · split_ifs <;> simp [t, hs]
  · have hu : Canonical u := .ite (hs ..) ((canonical_countLine ..).2 (hs ..))
    clear_value u lost
    have hv : Canonical v := by
      unfold v
      split <;> exact hu
    have hw : Canonical w := (canonical_poisonStored ..).2 hv
    clear_value w
    exact .ite hw hw

theorem Canonical.storeVa (h : Canonical s) (func : Nat) (q : StoreBy) (va : Nat) (bytes : List Byte) (bad : List Nat) :
    Canonical (s.storeVa func q va bytes bad) := by
  have hw : Canonical (s.watch func va bytes.length) := (canonical_watch ..).2 h
  unfold State.storeVa
  extract_lets t
  split
  · exact hw
  · exact .ite ((canonical_poisonStored ..).2 (hw.storeVaPlain ..)) (hw.foldl fun _ _ h => h.storeBlock ..)

@[simp] theorem canonical_dropVocab (s : State) (func va len : Nat) : Canonical (s.dropVocab func va len) ↔ Canonical s := by
  simp only [State.dropVocab]; split <;> rfl

@[simp] theorem canonical_unpinReg (s : State) (func n : Nat) : Canonical (s.unpinReg func n) ↔ Canonical s := by
  unfold State.unpinReg; split <;> rfl

end Stores

/-! ## What is issued and staged: it changes memory only once it is performed (R121, R137, R168 to R174) -/

section Issues

variable (s : State)

@[simp] theorem canonical_cmpBytes (va n : Nat) : Canonical (s.cmpBytes va n) ↔ Canonical s := by unfold State.cmpBytes; split <;> simp

@[simp] theorem canonical_advance (sn size : Nat) (na : Bool) : Canonical (s.advance sn size na) ↔ Canonical s := by
  unfold State.advance; split <;> simp

@[simp] theorem canonical_engineKib (n : Nat) : Canonical (s.engineKib n) ↔ Canonical s := .rfl

@[simp] theorem canonical_beginWalk (id va acc : Nat) (w e : Bool) : Canonical (s.beginWalk id va acc w e) ↔ Canonical s := by
  simp only [State.beginWalk]; split <;> exact canonical_lat s

@[simp] theorem canonical_walkStore (va n : Nat) : Canonical (s.walkStore va n) ↔ Canonical s :=
  canonical_foldl _ fun t _ => canonical_beginWalk t.fresh.2 ..

@[simp] theorem canonical_issueRead (sn va size dst : Nat) (fifo : Option Nat) (bt gath : Bool) (seq : Nat) :
    Canonical (s.issueRead sn va size dst fifo bt gath seq) ↔ Canonical s := by
  simp only [State.issueRead, canonical_count]; split <;> simp

@[simp] theorem canonical_stageAt (sn ep : Nat) (a : Act) : Canonical (s.stageAt sn ep a) ↔ Canonical s := .rfl
@[simp] theorem canonical_stageEvent (src : Nat) (v : Word) (stamp : Nat) : Canonical (s.stageEvent src v stamp) ↔ Canonical s := .rfl
@[simp] theorem canonical_stagePlaced (a : Act) : Canonical (s.stagePlaced a) ↔ Canonical s := .rfl

@[simp] theorem canonical_stage (sn : Nat) (a : Act) : Canonical (s.stage sn a) ↔ Canonical s := by
  simp only [State.stage]; split <;> simp

theorem canonical_asAcquire {sn : Nat} {issue : State → State} (h : ∀ t, Canonical (issue t) ↔ Canonical t) :
    Canonical (s.asAcquire sn issue) ↔ Canonical s := by
  unfold State.asAcquire; split <;> simp [h]

theorem canonical_asRelease {sn : Nat} {issue : State → State} (h : ∀ t, Canonical (issue t) ↔ Canonical t) :
    Canonical (s.asRelease sn issue) ↔ Canonical s := by
  unfold State.asRelease; split <;> simp [h]

@[simp] theorem canonical_feed (sg : Nat) (a : AdderDecl) (loc : Bool) (ws : List Word) : Canonical (s.feed sg a loc ws) ↔ Canonical s := .rfl

@[simp] theorem canonical_sendChain (sn port chain : Nat) (ws : List Word) : Canonical (s.sendChain sn port chain ws) ↔ Canonical s := by
  unfold State.sendChain
  split
  · split <;> simp
  · exact canonical_foldl _ fun t w => canonical_stage ..

@[simp] theorem canonical_feedAll (sn : Nat) (l : List Byte) : Canonical (s.feedAll sn l) ↔ Canonical s :=
  (canonical_foldl _ fun _ _ => canonical_sendChain ..).trans (canonical_foldl _ fun _ _ => canonical_feed ..)

@[simp] theorem canonical_putStore (sn va : Nat) (l : List Byte) : Canonical (s.putStore sn va l) ↔ Canonical s := by simp [State.putStore]

@[simp] theorem canonical_flushBeat (sn : Nat) : Canonical (s.flushBeat sn) ↔ Canonical s :=
  canonical_foldl _ fun _ _ => canonical_stage ..

@[simp] theorem canonical_appendHost (sn off : Nat) (w : Word) : Canonical (s.appendHost sn off w) ↔ Canonical s := by
  simp only [State.appendHost]; split <;> simp

@[simp] theorem canonical_logStore (va : Nat) (l : List Byte) : Canonical (s.logStore va l) ↔ Canonical s := by simp [State.logStore]

@[simp] theorem canonical_logSoft (st : Word) (r : Soft) (flags : Nat) : Canonical (s.logSoft st r flags) ↔ Canonical s := by
  simp only [State.logSoft, canonical_modE]; split <;> simp

@[simp] theorem canonical_rowWalk (id va : Nat) (w : Bool) : Canonical (s.rowWalk id va w) ↔ Canonical s := by
  unfold State.rowWalk; split <;> simp

@[simp] theorem canonical_takeHold (pa : Nat) (reopen : Bool) : Canonical (s.takeHold pa reopen) ↔ Canonical s := by
  refine (canonical_foldl _ fun t _ => ?_).trans .rfl
  exact canonical_lat t

@[simp] theorem canonical_barrier (named held : Nat) (die : Bool) : Canonical (s.barrier named held die) ↔ Canonical s := by
  unfold State.barrier; split <;> simp

@[simp] theorem canonical_sbar (named held : Nat) : Canonical (s.sbar named held) ↔ Canonical s := .rfl

end Issues

section Fences

variable {s : State}

theorem Canonical.throughNow (h : Canonical s) (l : List (Nat × Nat)) : Canonical (s.throughNow l) := by
  have ht := h.cleanThrough s.rg.func l
  simp only [State.throughNow]
  exact .ite (by simpa using ht) ht

/-- A fence of system scope cleans lines at once; any other only orders (R175). -/
theorem Canonical.fence (h : Canonical s) (named scope : Nat) (also : List (Nat × Nat)) : Canonical (s.fence named scope also) := by
  have ht : Canonical (if scope = 4 then s.throughNow (s.writtenBufs also) else s) := .ite (h.throughNow _) h
  simp only [State.fence]
  generalize (if scope = 4 then s.throughNow (s.writtenBufs also) else s) = u at ht ⊢
  split <;> simpa using ht

end Fences

/-! ## Engines and reads (R168, R341, R351, R355) -/

section Engines

variable {s : State}

@[simp] theorem canonical_modReads (s : State) (ended : Bool) (f : Read → Read) : Canonical (s.modReads ended f) ↔ Canonical s := by
  simp only [State.modReads]; split <;> simp

theorem Canonical.serveRead (h : Canonical s) (r : Read) : Canonical (s.serveRead r) := by
  have hswap : ∀ t, Canonical t → Canonical (if s.rg.isEnded r.id then t.modR Region.swapCounts else t) := fun t h => .ite h h
  have ht := hswap _ ((hswap s h).readVa s.rg.func s.page r.va r.size r.hint)
  have hu : ∀ f, Canonical (State.modReads _ (s.rg.isEnded r.id) f) := fun f => (canonical_modReads _ _ f).2 ((canonical_lat _).2 ht)
  unfold State.serveRead
  dsimp only
  split
  · exact .ite (hu _) ((hu _).acquireRanges _)
  · exact hu _

@[simp] theorem canonical_latchBurst (s : State) (r : Read) : Canonical (s.latchBurst r) ↔ Canonical s := by
  simp only [State.latchBurst]; split_ifs <;> simp

@[simp] theorem canonical_gathBytes (s : State) (r : Read) : Canonical (s.gathBytes r) ↔ Canonical s := by
  unfold State.gathBytes; split <;> simp

@[simp] theorem canonical_landReply (s : State) (r : Read) : Canonical (s.landReply r) ↔ Canonical s := by
  simp only [State.landReply]; split <;> simp

theorem Canonical.engineWait (h : Canonical s) {stamp : Nat} {sched : Bool} {va n : Nat} {w : Bool} {t : State}
    (ht : s.engineWait stamp sched va n w = some t) : Canonical t := by
  unfold State.engineWait at ht
  split at ht
  · cases ht; exact h
  · dsimp only at ht
    split at ht
    · cases ht; exact h
    · cases ht
      exact (canonical_setFocus ..).2 ((canonical_beginWalk ..).2 h)
  · split at ht <;> cases ht
    exact h

theorem Canonical.copySrcWait (h : Canonical s) {c : Copy} {k o n : Nat} {t : State} (ht : s.copySrcWait c k o n = some t) : Canonical t := by
  simp only [State.copySrcWait] at ht
  split_ifs at ht <;> cases ht <;> exact h

theorem Canonical.copyRead (h : Canonical s) (c : Copy) (n : Nat) : Canonical (s.copyRead c n).2.2 := by
  have hr := fun va => h.readVa s.rg.func s.page va n c.hint
  unfold State.copyRead
  extract_lets sectors
  split
  · exact h
  · split
    · exact hr _
    · split
      · exact hr _
      · exact hr _

@[simp] theorem canonical_copyWrite (s : State) (c : Copy) (b : List Byte) (bad : List Nat) : Canonical (s.copyWrite c b bad) ↔ Canonical s := by
  unfold State.copyWrite; split <;> simp

theorem Canonical.copyPiece (h : Canonical s) (c : Copy) : Canonical (s.copyPiece c) := by
  unfold State.copyPiece
  extract_lets n at_ src r dst
  split
  · have hs : ∀ t, src = some t → Canonical t := by
      unfold src
      intro t ht
      split_ifs at ht
      · cases ht
        exact h
      · split at ht
        · exact h.copySrcWait ht
        · exact h.engineWait ht
    clear_value src
    split
    · exact hs _ rfl
    · exact (canonical_modE ..).2 (h.copyRead c n)
  · have hd : ∀ t, dst = some t → Canonical t := by
      unfold dst
      intro t ht
      split at ht
      · split_ifs at ht
        cases ht
        exact h
      · exact h.engineWait ht
    clear_value dst
    split
    · exact hd _ rfl
    · exact (canonical_modR ..).2 ((canonical_modE ..).2 ((canonical_lat ..).2 ((canonical_copyWrite ..).2 h)))

end Engines

/-! ## Soft tokens and their vocabulary (R227 to R246, R408 to R411) -/

section Soft

variable {s : State}

theorem Canonical.vocabLine (h : Canonical s) (kept : List VLine) (va : Nat) : Canonical (s.vocabLine kept va).2 := by
  have ht := (canonical_cmpBytes _ va 64).2 (h.readVa s.rg.func s.page va 64 0)
  unfold State.vocabLine
  dsimp only
  split
  · exact h
  · generalize State.cmpBytes _ va 64 = t at ht ⊢
    split
    · exact ht
    · exact (canonical_congr (s := t) rfl).2 ht

theorem Canonical.vocabRead (h : Canonical s) (kept : List VLine) (va n : Nat) : Canonical (s.vocabRead kept va n).2 :=
  List.foldlRecOn (motive := fun p : List Byte × State => Canonical p.2) _ _ h fun _ h _ _ => h.vocabLine ..

theorem Canonical.tokenText (h : Canonical s) (kept : List VLine) (id : Word) : Canonical (s.tokenText kept id).2 :=
  (h.vocabRead ..).vocabRead ..

theorem Canonical.grammarMask (h : Canonical s) (kept : List VLine) (st id : Word) : Canonical (s.grammarMask kept st id).2 := by
  simp only [State.grammarMask]
  split
  · exact h
  · exact h.vocabRead ..

theorem Canonical.allowed (h : Canonical s) (o : SoftOp) (r : Soft) : Canonical (s.allowed o r).2 := by
  refine List.foldlRecOn (motive := fun p : List (Word × Word × Nat) × State => Canonical p.2) _ _ h fun p h a _ => ?_
  dsimp only
  split_ifs
  · exact h
  · exact h
  · exact h.grammarMask ..
  · exact h.grammarMask ..

@[simp] theorem canonical_collapseOut (s : State) (f : FK) (o : SoftOp) (v : Word) (p : Bool) :
    Canonical (s.collapseOut f o v p) ↔ Canonical s := by simp [State.collapseOut]

theorem Canonical.collapseTo (h : Canonical s) (f : FK) (o : SoftOp) (id : Word) : Canonical (s.collapseTo f o id) := by
  have hx := h.tokenText o.kept id
  unfold State.collapseTo
  extract_lets x t r u
  have ht : Canonical t := (canonical_modE ..).2 hx
  have hu : Canonical u := (canonical_modE ..).2 ht
  clear_value t u
  split
  · exact (canonical_raiseHere ..).2 h
  · exact h.under h
  · simpa using hu

theorem Canonical.collapseChoice (h : Canonical s) (f : FK) (o : SoftOp) (l : List (Word × Word × Nat)) :
    Canonical (s.collapseChoice f o l) := by
  have ht : Canonical (if collapsePol f = 2 then s.modE (fun e => e.rngNext.2) else s) := .ite h h
  unfold State.collapseChoice
  dsimp only
  split
  · exact ht.collapseTo ..
  · exact (canonical_collapseOut ..).2 ht

theorem Canonical.collapseDone (h : Canonical s) (f : FK) (o : SoftOp) : Canonical (s.collapseDone f o) := by
  have ha := h.allowed o (s.nowE.soft (stOf f))
  simp only [State.collapseDone]
  split_ifs
  · simpa using h
  · simpa using ha
  · simpa using ha
  · exact ha.collapseChoice ..

theorem Canonical.gmskDone (h : Canonical s) (f : FK) (o : SoftOp) : Canonical (s.gmskDone f o) :=
  (canonical_modE ..).2 (List.foldlRecOn (motive := fun p : BitVec 16 × State => Canonical p.2) _ _ h fun _ h _ _ => h.grammarMask ..)

theorem Canonical.gstpDone (h : Canonical s) (f : FK) (o : SoftOp) : Canonical (s.gstpDone f o) := by
  have hr := h.vocabRead [] (s.nowE.dc.transVa o.a) 4
  simp only [State.gstpDone]
  split_ifs
  · exact h
  · exact h
  · simpa using hr
  · simpa using hr

theorem Canonical.readRecord (h : Canonical s) {pos : Nat} {rec pay : List Byte} {t : State} (ht : s.readRecord pos = some (rec, pay, t)) :
    Canonical t := by
  have hu := (canonical_cmpBytes _ (s.nowE.dc.lbase + 64 * pos) 64).2 (h.readVa s.rg.func s.page (s.nowE.dc.lbase + 64 * pos) 64 0)
  simp only [State.readRecord] at ht
  generalize State.cmpBytes _ (s.nowE.dc.lbase + 64 * pos) 64 = u at hu ht
  split_ifs at ht <;> cases ht
  · exact hu
  · exact hu
  · exact (canonical_cmpBytes ..).2 (hu.readVa ..)

theorem Canonical.prplDone (h : Canonical s) (f : FK) (o : SoftOp) : Canonical (s.prplDone f o) := by
  simp only [State.prplDone]
  split
  · exact (canonical_raiseHere ..).2 h
  · next ht =>
    have hu := h.readRecord ht
    split_ifs <;> simp only [canonical_raiseHere, canonical_modE] <;> split <;> exact hu

theorem Canonical.needsWait (h : Canonical s) {stamp : Nat} {sched : Bool} {l : List (Nat × Nat)} {t : State}
    (ht : s.needsWait stamp sched l = some t) : Canonical t := by
  obtain ⟨q, -, hq⟩ := List.exists_of_findSome?_eq_some ht
  exact h.engineWait hq

end Soft

/-! ## The comparison of a firing: flipped lanes lie in the region (R210, R211) -/

section Compared

variable (t : State)

@[simp] theorem canonical_flipDst (d : Nat) (m : Word) : Canonical (t.flipDst d m) ↔ Canonical t := by
  simp only [State.flipDst]
  split_ifs
  · rfl
  · rfl
  · split <;> rfl
  · rfl
  · rfl

@[simp] theorem canonical_flipFired (a : State) (i : Instr) (m : Word) : Canonical (t.flipFired a i m) ↔ Canonical t := by
  unfold State.flipFired
  extract_lets u old v
  have hv : Canonical v ↔ Canonical t := canonical_foldl _ fun _ _ => canonical_flipDst ..
  clear_value v
  split
  · exact hv
  · exact hv
  · exact hv
  · exact hv
  · exact hv
  · split <;> exact hv
  · split <;> exact hv
  · exact hv

@[simp] theorem canonical_flipTile (i : Instr) (m : Word) : Canonical (t.flipTile i m) ↔ Canonical t := by
  unfold State.flipTile
  extract_lets acc
  split <;> rfl

@[simp] theorem canonical_compared (a : State) (i : Instr) (tile : Bool) : Canonical (t.compared a i tile) ↔ Canonical t := by
  have hf : Canonical (t.flipped a i tile) ↔ Canonical t := by
    unfold State.flipped
    split
    · split <;> simp
    · rfl
  simp only [State.compared]
  split <;> simpa using hf

end Compared

/-! ## Folios and held rows (R158 to R161, R213 to R225) -/

section Folios

variable (s : State)

@[simp] theorem canonical_landFolm (f : FX) (o : NodeOp) : Canonical (s.landFolm f o) ↔ Canonical s := by
  simp only [State.landFolm]; split_ifs <;> simp

@[simp] theorem canonical_markSectors (pa n : Nat) (bad : List Nat) : Canonical (s.markSectors pa n bad) ↔ Canonical s := .rfl

@[simp] theorem canonical_modHold (row : Nat) (f : RowHold → RowHold) : Canonical (s.modHold row f) ↔ Canonical s := .rfl

@[simp] theorem canonical_releaseHold (pa : Nat) : Canonical (s.releaseHold pa) ↔ Canonical s := .rfl

@[simp] theorem canonical_writeFolio (func : Nat) (d : FolioDecl) (k : Folio) (home : Elem) :
    Canonical (s.writeFolio func d k home) ↔ Canonical s := by
  simp only [State.writeFolio, canonical_modTenant]
  cases Option.map _ _ <;> simp

@[simp] theorem canonical_writeFoliosOf (g : Region) (sg : Nat) : Canonical (s.writeFoliosOf g sg) ↔ Canonical s :=
  canonical_foldl _ fun _ _ => canonical_writeFolio ..

@[simp] theorem canonical_writeFolios (r sg : Nat) : Canonical (s.writeFolios r sg) ↔ Canonical s := canonical_writeFoliosOf s _ sg

end Folios

/-! ## Yield requests, choices, releases and ends of loads (R52, R66 to R75, R85, R119) -/

section Scheduling

variable (s : State)

@[simp] theorem canonical_yieldBreak (r : Nat) : Canonical (s.yieldBreak r) ↔ Canonical s := by
  unfold State.yieldBreak; split <;> simp

@[simp] theorem canonical_askYield (r : Nat) (own : Bool) : Canonical (s.askYield r own) ↔ Canonical s := by
  simp only [State.askYield]
  split
  · rfl
  · split
    · simp
    · simp
    · split <;> simp
    · split <;> simp
    · simp

@[simp] theorem canonical_askBudget : Canonical s.askBudget ↔ Canonical s := canonical_foldl _ fun _ _ => by split <;> simp

@[simp] theorem canonical_askYields (c : Option Ready) : Canonical (s.askYields c) ↔ Canonical s := by
  refine (canonical_askBudget _).trans ?_
  split
  · split
    · rfl
    · simp only [State.askPriority]
      split
      · rfl
      · exact canonical_foldl _ fun _ _ => canonical_askYield ..
  · rfl

@[simp] theorem canonical_replenish (l : List Nat) : Canonical (s.replenish l) ↔ Canonical s := by
  simp only [State.replenish]
  split
  · rfl
  · exact canonical_foldl _ fun _ _ => canonical_modTenant ..

@[simp] theorem canonical_choose : Canonical s.choose ↔ Canonical s := by
  unfold State.choose
  extract_lets el p at_ cand t f
  have ht : Canonical t ↔ Canonical s := canonical_replenish s cand
  clear_value t
  split
  · rfl
  · split <;> exact (canonical_congr (s := t) rfl).trans ht

@[simp] theorem canonical_choiceAfter (p : Nat) : Canonical (s.choiceAfter p) ↔ Canonical s := by
  simp only [State.choiceAfter, canonical_askYields]
  split
  · simp
  · split
    · simp
    · rfl

@[simp] theorem canonical_choiceEvent : Canonical s.choiceEvent ↔ Canonical s := canonical_choiceAfter s 0

@[simp] theorem canonical_releaseLoad (func : Nat) (tag : Word) (load : Nat) : Canonical (s.releaseLoad func tag load) ↔ Canonical s := by
  simp only [State.releaseLoad]
  split
  · rfl
  · split
    · rfl
    · split
      · simp
      · rfl

@[simp] theorem canonical_dropRegion (r : Nat) : Canonical (s.dropRegion r) ↔ Canonical s := .rfl

@[simp] theorem canonical_releaseNext (func : Nat) (tag : Word) : Canonical (s.releaseNext func tag) ↔ Canonical s := by
  unfold State.releaseNext
  split
  · rfl
  · refine canonical_foldl _ fun t _ => ?_
    exact canonical_lat t

@[simp] theorem canonical_dropRegionsOf (func : Nat) (tag : Word) : Canonical (s.dropRegionsOf func tag) ↔ Canonical s :=
  canonical_foldl _ fun _ _ => by split <;> simp

end Scheduling

/-! ## Prefix operations and windows (R112 to R114, R237, R410, R411) -/

section Windows

variable {s : State}

theorem Canonical.prefixFetch (h : Canonical s) {blk : Nat} {hb recs : List Byte} {bad : Option Nat} {t : State}
    (ht : s.prefixFetch blk = some (hb, recs, bad, t)) : Canonical t := by
  have hf : ∀ hb recs bad t, s.prefixFetch blk = some (hb, recs, bad, t) → Canonical t := by
    refine List.foldlRecOn (motive := fun acc : Option (List Byte × List Byte × Option Nat × State) =>
      ∀ hb recs bad t, acc = some (hb, recs, bad, t) → Canonical t) _ _ ?_ fun acc ih i _ => ?_
    · rintro _ _ _ _ ⟨⟩
      exact h
    · intro hb recs bad t ht
      split at ht
      · cases ht
      · split at ht <;> cases ht
        next hr => exact (ih _ _ _ _ rfl).readRecord hr
  exact hf _ _ _ _ ht

@[simp] theorem canonical_atWin (s : State) (w : Win) : Canonical (s.atWin w) ↔ Canonical s := .rfl
@[simp] theorem canonical_softWrite (s : State) (a : Nat) (b : List Byte) : Canonical (s.softWrite a b) ↔ Canonical s := .rfl
@[simp] theorem canonical_holdPrefix (s : State) (h : BitVec 64) (r : List Byte) : Canonical (s.holdPrefix h r) ↔ Canonical s := .rfl
@[simp] theorem canonical_winFault (s : State) (w : Win) (c : Nat) : Canonical (s.winFault w c) ↔ Canonical s := .rfl

@[simp] theorem canonical_prefixAct (s : State) (w : Win) (mode a : Nat) (prev : BitVec 64) (hb recs : List Byte) :
    Canonical (s.prefixAct w mode a prev hb recs).2 ↔ Canonical s := by
  simp only [State.prefixAct]
  split
  · split <;> simp
  · simp
  · simp

@[simp] theorem canonical_winValue (s : State) (w : Win) : Canonical (s.winValue w).2 ↔ Canonical s := by
  simp only [State.winValue]
  split
  · rfl
  · rfl
  · split
    · rfl
    · dsimp only
      split <;> rfl
  · rfl
  · rfl
  · dsimp only
    split <;> rfl
  · rfl

@[simp] theorem canonical_endWin (s : State) (l : Nat) (w : Win) (v : Word) : Canonical (s.endWin l w v) ↔ Canonical s := by
  simp only [State.endWin, canonical_modE, canonical_putRaw]
  split <;> simp

theorem Canonical.rowFetch (h : Canonical s) (l : Nat) (w : Win) (pa va ready seq : Nat) (after : List Nat) :
    Canonical (s.rowFetch l w pa va ready seq after) := by
  have ht := h.touchRead s.rg.func s.page va pa 4 0
  simp only [State.rowFetch]
  split
  · rw [canonical_modE]
    split <;> exact ht
  · exact h

theorem Canonical.textFetch (h : Canonical s) (l : Nat) (w : Win) (due id a : Nat) : Canonical (s.textFetch l w due id a) := by
  have ht : Canonical (s.atWin w) := h
  simp only [State.textFetch]
  split
  · exact h
  · split
    · next hw => exact h.needsWait hw
    · exact (canonical_setFocus ..).2 ((canonical_modE ..).2 (ht.tokenText ..))

theorem Canonical.blockFetch (h : Canonical s) (l : Nat) (w : Win) (due mode blk a : Nat) (p : BitVec 64) :
    Canonical (s.blockFetch l w due mode blk a p) := by
  have hu : Canonical (s.atWin w) := h
  simp only [State.blockFetch]
  split
  · exact h
  · split
    · next hw => exact h.needsWait hw
    · split
      · exact h
      · next ht =>
        have hp := hu.prefixFetch ht
        refine (canonical_setFocus ..).2 ((canonical_modE ..).2 ?_)
        split
        · exact (canonical_consumed ..).2 hp
        · exact hp

end Windows

/-! ## Rounds, and the commit: what it performs writes device and host memory (R120 to R123, R165 to R175) -/

section Rounds

variable {s : State}

@[simp] theorem canonical_atKey (s : State) (k : Nat) : Canonical (s.atKey k) ↔ Canonical s := .rfl
@[simp] theorem canonical_atItem (s : State) (i : Staged) : Canonical (s.atItem i) ↔ Canonical s := .rfl
@[simp] theorem canonical_beginRound (s : State) (r : Nat) : Canonical (s.beginRound r) ↔ Canonical s := .rfl
@[simp] theorem canonical_endHolds (s : State) (r : Nat) : Canonical (s.endHolds r) ↔ Canonical s := .rfl

@[simp] theorem canonical_flushParts (s : State) : Canonical s.flushParts ↔ Canonical s :=
  canonical_foldl _ fun t p => canonical_foldl _ fun u q => by split <;> simp

@[simp] theorem canonical_evict (s : State) (sg : Nat) (w : EWord) : Canonical (s.evict sg w) ↔ Canonical s := by
  unfold State.evict
  extract_lets t u
  exact (canonical_foldl _ fun v i => by simp).trans .rfl

@[simp] theorem canonical_evictAll (s : State) (final : Nat → Bool) : Canonical (s.evictAll final) ↔ Canonical s := by
  refine canonical_foldl _ fun t sg => ?_
  split
  · rfl
  · exact canonical_foldl _ fun u w => canonical_evict ..

/-- Bytes written to host memory. -/
theorem Canonical.setHost (h : Canonical s) (a : Nat) (l : List Byte) : Canonical { s with host := s.host.writeN a l } :=
  ⟨h.1, h.2.1, Memory.wf_writeN _ _ h.2.2⟩

theorem Canonical.performItem (h : Canonical s) (i : Staged) : Canonical (s.performItem i) := by
  unfold State.performItem
  extract_lets t func by_
  have ht : Canonical t := (canonical_atItem ..).2 h
  clear_value t
  split
  · extract_lets u
    have hu : Canonical u := ht.storeVa ..
    exact .ite hu hu
  · exact ht.storeVa ..
  · exact .ite ((canonical_modR ..).2 ((canonical_endLaunch ..).2 ht)) (ht.setHost ..)
  · exact (canonical_portSend ..).2 ht
  · exact .ite ((canonical_dropVocab ..).2 ht) (ht.cmoRange ..)
  · exact ht.cleanThrough ..
  · exact .ite ((canonical_unpinReg ..).2 ht) ((canonical_unpinReg ..).2 ht)
  · exact (canonical_unpinReg ..).2 ht
  · exact ht

theorem Canonical.itemWait (h : Canonical s) {i : Staged} {t : State} (ht : s.itemWait i = some t) : Canonical t := by
  simp only [State.itemWait] at ht
  obtain ⟨q, -, hq⟩ := Option.bind_eq_some_iff.1 ht
  split_ifs at hq
  · cases hq
    exact h
  · cases hq
    exact h
  · exact h.engineWait hq

/-- The items of a run are performed in turn until one has to wait. -/
theorem Canonical.performRun (l : List Staged) (h : Canonical s) : Canonical (s.performRun l).2 := by
  induction l generalizing s with
  | nil => exact h
  | cons i rest ih =>
    unfold State.performRun
    split
    · exact ih ((canonical_modR ..).2 h)
    · split
      · next ht => exact Canonical.itemWait ((canonical_atItem ..).2 h) ht
      · exact ih (h.performItem i)

@[simp] theorem canonical_foldTenant (s : State) (g : Region) (f : Nat) : Canonical (s.foldTenant g f) ↔ Canonical s := by
  simp only [State.foldTenant]
  split
  · rfl
  · refine canonical_foldl _ fun u i => ?_
    split
    · exact (canonical_foldl _ fun w _ => canonical_eventMsg ..).trans .rfl
    · rfl

@[simp] theorem canonical_foldRound (s : State) (r : Nat) : Canonical (s.foldRound r) ↔ Canonical s := by
  have hf : ∀ g : Region, Canonical ((s.tenants.map Prod.fst).foldl (fun u f => u.foldTenant g f) s) ↔ Canonical s := fun g =>
    canonical_foldl _ fun u f => canonical_foldTenant ..
  simp only [State.foldRound]
  split <;> simp [hf]

@[simp] theorem canonical_dropSaved (s : State) (g : Region) (wb : Bool) : Canonical (s.dropSaved g wb) ↔ Canonical s := by
  unfold State.dropSaved
  extract_lets t
  have ht : Canonical t ↔ Canonical s := by
    unfold t
    split
    · exact canonical_foldl _ fun u sg => by split <;> simp
    · rfl
  clear_value t
  exact (canonical_congr (s := t) rfl).trans ht

@[simp] theorem canonical_haltLaunch (s : State) (func : Nat) (tag : Word) : Canonical (s.haltLaunch func tag) ↔ Canonical s := by
  unfold State.haltLaunch
  extract_lets mine t
  have ht : Canonical t ↔ Canonical s := (canonical_foldl _ fun u i => by split <;> simp).trans (canonical_modLaunch ..)
  clear_value t
  exact (canonical_congr (s := t) rfl).trans ht

@[simp] theorem canonical_lateItem (s : State) (i : Staged) : Canonical (s.lateItem i) ↔ Canonical s := by
  simp only [State.lateItem]
  split
  · split
    · split
      · split <;> simp
      · simp
    · simp
  · split <;> simp
  · simp
  · simp
  · simp
  · simp
  · simp
  · simp

@[simp] theorem canonical_pmItem (s : State) (i : Staged) : Canonical (s.pmItem i) ↔ Canonical s := by
  unfold State.pmItem; split <;> simp

@[simp] theorem canonical_passSig (s : State) (r sg : Nat) : Canonical (s.passSig r sg) ↔ Canonical s := by
  unfold State.passSig
  extract_lets t
  have ht : Canonical t ↔ Canonical s := by simp [t]
  clear_value t
  exact (canonical_congr (s := t) rfl).trans ht

@[simp] theorem canonical_endRegion (s : State) (r : Nat) : Canonical (s.endRegion r) ↔ Canonical s := by
  have hd : ∀ (t : State) (g : Region), Canonical (t.dropChains g) ↔ Canonical t := fun t g =>
    canonical_foldl _ fun u a => by split <;> simp
  simp only [State.endRegion]
  split <;> simp [hd]

@[simp] theorem canonical_startBound (s : State) (r : Nat) : Canonical (s.startBound r) ↔ Canonical s := by
  unfold State.startBound; split <;> simp

@[simp] theorem canonical_finishSave (s : State) (r : Nat) : Canonical (s.finishSave r) ↔ Canonical s := by
  unfold State.finishSave
  extract_lets g t u kept
  have hu : Canonical u ↔ Canonical s := (canonical_congr (s := t) rfl).trans (by simp [t])
  clear_value u
  split
  · exact (canonical_congr (s := u) rfl).trans hu
  · exact (canonical_dropRegion ..).trans hu

theorem Canonical.reopenRows (h : Canonical s) (r : Nat) : Canonical (s.reopenRows r) :=
  h.foldl fun _ _ h => .ite (h.flushLines ..) h

theorem Canonical.forwardMe (h : Canonical s) (a : AdderDecl) (w : Word) : Canonical (s.forwardMe a w) := by
  unfold State.forwardMe
  extract_lets _ t st _ va u
  have ht : Canonical t := (canonical_setFocus ..).2 h
  have hu : Canonical u := by
    unfold u
    split
    · exact (canonical_raise ..).2 ht
    · split
      · exact (canonical_appendHost ..).2 ht
      · split
        · exact (canonical_raise ..).2 (ht.faultWalks ..)
        · exact (canonical_raise ..).2 (ht.faultWalks ..)
        · exact (canonical_modE ..).2 ((canonical_feedAll ..).2 ((canonical_stage ..).2 ((canonical_walkStore ..).2 ht)))
  exact (canonical_setFocus ..).2 hu

end Rounds

/-! ## Tables: firmware writes their entries and clears their pages (R138, R139, R142) -/

section Tables

variable {s : State}

/-- Both views of device memory changed, and nothing that the canonical form speaks of besides. -/
theorem Canonical.setMemory (h : Canonical s) {t : State} (hh : t.host = s.host) (hc : s.coh.wf = true → t.coh.wf = true)
    (hd : s.dram.wf = true → t.dram.wf = true) : Canonical t := by
  obtain ⟨wc, wd, wh⟩ := h
  exact ⟨hc wc, hd wd, hh ▸ wh⟩

theorem Canonical.clearRange (h : Canonical s) (a n : Nat) : Canonical (s.clearRange a n) :=
  h.setMemory rfl (Memory.wf_clear a n) (Memory.wf_clear a n)

theorem Canonical.flushRanges (h : Canonical s) (l : List (Nat × Nat)) : Canonical (s.flushRanges l) := h.flushLines ..

theorem Canonical.moveUnit (h : Canonical s) (src dst : Nat) : Canonical (s.moveUnit src dst) :=
  h.setMemory rfl (Memory.wf_copy src dst unitBytes) fun hd => Memory.wf_foldl _ _ (Memory.wf_clear dst unitBytes hd)

theorem Canonical.putDram (h : Canonical s) (a : Nat) (l : List Byte) : Canonical (s.putDram a l) :=
  h.setMemory rfl (Memory.wf_writeN a l) (Memory.wf_writeN a l)

theorem Canonical.setEntry (h : Canonical s) (pa : Nat) (e : BitVec 64) : Canonical (s.setEntry pa e) := h.putDram ..

theorem Canonical.newTable (h : Canonical s) {func : Nat} {p : Nat × State} (hp : s.newTable func = some p) : Canonical p.2 := by
  obtain ⟨a, -, rfl⟩ := Option.map_eq_some_iff.1 hp
  exact (canonical_modTenant ..).2 (h.clearRange a 4096)

/-- A path of tables, made with what makes a table, keeps the canonical form where that does. -/
theorem Canonical.descend (h : Canonical s) {make : State → Option (Nat × State)} (hm : ∀ t p, Canonical t → make t = some p → Canonical p.2)
    {off a k l base : Nat} {p : Nat × State} (hp : s.descend make off a k l base = some p) : Canonical p.2 := by
  induction k generalizing s l base with
  | zero =>
    cases hp
    exact h
  | succ k ih =>
    rw [State.descend] at hp
    split at hp
    · exact ih h hp
    · split at hp
      · cases hp
      · next hq => exact ih ((hm _ _ h hq).setEntry ..) hp

theorem Canonical.hostPath (h : Canonical s) {func gpa : Nat} {p : Nat × State} (hp : s.hostPath func gpa = some p) : Canonical p.2 := by
  have hm : ∀ (t : State) p, Canonical t → t.newTable func = some p → Canonical p.2 := fun _ _ h => h.newTable
  unfold State.hostPath at hp
  dsimp only at hp
  split at hp
  · cases hp
  · obtain ⟨q, hq, hp⟩ := Option.bind_eq_some_iff.1 hp
    exact ((canonical_modTenant ..).2 (hm _ _ h hq)).descend hm hp
  · exact h.descend hm hp

theorem Canonical.hostLeaf (h : Canonical s) {func gpa pa : Nat} {t : State} (ht : s.hostLeaf func gpa pa = some t) : Canonical t := by
  obtain ⟨p, hp, rfl⟩ := Option.map_eq_some_iff.1 ht
  exact (h.hostPath hp).setEntry ..

theorem Canonical.newGuestTable (h : Canonical s) {func : Nat} {p : Nat × State} (hp : s.newGuestTable func = some p) : Canonical p.2 := by
  obtain ⟨q, hq, hp⟩ := Option.bind_eq_some_iff.1 hp
  split at hp
  · cases hp
    exact h.newTable hq
  · obtain ⟨t, ht, rfl⟩ := Option.map_eq_some_iff.1 hp
    exact (h.newTable hq).hostLeaf ht

theorem Canonical.guestPath (h : Canonical s) {func va : Nat} {p : Nat × State} (hp : s.guestPath func va = some p) : Canonical p.2 := by
  have hm : ∀ (t : State) p, Canonical t → t.newGuestTable func = some p → Canonical p.2 := fun _ _ h => h.newGuestTable
  unfold State.guestPath at hp
  dsimp only at hp
  split at hp
  · cases hp
  · obtain ⟨q, hq, hp⟩ := Option.bind_eq_some_iff.1 hp
    exact ((canonical_modTenant ..).2 (hm _ _ h hq)).descend hm hp
  · exact h.descend hm hp

theorem Canonical.makePaths (h : Canonical s) {b : Buffer} {k : Nat} {t : State} (ht : s.makePaths b k = some t) : Canonical t := by
  obtain ⟨p, hp, ht⟩ := Option.bind_eq_some_iff.1 ht
  split at ht
  · cases ht
    exact h.guestPath hp
  · obtain ⟨q, hq, rfl⟩ := Option.map_eq_some_iff.1 ht
    exact (h.guestPath hp).hostPath hq

theorem Canonical.mapBufUnit (h : Canonical s) {b : Buffer} {k : Nat} {t : State} (ht : s.mapBufUnit b k = some t) : Canonical t := by
  obtain ⟨p, hp, ht⟩ := Option.bind_eq_some_iff.1 ht
  have hl := (h.guestPath hp).setEntry
  split at ht
  · cases ht
    exact hl ..
  · exact (hl ..).hostLeaf ht

theorem Canonical.unmapBufUnit (h : Canonical s) (b : Buffer) (k : Nat) : Canonical (s.unmapBufUnit b k) := by
  unfold State.unmapBufUnit
  extract_lets va t
  have ht : Canonical t := by
    unfold t
    split
    · next hp => exact (h.guestPath hp).setEntry ..
    · exact h
  clear_value t
  split
  · exact ht
  · split
    · next hp => exact (ht.hostPath hp).setEntry ..
    · exact ht

theorem Canonical.unmapBuf (h : Canonical s) (b : Buffer) : Canonical (s.unmapBuf b) := h.foldl fun _ k h => h.unmapBufUnit b k

@[simp] theorem canonical_flushTables (s : State) (func : Nat) : Canonical (s.flushTables func) ↔ Canonical s := .rfl

/-- Steps that may find no room keep the canonical form together where each does. -/
theorem Canonical.foldl_bind {α : Type} {f : State → α → Option State} (l : List α) {o : Option State} (ho : ∀ t, o = some t → Canonical t)
    (hf : ∀ t a u, Canonical t → f t a = some u → Canonical u) {t : State} (ht : l.foldl (fun t k => t.bind (fun t => f t k)) o = some t) :
    Canonical t := by
  induction l generalizing o with
  | nil => exact ho t ht
  | cons a l ih =>
    refine ih (fun u hu => ?_) ht
    obtain ⟨v, hv, hu⟩ := Option.bind_eq_some_iff.1 hu
    exact hf v a u (ho v hv) hu

theorem Canonical.overUnits (h : Canonical s) {l : List Nat} {f : State → Nat → Option State}
    (hf : ∀ t k u, Canonical t → f t k = some u → Canonical u) {t : State} (ht : overUnits l f s = some t) : Canonical t :=
  Canonical.foldl_bind l (by rintro _ ⟨⟩; exact h) hf ht

theorem Canonical.mapBuf (h : Canonical s) {b : Buffer} {t : State} (ht : s.mapBuf b = some t) : Canonical t := by
  obtain ⟨u, hu, rfl⟩ := Option.map_eq_some_iff.1 ht
  obtain ⟨v, hv, hu⟩ := Option.bind_eq_some_iff.1 hu
  refine (canonical_flushTables ..).2 (Canonical.overUnits ?_ (fun _ _ _ h => h.mapBufUnit) hu)
  split at hv
  · exact h.overUnits (fun _ _ _ h => h.makePaths) hv
  · cases hv
    exact h

theorem Canonical.moveTables (h : Canonical s) {l : List (Nat × Nat)} {t : State} (ht : s.moveTables l = some t) : Canonical t := by
  refine Canonical.foldl_bind _ (by rintro _ ⟨⟩; exact h) (fun t f u h hu => ?_) ht
  refine Canonical.foldl_bind _ ?_ (fun _ b _ h => h.mapBuf) hu
  rintro _ ⟨⟩
  exact (canonical_flushTables ..).2 ((canonical_modTenant ..).2 h)

theorem Canonical.moveSlots (h : Canonical s) {l : List (Nat × Nat)} {t : State} (ht : s.moveSlots l = some t) : Canonical t := by
  refine Canonical.foldl_bind _ (by rintro _ ⟨⟩; exact h) (fun t p u h hu => ?_) ht
  obtain ⟨a, -, rfl⟩ := Option.map_eq_some_iff.1 hu
  exact (canonical_modTenant ..).2 ((canonical_markSectors ..).2 h)

end Tables

/-! ## Buffers placed, moved, written at load and freed (R79 to R81, R151 to R155, R272, R431) -/

section Buffers

variable {s : State}

@[simp] theorem canonical_setBufs (s : State) (b : Tbl Buffer) : Canonical { s with bufs := b } ↔ Canonical s := .rfl
@[simp] theorem canonical_setBufsHot (s : State) (b : Tbl Buffer) (l : List (Nat × Nat)) :
    Canonical { s with bufs := b, hot := l } ↔ Canonical s := .rfl

/-- A buffer that finds no room for its tables stays unmapped. -/
theorem Canonical.getD (h : Canonical s) {o : Option State} (ho : ∀ t, o = some t → Canonical t) : Canonical (o.getD s) := by
  cases o with
  | none => exact h
  | some t => exact ho t rfl

theorem Canonical.moveBuffer (h : Canonical s) (n : Nat) (bases : List Nat) (home : Option Nat) : Canonical (s.moveBuffer n bases home) := by
  unfold State.moveBuffer
  split
  · exact h
  · next b _ =>
    extract_lets b' t u
    have ht : Canonical t := (h.flushRanges b.ranges).foldl fun _ _ h => .ite h (h.moveUnit ..)
    clear_value t
    have hu : Canonical u := (canonical_setBufs ..).2 ht
    exact hu.getD fun _ => hu.mapBuf

theorem Canonical.initBlocks (h : Canonical s) (b : Buffer) (k : Nat) : Canonical (s.initBlocks b k) :=
  .ite h (h.foldl fun _ _ h => h.putDram ..)

theorem Canonical.putData (h : Canonical s) (b : Buffer) (off : Nat) (l : List Byte) : Canonical (s.putData b off l) := by
  refine .ite (h.foldl fun _ _ h => h.putDram ..) (h.foldl fun t i h => h.foldl fun u p h => ?_)
  split
  · exact h.putDram ..
  · exact h

theorem Canonical.loadBuf (h : Canonical s) {func : Nat} {datas : List DataDecl} {d : BufDecl} {i : Nat} {p : Nat × State}
    (hp : s.loadBuf func datas d i = .ok p) : Canonical p.2 := by
  unfold State.loadBuf at hp
  dsimp only at hp
  split at hp
  · cases hp
  · split at hp
    · cases hp
    · split at hp
      · cases hp
      · next hu =>
        cases hp
        refine Canonical.foldl (Canonical.mapBuf (Canonical.foldl ?_ fun _ r h => h.clearRange ..) hu) fun _ k h => h.initBlocks ..
        exact (canonical_setBufs ..).2 ((canonical_fresh s).2 h)

theorem Canonical.loadBufs (h : Canonical s) {func : Nat} {datas : List DataDecl} {l : List (BufDecl × Nat)} {p : List Nat × State}
    (hp : s.loadBufs func datas l = .ok p) : Canonical p.2 := by
  induction l generalizing s p with
  | nil =>
    cases hp
    exact h
  | cons d rest ih =>
    rw [State.loadBufs] at hp
    split at hp
    · cases hp
    · next n t ht =>
      have h' : Canonical t := h.loadBuf ht
      split at hp
      · cases hp
      · next l u hu =>
        cases hp
        exact ih (p := (l, u)) h' hu

theorem Canonical.loadDatas (h : Canonical s) (bufs : List Nat) (datas : List DataDecl) : Canonical (s.loadDatas bufs datas) := by
  refine h.foldl fun t d h => ?_
  split
  · exact h.putData ..
  · exact h

theorem Canonical.dropBuf (h : Canonical s) (n : Nat) : Canonical (s.dropBuf n) := by
  unfold State.dropBuf
  split
  · exact h
  · next b _ =>
    extract_lets t
    have ht : Canonical t := (canonical_flushTables ..).2 ((h.flushRanges b.ranges).unmapBuf b)
    clear_value t
    exact (canonical_setBufsHot ..).2 ht

theorem Canonical.backUnit (h : Canonical s) (func va : Nat) : Canonical (s.backUnit func va) := by
  unfold State.backUnit
  split
  · exact h
  · refine h.foldl fun t k h => ?_
    extract_lets b' u v
    have hv : Canonical v := Canonical.initBlocks ((canonical_setBufs ..).2 (h.clearRange ..)) ..
    exact (canonical_flushTables ..).2 (hv.getD fun _ => hv.mapBufUnit)

/-- The search for room has 2^22 steps, so the proof speaks of any search: the kernel must not run it. -/
theorem Canonical.homeBufs (h : Canonical s) (l : Launch) (at_ : List (SigDecl × Nat)) (moved : List Nat) :
    Canonical (s.homeBufs l at_ moved).1 := by
  obtain ⟨room, hroom⟩ : ∃ f, State.roomAt = f := ⟨_, rfl⟩
  unfold State.homeBufs
  rw [hroom]
  refine List.foldlRecOn (motive := fun p : State × Nat × List Nat => Canonical p.1) _ _ h fun p h n _ => ?_
  dsimp only
  split
  · exact h
  · split
    · exact (canonical_setBufs ..).2 h
    · split
      · exact h
      · exact (canonical_setBufs ..).2 (h.moveBuffer ..)

@[simp] theorem canonical_loadStatic (s : State) (l : Launch) (d : SigDecl) (page : Nat) : Canonical (s.loadStatic l d page) ↔ Canonical s := .rfl

end Buffers

/-! ## Binding (R78 to R81, R125) -/

section Binding

variable {s : State}

@[simp] theorem canonical_refuseLoad (s : State) (i : Ready) (e : BindErr) : Canonical (s.refuseLoad i e) ↔ Canonical s := by
  simp only [State.refuseLoad, canonical_endLaunch]
  exact (canonical_send ..).trans .rfl

theorem Canonical.bindItem (h : Canonical s) (i : Ready) (l : Launch) (pages : List Nat) : Canonical (s.bindItem i l pages) := by
  unfold State.bindItem
  extract_lets placed refusal before
  clear_value refusal
  cases refusal with
  | some e => exact (canonical_refuseLoad ..).2 h
  | none =>
    have ht := h.homeBufs l (placed.map fun p => (p.decl, p.page)) before
    generalize s.homeBufs l (placed.map fun p => (p.decl, p.page)) before = p at ht ⊢
    obtain ⟨t, bytes, moved⟩ := p
    have hu : Canonical (placed.foldl (fun (u : State) p => u.loadStatic l p.decl p.page) t) :=
      (canonical_foldl _ fun _ _ => canonical_loadStatic ..).2 ht
    dsimp only
    generalize placed.foldl (fun (u : State) p => u.loadStatic l p.decl p.page) t = u at hu ⊢
    have hv := (canonical_lat _).2 ((canonical_latMost _ (if i.saved.isSome then 18000 else 8000)).2 ((canonical_fresh u).2 hu))
    generalize (State.latMost _ _).2.lat.2 = v at hv ⊢
    exact (canonical_congr (s := v) rfl).2 hv

end Binding

/-! ## The message layer (R38 to R44, R48, R57) -/

section Nmp

variable {s : State}

@[simp] theorem canonical_setNmp (s : State) (n : Nmp) : Canonical { s with nmp := n } ↔ Canonical s := .rfl

@[simp] theorem canonical_acknowledge (s : State) (v : Word) : Canonical (s.acknowledge v) ↔ Canonical s := by
  simp only [State.acknowledge]; split <;> rfl

@[simp] theorem canonical_accept (s : State) (m : MsgHdr) : Canonical (s.accept m) ↔ Canonical s := canonical_acknowledge ..

/-- A host message keeps the canonical form where its effect does. -/
theorem Canonical.receive (h : Canonical s) {i : Instr} {m : MsgHdr} {kind : Nat} {mgmt bad : Bool} {check : Nat} {eff : State → State}
    (he : ∀ t, Canonical t → Canonical (eff t)) : Canonical (s.receive i m kind mgmt bad check eff) := by
  have hu : ∀ t, Canonical t → Canonical (t.takeUp m kind mgmt bad check eff) := fun t ht =>
    have ha := (canonical_ack t m kind (t.msgStatus m mgmt bad check)).2 ht
    .ite (he _ ha) ha
  have ha := (canonical_accept s m).2 h
  unfold State.receive
  split_ifs
  · exact hu s h
  · exact h
  · split
    · exact h
    · exact h
    · exact h
    · exact .ite ((canonical_setNmp ..).2 ha) (hu _ ha)

@[simp] theorem canonical_issue (s : State) (m : DMsg) : Canonical (s.issue m) ↔ Canonical s := by
  unfold State.issue
  cases m.eff <;> rfl

@[simp] theorem canonical_sendSnapshot (s : State) : Canonical s.sendSnapshot ↔ Canonical s := by
  unfold State.sendSnapshot; split <;> rfl

@[simp] theorem canonical_ackBudget (s : State) (b : Budget) : Canonical (s.ackBudget b) ↔ Canonical s := .rfl

@[simp] theorem canonical_cancelLaunch (s : State) (l : Launch) : Canonical (s.cancelLaunch l) ↔ Canonical s := by
  unfold State.cancelLaunch; split <;> simp

@[simp] theorem canonical_cancelAll (s : State) (func : Nat) : Canonical (s.cancelAll func) ↔ Canonical s := by
  unfold State.cancelAll
  split
  · rfl
  · exact canonical_foldl _ canonical_cancelLaunch

end Nmp

/-! ## Tenants freed, images put into slots, and signals (R49, R53, R55, R214) -/

section Images

variable {s : State}

theorem Canonical.freeTenant (h : Canonical s) (func : Nat) : Canonical (s.freeTenant func) := by
  unfold State.freeTenant
  extract_lets t u v
  have ht : Canonical t := (canonical_congr (s := s) rfl).2 h
  have hu : Canonical u := ht.foldl fun _ n h => .ite (h.dropBuf n) h
  clear_value t u
  have hv : Canonical v := hu.flushLines ..
  clear_value v
  exact (canonical_congr (s := v) rfl).2 hv

theorem Canonical.emptySlot (h : Canonical s) (func slot : Nat) : Canonical (s.emptySlot func slot) := by
  unfold State.emptySlot
  split
  · exact (canonical_modTenant ..).2 h
  · exact (canonical_modTenant ..).2 (h.foldl fun _ n h => h.dropBuf n)

theorem Canonical.newFolios (h : Canonical s) {func slot : Nat} {i : Image} {bufs : List Nat} {t : State}
    (ht : s.newFolios func slot i bufs = some t) : Canonical t := by
  refine Canonical.foldl_bind _ (by rintro _ ⟨⟩; exact h) (fun t y u h hu => ?_) ht
  obtain ⟨a, -, rfl⟩ := Option.map_eq_some_iff.1 hu
  exact (canonical_modTenant ..).2 ((canonical_markSectors ..).2 h)

theorem Canonical.placeImage (h : Canonical s) {func slot : Nat} {i : Image} {t : State} (ht : s.placeImage func slot i = .ok t) :
    Canonical t := by
  unfold State.placeImage at ht
  split at ht
  · cases ht
  · dsimp only at ht
    split at ht
    · cases ht
    · split at ht
      · cases ht
      · next bufs u hu =>
        have h' : Canonical u := h.loadBufs hu
        split at ht
        · cases ht
        · next hv =>
          cases ht
          exact (canonical_modTenant ..).2 ((h'.loadDatas ..).newFolios hv)

theorem Canonical.loadImage (h : Canonical s) {func slot len : Nat} {b : List Byte} {t : State} (ht : s.loadImage func slot len b = .ok t) :
    Canonical t := by
  unfold State.loadImage at ht
  split at ht
  · cases ht
  · split at ht
    · cases ht
    · exact h.placeImage ht

theorem Canonical.resumeFault (h : Canonical s) (func : Nat) (q : FltRec) : Canonical (s.resumeFault func q) := by
  unfold State.resumeFault
  extract_lets n u v
  have hu : Canonical u := (canonical_setNmp ..).2 h
  have hv : Canonical v := .ite (hu.backUnit ..) hu
  clear_value u v
  have hw := (canonical_lat v).2 hv
  dsimp only
  generalize v.lat.2 = w at hw ⊢
  exact (canonical_choiceAfter ..).2 ((canonical_congr (s := w) rfl).2 hw)

end Images

/-! ## The viral state, ports and their traffic (R14, R15, R23 to R25, R159, R166) -/

section Links

variable {s : State}

@[simp] theorem canonical_goViral (s : State) (cause : Nat) : Canonical (s.goViral cause) ↔ Canonical s := by
  unfold State.goViral
  split
  · rfl
  · extract_lets t
    have ht : Canonical t ↔ Canonical s := canonical_congr (s := s) rfl
    clear_value t
    split
    · exact (canonical_issue ..).trans ht
    · exact ht

@[simp] theorem canonical_retrain (s : State) (p : Nat) : Canonical (s.retrain p) ↔ Canonical s := by
  unfold State.retrain
  split
  · exact (canonical_congr (s := s.lat.2) rfl).trans (canonical_lat s)
  · rfl

@[simp] theorem canonical_cross (s : State) (p : Nat) : Canonical (s.cross p) ↔ Canonical s := .rfl

@[simp] theorem canonical_watchPort (s : State) (pa n : Nat) : Canonical (s.watchPort pa n) ↔ Canonical s :=
  canonical_foldl _ fun _ _ => canonical_foldl _ fun _ _ => canonical_advanceVersion ..

theorem Canonical.portLine (h : Canonical s) (pa n : Nat) : Canonical (s.portLine pa n) := by
  unfold State.portLine
  extract_lets touch whole key
  split
  · exact h
  · exact (canonical_setL2 ..).2 (h.cleanSectors ..)

end Links

/-! ## Management commands (R60 to R62) -/

section Manage

variable {s : State}

@[simp] theorem canonical_mgmtDone (s : State) (kind status : Nat) (tag : Word) : Canonical (s.mgmtDone kind status tag) ↔ Canonical s :=
  (canonical_complete ..).trans .rfl

@[simp] theorem canonical_startDie (s : State) (comp d : Nat) : Canonical (s.startDie comp d) ↔ Canonical s := by
  unfold State.startDie
  extract_lets t u
  have ht : Canonical t ↔ Canonical s := .rfl
  have hu : Canonical u ↔ Canonical t := canonical_foldl _ fun v p => by split <;> simp
  clear_value t u
  split
  · exact (canonical_foldl _ canonical_retrain).trans (hu.trans ht)
  · exact hu.trans ht

@[simp] theorem canonical_askRetire (s : State) (tkind index : Nat) (l : List (Nat × Nat)) : Canonical (s.askRetire tkind index l) ↔ Canonical s :=
  canonical_foldl _ fun u p => by split <;> simp

@[simp] theorem canonical_exclude (s : State) (tkind index lane base ext : Nat) :
    Canonical (s.exclude tkind index lane base ext) ↔ Canonical s := by
  unfold State.exclude
  split_ifs
  · rfl
  · rfl
  · rfl
  · simp

theorem Canonical.vacateBuf (h : Canonical s) {n : Nat} {l : List (Nat × Nat)} {t : State} (ht : s.vacateBuf n l = some t) : Canonical t := by
  obtain ⟨part, hpart⟩ : ∃ f, State.newPart = f := ⟨_, rfl⟩
  unfold State.vacateBuf at ht
  rw [hpart] at ht
  split at ht
  · cases ht
    exact h
  · refine List.foldlRecOn (motive := fun o : Option State => ∀ t, o = some t → Canonical t) _ _ ?_ ?_ t ht
    · rintro _ ⟨⟩
      exact h
    · intro o ho j _ t ht
      split at ht
      · cases ht
      · next u =>
        have hu : Canonical u := ho u rfl
        split at ht
        · cases ht
          exact hu
        · dsimp only at ht
          split at ht
          · cases ht
            exact hu
          · split at ht
            · cases ht
            · cases ht
              exact (canonical_modTenant ..).2 (hu.moveBuffer ..)

theorem Canonical.vacate (h : Canonical s) {l : List (Nat × Nat)} {t : State} (ht : s.vacate l = some t) : Canonical t := by
  obtain ⟨u, hu, ht⟩ := Option.bind_eq_some_iff.1 ht
  obtain ⟨v, hv, ht⟩ := Option.bind_eq_some_iff.1 ht
  have h' : Canonical u := Canonical.foldl_bind _ (by rintro _ ⟨⟩; exact h) (fun _ _ _ h => h.vacateBuf) hu
  exact (h'.moveTables hv).moveSlots ht

@[simp] theorem canonical_dropDie (s : State) (d : Nat) : Canonical (s.dropDie d) ↔ Canonical s := by
  simp only [State.dropDie]
  split
  · rfl
  · exact canonical_foldl _ fun u p => canonical_modPort ..

@[simp] theorem canonical_endStranded (s : State) : Canonical s.endStranded ↔ Canonical s := canonical_foldl _ fun u p => by split <;> simp

@[simp] theorem canonical_readmit (s : State) (tkind index base ext : Nat) : Canonical (s.readmit tkind index base ext) ↔ Canonical s := by
  unfold State.readmit; split <;> rfl

end Manage

/-! ## Errors, walks and resets (R33 to R35, R137 to R141, R253) -/

section Environment

variable {s : State}

@[simp] theorem canonical_modDie (s : State) (d : Nat) (f : Die → Die) : Canonical (s.modDie d f) ↔ Canonical s := .rfl

@[simp] theorem canonical_uncorrectable (s : State) (kind loc : Nat) : Canonical (s.uncorrectable kind loc) ↔ Canonical s := by
  unfold State.uncorrectable
  extract_lets l poison
  split
  · rfl
  · exact canonical_goViral ..
  · rfl
  · rfl
  · rfl
  · rfl

@[simp] theorem canonical_startWalk (s : State) (abut : Nat) : Canonical (s.startWalk abut) ↔ Canonical s := by
  unfold State.startWalk
  split
  · split
    · rfl
    · exact (canonical_congr (s := s.lat.2) rfl).trans (canonical_lat s)
  · rfl

@[simp] theorem canonical_walkFault (s : State) (w : Walk) (code : Nat) : Canonical (s.walkFault w code) ↔ Canonical s := .rfl

@[simp] theorem canonical_lostWalk (s : State) (w : Walk) (code : Nat) : Canonical (s.lostWalk w code) ↔ Canonical s := by
  unfold State.lostWalk
  extract_lets g t
  have ht : Canonical t ↔ Canonical s := by
    unfold t
    split <;> simp
  clear_value t
  split
  · exact (canonical_beginWalk ..).trans ht
  · exact ht

@[simp] theorem canonical_failWalk (s : State) (w : Walk) (code : Nat) : Canonical (s.failWalk w code) ↔ Canonical s := by
  unfold State.failWalk; split <;> simp

@[simp] theorem canonical_translated (s : State) (id : Nat) : Canonical (s.translated id) ↔ Canonical s := by
  unfold State.translated
  split
  · rfl
  · split
    · simp
    · exact (canonical_modReads ..).trans (canonical_lat s)

@[simp] theorem canonical_installRange (s : State) (abut : Nat) (e : RangeEntry) : Canonical (s.installRange abut e) ↔ Canonical s := by
  exact canonical_congr (s := s) rfl

@[simp] theorem canonical_endWalk (s : State) (w : Walk) : Canonical (s.endWalk w) ↔ Canonical s := by
  unfold State.endWalk
  split
  · rfl
  · split
    · simp
    · simp
    · split <;> simp

/-- A reset clears device memory; host memory stays (R35). -/
theorem Canonical.afterReset (h : Canonical s) (cause : BitVec 2) : Canonical (s.afterReset cause) := ⟨rfl, rfl, h.2.2⟩

end Environment

/-! ## What completes and keeps the canonical form -/

/-- A step completes in a state whose device and host memory are in canonical form. -/
def Keeps (o : Host.Outcome State Fault Refusal) : Prop := ∃ t, o = .next t ∧ Canonical t

theorem Keeps.go {t : State} (h : Canonical t) : Keeps (go t) := ⟨t, rfl, h⟩

/-! ## Host messages and the registers of the message layer (R36 to R58) -/

section Messages

variable {s : State} (h : Canonical s)
include h

/-- A message whose effect keeps the canonical form. -/
theorem keeps_receive {i : Instr} {m : MsgHdr} {kind : Nat} {mgmt bad : Bool} {check : Nat} {eff : State → State}
    (he : ∀ t, Canonical t → Canonical (eff t)) : Keeps (go (s.receive i m kind mgmt bad check eff)) := .go (h.receive he)

theorem keeps_tenantCreate (m : MsgHdr) (tgt cls : Byte) (ways : BitVec 16) (pages prio : Byte) (keys : BitVec 16) (rows quant rate : Word) :
    Keeps (execTenantCreate m tgt cls ways pages prio keys rows quant rate s) := keeps_receive h fun _ h => h

theorem keeps_tenantBudget (m : MsgHdr) (tgt cls : Byte) (ways : BitVec 16) (pages prio : Byte) (keys : BitVec 16) (rows quant rate : Word) :
    Keeps (execTenantBudget m tgt cls ways pages prio keys rows quant rate s) := by
  refine keeps_receive h fun t ht => ?_
  extract_lets u
  have hu : Canonical u := (canonical_choose ..).2 ((canonical_modTenant ..).2 ((canonical_ackBudget ..).2 ht))
  exact (canonical_askYields ..).2 hu

theorem keeps_tenantDestroy (m : MsgHdr) (tgt : Byte) : Keeps (execTenantDestroy m tgt s) :=
  keeps_receive h fun _ h => (canonical_cancelAll ..).2 ((canonical_modTenant ..).2 h)

theorem keeps_imageLoad (m : MsgHdr) (slot : Byte) (haddr : BitVec 64) (len : Word) : Keeps (execImageLoad m slot haddr len s) :=
  keeps_receive h fun t ht => (canonical_congr (s := t.lat.2) rfl).2 ((canonical_lat t).2 ht)

theorem keeps_endpointBind (m : MsgHdr) (slot set ep : Byte) (haddr ext : BitVec 64) : Keeps (execEndpointBind m slot set ep haddr ext s) :=
  keeps_receive h fun _ h => (canonical_modTenant ..).2 h

theorem keeps_launch (m : MsgHdr) (slot set : Byte) (graph : BitVec 16) (prio plen : Byte) (param : BitVec 384) :
    Keeps (execLaunch m slot set graph prio plen param s) := by
  refine keeps_receive h fun t ht => ?_
  split
  · exact ht
  · exact (canonical_modTenant ..).2 ht

theorem keeps_signalValue (m : MsgHdr) (ltag value : Word) : Keeps (execSignalValue m ltag value s) := by
  refine keeps_receive h fun t ht => ?_
  split
  · exact ht
  · exact (canonical_congr (s := t) rfl).2 ht

theorem keeps_signalResume (m : MsgHdr) (ltag fid : Word) : Keeps (execSignalResume m ltag fid s) := by
  refine keeps_receive h fun t ht => ?_
  split
  · exact ht
  · exact ht.resumeFault ..

theorem keeps_signalAbort (m : MsgHdr) (ltag fid : Word) : Keeps (execSignalAbort m ltag fid s) := by
  refine keeps_receive h fun t ht => ?_
  split
  · exact ht
  · exact (canonical_endLaunch ..).2 ht

theorem keeps_cancel (m : MsgHdr) (scope : Byte) (ltag : Word) : Keeps (execCancel m scope ltag s) := by
  refine keeps_receive h fun t ht => ?_
  split
  · split
    · exact (canonical_cancelLaunch ..).2 ht
    · exact ht
  · exact (canonical_cancelAll ..).2 ht

theorem keeps_query (m : MsgHdr) (sel : Byte) (ltag : Word) : Keeps (execQuery m sel ltag s) :=
  keeps_receive h fun _ h => (canonical_foldl _ canonical_send).2 h

theorem keeps_unknownKind (m : MsgHdr) (kind : Byte) : Keeps (execUnknownKind m kind s) := keeps_receive h fun _ h => h

theorem keeps_fwStage (m : MsgHdr) (haddr : BitVec 64) (len : Word) : Keeps (execFwStage m haddr len s) :=
  keeps_receive h fun t ht => (canonical_congr (s := t.lat.2) rfl).2 ((canonical_lat t).2 ht)

theorem keeps_fwActivate (m : MsgHdr) (dies comp : Byte) : Keeps (execFwActivate m dies comp s) :=
  keeps_receive h fun t ht => .ite ((canonical_complete ..).2 ht) ((canonical_startDie ..).2 ((canonical_congr (s := t) rfl).2 ht))

theorem keeps_calRun (m : MsgHdr) (tkind index : Byte) : Keeps (execCalRun m tkind index s) := by
  refine keeps_receive h fun t ht => ?_
  extract_lets u
  have hu : Canonical u := (canonical_congr (s := t) rfl).2 ht
  exact .ite ((canonical_modPort ..).2 ((canonical_retrain ..).2 hu)) hu

theorem keeps_retire (m : MsgHdr) (tkind index lane : Byte) (base ext : BitVec 64) : Keeps (execRetire m tkind index lane base ext s) :=
  keeps_receive h fun t ht => (canonical_askRetire ..).2 ((canonical_exclude ..).2 ((canonical_congr (s := t) rfl).2 ht))

theorem keeps_deviceMessageSend : Keeps (execDeviceMessageSend s) := by
  refine .go (.ite h ?_)
  split
  · exact (canonical_setNmp ..).2 h
  · exact (canonical_issue ..).2 ((canonical_setNmp ..).2 h)
  · exact h

omit h in
@[simp] theorem canonical_govern (s : State) (b : Budget) : Canonical (s.govern b) ↔ Canonical s := .rfl

theorem keeps_nmpctlResync : Keeps (execNmpctlResync s) := by
  unfold execNmpctlResync
  extract_lets n msgs t u
  have ht : Canonical t := (canonical_setNmp ..).2 ((canonical_foldl _ canonical_govern).2 h)
  have hu : Canonical u := (canonical_setNmp ..).2 ht
  exact .go (.ite hu ((canonical_sendSnapshot ..).2 hu))

theorem keeps_nmpctlHoldRelease : Keeps (execNmpctlHoldRelease s) :=
  have ht := (canonical_setNmp s { s.nmp with hold := false, held := false }).2 h
  .go (.ite ((canonical_sendSnapshot ..).2 ht) ht)

end Messages

/-! ## Management commands that end, and images (R49, R55, R59 to R62) -/

section Ends

variable {s : State} (h : Canonical s)
include h

theorem keeps_tenantDestroyDone (func : Nat) : Keeps (execTenantDestroyDone func s) := by
  refine .go (.ite ?_ h)
  split
  · exact (canonical_complete ..).2 (h.freeTenant func)
  · exact h

theorem keeps_imageLoadDone (func slot : Nat) (readOk : Bool) : Keeps (execImageLoadDone func slot readOk s) := by
  refine .go ?_
  split
  · exact h
  · next tag ha len _ =>
    extract_lets t u
    have ht : Canonical t := (canonical_congr (s := s) rfl).2 h
    have hu : Canonical u := ht.emptySlot func slot
    clear_value u
    refine .ite ((canonical_complete ..).2 hu) ?_
    split
    · next hv => exact (canonical_complete ..).2 (hu.loadImage hv)
    · exact (canonical_complete ..).2 hu

theorem keeps_fwStageDone (readOk : Bool) : Keeps (execFwStageDone readOk s) := by
  refine .go ?_
  split
  · exact (canonical_mgmtDone ..).2 ((canonical_congr (s := s) rfl).2 h)
  · exact h

theorem keeps_fwActivateDieDone (ok : Bool) : Keeps (execFwActivateDieDone ok s) := by
  refine .go ?_
  split
  · next tag d rest comp _ =>
    refine .ite h ?_
    extract_lets _ t u
    have ht : Canonical t := (canonical_congr (s := s) rfl).2 h
    have hu : Canonical u := (canonical_congr (s := t) rfl).2 ht
    clear_value t u
    refine .ite ((canonical_mgmtDone ..).2 ht) ?_
    split
    · exact (canonical_mgmtDone ..).2 hu
    · exact (canonical_startDie ..).2 ((canonical_congr (s := u) rfl).2 hu)
  · exact h

theorem keeps_calRunDone (ok : Bool) : Keeps (execCalRunDone ok s) := by
  refine .go ?_
  split
  · refine .ite h (.ite ((canonical_mgmtDone ..).2 (.ite h h)) ((canonical_mgmtDone ..).2 ?_))
    exact .ite h (.ite ((canonical_congr (s := s) rfl).2 h) h)
  · exact h

theorem keeps_retireDone : Keeps (execRetireDone s) := by
  refine .go ?_
  split
  · next tkind index _ base ext _ =>
    refine .ite h ?_
    extract_lets t
    have ht : Canonical t := .ite ((canonical_dropDie ..).2 h) h
    clear_value t
    split
    · exact (canonical_mgmtDone ..).2 ((canonical_readmit ..).2 h)
    · next u hu =>
      have h' := ht.vacate hu
      have hv : Canonical (if tkind = 0 then u.endStranded else u) := .ite ((canonical_endStranded ..).2 h') h'
      generalize (if tkind = 0 then u.endStranded else u) = v at hv ⊢
      exact (canonical_congr (s := v.mgmtDone _ _ _) rfl).2 ((canonical_mgmtDone ..).2 hv)
  · exact h

/-- A reset clears device memory, whatever follows it (R34, R35). -/
theorem keeps_resetSequence (fwOk : Bool) (badPages badDies badModules : List Nat) :
    Keeps (execResetSequence fwOk badPages badDies badModules s) := by
  refine .go ?_
  split
  · exact h
  · next cause _ =>
    refine .ite ((canonical_congr (s := s) rfl).2 h) ?_
    extract_lets keep mods _ t retired dies u
    have ht : Canonical t := (canonical_congr (s := s.afterReset cause) rfl).2 (h.afterReset cause)
    clear_value t
    have hu : Canonical u := (canonical_congr (s := t) rfl).2 ht
    clear_value u
    exact .ite ((canonical_congr (s := t) rfl).2 ht) (.ite ((canonical_goViral ..).2 hu) (.ite hu ((canonical_goViral ..).2 hu)))

end Ends

/-! ## Links, clocks, errors and walks (R10 to R17, R23 to R32, R137 to R142, R155, R166, R252 to R256) -/

section Hardware

variable {s : State} (h : Canonical s)
include h

theorem keeps_flitReceive (port : Nat) (f : Flit) : Keeps (execFlitReceive port f s) := by
  have hp : ∀ g : Port → Port, Canonical (s.modPort port g) := fun _ => (canonical_modPort ..).2 h
  have hq : ∀ g : Port → Port, Canonical ((s.modPort port g).pump port) := fun _ => (canonical_pump ..).2 (hp _)
  exact .go (.ite h (.ite (.ite ((canonical_retrain ..).2 (hp _)) (hp _)) (.ite (hp _) (.ite (hp _)
    (.ite ((canonical_idle ..).2 (hq _)) (hq _))))))

theorem keeps_replayRequest (port : Nat) : Keeps (execReplayRequest port s) := .go (.ite h ((canonical_modPort ..).2 h))

theorem keeps_laneEyeFail (port lane : Nat) : Keeps (execLaneEyeFail port lane s) := .go ((canonical_retrain ..).2 ((canonical_modPort ..).2 h))

theorem keeps_portRetrainDone (port : Nat) (lanes : List Nat) (acc : BitVec 12) : Keeps (execPortRetrainDone port lanes acc s) := by
  refine .go (.ite h ?_)
  extract_lets t w u
  have ht : Canonical t := (canonical_modPort ..).2 h
  have hu : Canonical u := (canonical_modPort ..).2 ht
  clear_value t u w
  refine .ite ((canonical_modPort ..).2 ht) (.ite ((canonical_goViral ..).2 ((canonical_modPort ..).2 ht)) (.ite ?_ ?_))
  · exact .ite ((canonical_modPort ..).2 hu) hu
  · exact (canonical_cross ..).2 ((canonical_pump ..).2 ((canonical_modPort ..).2 hu))

theorem keeps_hostLinkModuleLoss (module : Nat) : Keeps (execHostLinkModuleLoss module s) := by
  unfold execHostLinkModuleLoss
  extract_lets t
  have ht : Canonical t := (canonical_congr (s := s) rfl).2 h
  exact .go (.ite ht ((canonical_goViral ..).2 ht))

theorem keeps_portWrite (port pa : Nat) (data : List Byte) : Keeps (execPortWrite port pa data s) := by
  refine .go (.ite h ?_)
  extract_lets t u
  have ht : Canonical t := h.foldl fun _ q h => .ite h (h.portLine ..)
  clear_value t
  have hu : Canonical u := ht.setMemory rfl (Memory.wf_writeN pa data) (Memory.wf_writeN pa data)
  exact (canonical_watchPort ..).2 hu

theorem keeps_portRead (port pa n : Nat) : Keeps (execPortRead port pa n s) := .go ((canonical_foldl _ fun _ _ => canonical_portSend ..).2 h)

theorem keeps_l2WayGate (die way : Nat) (gate : Bool) : Keeps (execL2WayGate die way gate s) := by
  refine .go (.ite h (.ite ((canonical_congr (s := s) rfl).2 h) (.ite h ?_)))
  extract_lets t
  have ht : Canonical t := h.flushLines ..
  clear_value t
  exact (canonical_congr (s := t) rfl).2 ht

theorem keeps_scrubPass (shared : Bool) : Keeps (execScrubPass shared s) :=
  .go (.ite ((canonical_goViral ..).2 ((canonical_congr (s := s) rfl).2 h)) h)

theorem keeps_softError (kind loc : Nat) (uncorrectable : Bool) : Keeps (execSoftError kind loc uncorrectable s) :=
  have ht : Canonical { s with eccc := satInc s.eccc } := (canonical_congr (s := s) rfl).2 h
  .go (.ite ((canonical_uncorrectable ..).2 ((canonical_congr (s := s) rfl).2 h)) (.ite ((canonical_congr (s := s) rfl).2 h) ht))

theorem keeps_eccCountClear (uncorrectable : Bool) : Keeps (execEccCountClear uncorrectable s) :=
  .go (.ite ((canonical_congr (s := s) rfl).2 h) ((canonical_congr (s := s) rfl).2 h))

/-- A walk reads tables, and may raise a fault: it writes no memory but what the L2 puts back. -/
theorem keeps_walkComplete (id : Nat) : Keeps (execWalkComplete id s) := by
  unfold execWalkComplete
  split
  · exact .go h
  · next w _ =>
    extract_lets t swap u
    have hswap : ∀ t, Canonical t → Canonical (swap t) := fun t ht => .ite ((canonical_modR ..).2 ht) ht
    have ht : Canonical t := (canonical_congr (s := s) rfl).2 h
    clear_value t swap
    have hu : Canonical u := hswap _ ((canonical_endWalk ..).2 ((hswap t ht).nestedFill ..))
    clear_value u
    exact .go ((canonical_startWalk ..).2 ((canonical_setFocus ..).2 hu))

theorem keeps_holdTakesEffect (line : Nat) : Keeps (execHoldTakesEffect line s) := by
  unfold execHoldTakesEffect
  split
  · exact .go h
  · split
    · exact .go h
    · exact .go ((canonical_modHold ..).2 (h.flushLines ..))

theorem keeps_holdSuspend (row : Nat) : Keeps (execHoldSuspend row s) := by
  unfold execHoldSuspend
  split
  · exact .go h
  · exact .go (.ite ((canonical_suspendRow ..).2 h) h)

theorem keeps_hotBlockTimeout (block : Nat) : Keeps (execHotBlockTimeout block s) := by
  refine .go ?_
  split
  · exact h
  · refine .ite h ?_
    extract_lets hdr b
    refine h.setMemory rfl (Memory.wf_writeN block b) fun hd => ?_
    split
    · exact Memory.wf_writeN block b hd
    · exact hd

theorem keeps_hostWriteFailed (func : Nat) (ltag : Word) : Keeps (execHostWriteFailed func ltag s) :=
  .go (.ite ((canonical_endLaunch ..).2 h) h)

theorem keeps_firmwareInitiatedReset : Keeps (execFirmwareInitiatedReset s) := .go (.ite h ((canonical_congr (s := s) rfl).2 h))

end Hardware

/-! ## Launches, binding, saving (R66 to R93, R102) -/

section Launching

variable {s : State} (h : Canonical s)
include h

theorem keeps_launchComplete (func : Nat) (tag : Word) : Keeps (execLaunchComplete func tag s) := by
  unfold execLaunchComplete
  extract_lets t u _ v
  have ht : Canonical t := (canonical_dropRegionsOf ..).2 h
  clear_value t
  refine .go ?_
  split
  · exact h
  · have hu : Canonical v := (canonical_setNmp ..).2 ((canonical_modTenant ..).2 ht)
    exact (canonical_choiceEvent ..).2 ((canonical_creditClear ..).2 ((canonical_complete ..).2 hu))

theorem keeps_launchActivate (func : Nat) (ltag : Word) : Keeps (execLaunchActivate func ltag s) := by
  unfold execLaunchActivate
  split
  · exact .go h
  · split
    · exact .go h
    · extract_lets t u
      have hu : Canonical u := (canonical_foldl _ fun _ _ => canonical_releaseLoad ..).2 ((canonical_modLaunch ..).2 h)
      exact .go ((canonical_choiceAfter ..).2 hu)

theorem keeps_fabricLoadRelease (func : Nat) (ltag : Word) (load : Nat) : Keeps (execFabricLoadRelease func ltag load s) :=
  .go ((canonical_choiceAfter ..).2 ((canonical_releaseLoad ..).2 h))

theorem keeps_fabricLoadBind : Keeps (execFabricLoadBind s) := by
  refine .go ?_
  split
  · exact h
  · split
    · exact .ite h ((canonical_choiceEvent ..).2 (h.bindItem ..))
    · exact h

theorem keeps_bindComplete : Keeps (execBindComplete s) := by
  unfold execBindComplete
  extract_lets r g t u due v
  have ht : Canonical t := (canonical_modR ..).2 ((canonical_chargeSave ..).2 h)
  clear_value t
  split
  · split
    · exact .go ((canonical_endByFault ..).2 ht)
    · have hu : Canonical u := ht.reopenRows r
      clear_value u
      have hv : Canonical v := (canonical_startBound ..).2 ((canonical_modR ..).2 hu)
      clear_value v
      exact .go (.ite hv ((canonical_modReg ..).2 hv))
  · exact .go ((canonical_startBound ..).2 h)

theorem keeps_yieldSaveDone : Keeps (execYieldSaveDone s) := by
  unfold execYieldSaveDone
  extract_lets g t
  split
  · exact .go h
  · have ht : Canonical t := (canonical_finishSave ..).2 h
    exact .go ((canonical_choiceAfter ..).2 ((canonical_creditClear ..).2 ht))

theorem keeps_adderElement : Keeps (execAdderElement s) := by
  refine .go ?_
  split
  · exact h
  · extract_lets k
    split
    · refine .ite ?_ h
      extract_lets w k' t
      have ht : Canonical t := (canonical_modR ..).2 ((canonical_modNow ..).2 h)
      clear_value t
      exact .ite ((canonical_sendChain ..).2 ht) (ht.forwardMe ..)
    · exact h

end Launching

/-! ## Rounds, keystones and barriers (R107, R117, R120 to R123, R366) -/

section RoundSteps

variable {s : State} (h : Canonical s)
include h

theorem keeps_roundBoundary : Keeps (execRoundBoundary s) := by
  unfold execRoundBoundary
  extract_lets r halt final t u
  have ht : Canonical t := (canonical_post ..).2 ((canonical_evictAll ..).2 ((canonical_flushParts s).2 h))
  have hu : Canonical u := (canonical_askYields ..).2 ht
  clear_value t u
  have hv := (canonical_latMost _ ((u.latMost (5000 - commitCycles u.rg.now.staged)).2.rg.saveMost s.cycle)).2
    ((canonical_latMost u (5000 - commitCycles u.rg.now.staged)).2 hu)
  exact .go ((canonical_modReg ..).2 ((canonical_setFocus ..).2 hv))

theorem keeps_roundStart : Keeps (execRoundStart s) := .go ((canonical_beginRound ..).2 h)

theorem keeps_roundCommit : Keeps (execRoundCommit s) := by
  unfold execRoundCommit
  extract_lets r late t u v
  have ht : Canonical t := (canonical_foldl _ canonical_lateItem).2 ((canonical_modR ..).2 h)
  clear_value t
  have hu : Canonical u := (canonical_modR ..).2 ((canonical_setFocus ..).2 ht)
  clear_value u
  have hv : Canonical v := (canonical_foldl _ canonical_pmItem).2 ((canonical_foldRound ..).2 ((canonical_endHolds ..).2 hu))
  clear_value v
  exact .go ((canonical_askBudget _).2 ((canonical_modR ..).2 hv))

theorem keeps_commitEpochPerform : Keeps (execCommitEpochPerform s) := by
  unfold execCommitEpochPerform
  extract_lets r t
  have hr : Canonical r.2 := Canonical.performRun _ ((canonical_modR ..).2 h)
  clear_value r
  have ht : Canonical t := (canonical_setFocus ..).2 hr
  exact .go ((canonical_modR ..).2 ((canonical_modR ..).2 ht))

theorem keeps_roundLimitExpiry : Keeps (execRoundLimitExpiry s) :=
  .go ((canonical_askBudget _).2 ((canonical_takeFault ..).2 ((canonical_raise ..).2 h)))

theorem keeps_keystonePass : Keeps (execKeystonePass s) :=
  .go ((canonical_choiceEvent _).2 ((canonical_endRegion ..).2 ((canonical_passSig ..).2 h)))

theorem keeps_debugBreakTimeout : Keeps (execDebugBreakTimeout s) := by
  unfold execDebugBreakTimeout
  split
  · exact .go h
  · extract_lets _ t
    have ht : Canonical t := (canonical_setFocus ..).2 h
    exact .go ((canonical_askBudget _).2 ((canonical_takeFault ..).2 ((canonical_raiseHere ..).2 ht)))

end RoundSteps

/-! ## Windows and tokens (R109 to R115, R329, R335) -/

section WindowSteps

variable {s : State} (h : Canonical s)
include h

theorem keeps_windowClose : Keeps (execWindowClose s) := by
  unfold execWindowClose
  extract_lets l
  split
  · exact .go h
  · split
    · exact .go ((canonical_endWin ..).2 h)
    · split
      · exact .go ((canonical_count ..).2 ((canonical_winFault ..).2 h))
      · exact .go ((canonical_count ..).2 ((canonical_modE ..).2 h))

theorem keeps_freezeBoundExpiry : Keeps (execFreezeBoundExpiry s) := by
  unfold execFreezeBoundExpiry
  split
  · exact .go h
  · exact .go ((canonical_winFault ..).2 h)

theorem keeps_windowedResultArrival : Keeps (execWindowedResultArrival s) := by
  have hv : ∀ w : Win, Canonical (s.winValue w).2 := fun w => (canonical_winValue ..).2 h
  unfold execWindowedResultArrival
  extract_lets l
  split
  · exact .go h
  · split
    · exact .go (h.rowFetch ..)
    · exact .go (h.textFetch ..)
    · exact .go (h.blockFetch ..)
    · split
      · exact .go h
      · split
        · exact .go ((canonical_endWin ..).2 (hv _))
        · exact .go ((canonical_modE ..).2 (hv _))

theorem keeps_tokenArrival : Keeps (execTokenArrival s) := by
  have ht : Canonical s.takeTok ↔ Canonical s := .rfl
  exact .go ((canonical_foldl _ fun u d => by dsimp only; split <;> simp).2 (ht.2 h))

theorem keeps_handlerTokenArrival : Keeps (execHandlerTokenArrival s) := by
  unfold execHandlerTokenArrival
  extract_lets due wait act lost t
  have ht : Canonical t := (canonical_modNow ..).2 h
  clear_value t
  exact .go ((canonical_foldl _ fun _ _ => canonical_entryActs ..).2 ((canonical_foldl _ fun _ _ => canonical_raisePage ..).2 ht))

theorem keeps_passThrough : Keeps (execPassThrough s) := by
  refine .go (h.under ((canonical_foldl _ fun u p => ?_).2 h))
  split
  · rfl
  · dsimp only
    split <;> simp

end WindowSteps

/-! ## Engines and what lands (R168 to R170, R211, R218, R350, R355, R393, R402, R404) -/

section EngineSteps

variable {s : State} (h : Canonical s)
include h

theorem keeps_streamReadReply : Keeps (execStreamReadReply s) := by
  unfold execStreamReadReply
  split
  · exact .go h
  · split
    · exact .go ((canonical_landReply ..).2 h)
    · exact .go (h.serveRead ..)

theorem keeps_heprBeatFetch : Keeps (execHeprBeatFetch s) := by
  unfold execHeprBeatFetch
  extract_lets sn st
  split
  · split
    · exact .go ((canonical_endLaunch ..).2 h)
    · exact .go ((canonical_modE ..).2 ((canonical_lat s).2 h))
  · exact .go h

/-- An RMW reads the word as it stands and stores the new one. -/
theorem keeps_rmwPerform : Keeps (execRmwPerform s) := by
  unfold execRmwPerform
  split
  · exact .go h
  · next i rest _ =>
    split
    · next va op a cmp ret hint rid acq _ =>
      extract_lets _ s' func old t u v
      have hs : Canonical s' := (canonical_setFocus ..).2 h
      clear_value s' old
      have ht : Canonical t := (canonical_modR ..).2 hs
      have hu : Canonical u := by
        unfold u
        split
        · exact (canonical_consumed ..).2 ht
        · exact ht
      clear_value t u
      have hv : Canonical v := (canonical_modR ..).2 (hu.storeVa ..)
      clear_value v
      have hw := (canonical_lat v).2 hv
      refine .go ?_
      split
      · exact Canonical.acquireRanges ((canonical_modR ..).2 hw) _
      · exact (canonical_modR ..).2 hw
    · exact .go h

theorem keeps_rmwReturn : Keeps (execRmwReturn s) := by
  unfold execRmwReturn
  split
  · exact .go h
  · exact .go ((canonical_modR ..).2 ((canonical_modE ..).2 h))

theorem keeps_copyComplete : Keeps (execCopyComplete s) := by
  unfold execCopyComplete
  split
  · exact .go h
  · exact .go ((canonical_modE ..).2 (h.copyPiece _))

theorem keeps_slotPortEffect : Keeps (execSlotPortEffect s) := by
  unfold execSlotPortEffect
  split
  · exact .go h
  · extract_lets t
    have ht : Canonical t := (canonical_modE ..).2 h
    refine .go ?_
    split
    · exact (canonical_modSide ..).2 ht
    · exact (canonical_modE ..).2 ht

theorem keeps_nodeOperationLand : Keeps (execNodeOperationLand s) := by
  unfold execNodeOperationLand
  split
  · exact .go h
  · extract_lets t u
    have ht : Canonical t := (canonical_modE ..).2 h
    clear_value t
    have hu : Canonical u := by
      unfold u
      split
      · exact (canonical_landFolm ..).2 ht
      · exact (canonical_modE ..).2 ht
    clear_value u
    exact .go ((canonical_compared ..).2 hu)

omit h in
@[simp] theorem canonical_stkhDone (s : State) (f : FK) : Canonical (s.stkhDone f) ↔ Canonical s := .rfl

theorem keeps_softTokenComplete : Keeps (execSoftTokenComplete s) := by
  unfold execSoftTokenComplete
  split
  · exact .go h
  · next o _ =>
    extract_lets _ s' t u
    have hs : Canonical s' := (canonical_setFocus ..).2 h
    split
    · next hw => exact .go (hs.needsWait hw)
    · have ht : Canonical t := (canonical_modE ..).2 hs
      clear_value t
      have hu : Canonical u := by
        unfold u
        split
        · exact (canonical_stkhDone ..).2 ht
        · exact (canonical_modE ..).2 ht
        · exact ht.collapseDone ..
        · exact ht.gmskDone ..
        · exact ht.gstpDone ..
        · exact ht.prplDone ..
        · exact ht
      clear_value u
      exact .go ((canonical_modR ..).2 hu)

theorem keeps_foldComplete : Keeps (execFoldComplete s) := by
  unfold execFoldComplete
  split
  · exact .go h
  · split
    · exact .go ((canonical_modFolio ..).2 ((canonical_modE ..).2 h))
    · exact .go h

end EngineSteps

/-! ## Entries (R298 to R431): what they do to memory is staged in the commit buffer, and what they read goes through the L2 -/

@[simp] theorem canonical_modSpan (s : State) (f : Span → Span) : Canonical (s.modSpan f) ↔ Canonical s := .rfl

section Entries

variable {s : State} (h : Canonical s)
include h

/-- An entry whose effect leaves memory as it is. -/
theorem keeps_entry {srcs ds : List Nat} {chk : Chk} {eff : State → State} (he : ∀ t, Canonical (eff t) ↔ Canonical t) :
    Keeps (go (s.entry srcs ds chk eff)) := .go (h.entry fun t ht => (he t).2 ht)

theorem keeps_compute (srcs : List Nat) (d : Nat) (v : Word) : Keeps (go (s.compute srcs d v)) := keeps_entry h fun _ => canonical_put ..

theorem keeps_raiseHere (c d : Nat) : Keeps (go (s.raiseHere c d)) := .go ((canonical_raiseHere ..).2 h)

theorem keeps_loope (f : FK) : Keeps (execLoope f s) := keeps_entry h fun t => by split_ifs <;> rfl

theorem keeps_latch (f : FW) : Keeps (execLatch f s) := keeps_entry h fun t => by split <;> simp

theorem keeps_lds (f : FM) : Keeps (execLds f s) := by
  refine keeps_entry h fun t => ?_
  simp only [canonical_advance, canonical_cmpBytes, canonical_asAcquire _ fun u => canonical_issueRead u ..]
  split <;> rfl

theorem keeps_fpush (f : FM) : Keeps (execFpush f s) := keeps_entry h fun t => by split <;> simp

theorem keeps_fpop (f : FM) : Keeps (execFpop f s) := by
  unfold execFpop
  extract_lets k
  split
  · exact keeps_raiseHere h ..
  · exact keeps_entry h fun t => by simp

theorem keeps_lbsh (f : FM) : Keeps (execLbsh f s) := by
  unfold execLbsh
  split
  · exact keeps_raiseHere h ..
  · exact keeps_entry h fun t => by simp

theorem keeps_lbrd (f : FM) : Keeps (execLbrd f s) := by
  unfold execLbrd
  split
  · exact keeps_raiseHere h ..
  · exact keeps_entry h fun t => by simp

theorem keeps_startCopy (f : FK) (tagged : Bool) : Keeps (go (s.startCopy f tagged)) := by
  unfold State.startCopy
  extract_lets cid off r d desc chk slot
  clear_value desc
  refine keeps_entry h fun t => ?_
  cases desc with
  | none => rfl
  | some _ => exact canonical_lat t

theorem keeps_cpyw (f : FW) : Keeps (execCpyw f s) := keeps_entry h fun t => by split <;> rfl

/-- PREF reads the tables, and the lines that it finds, through the L2. -/
theorem keeps_pref (f : FM) : Keeps (execPref f s) := by
  refine .go (h.entry fun t ht => .ite ht ((canonical_modE ..).2 (ht.foldl fun u v hu => ?_)))
  have hw : Canonical (u.prefWalk v.toNat 256) := hu.prefWalk ..
  exact .ite (hw.touchVa ..) hw

theorem keeps_hepr (f : FM) : Keeps (execHepr f s) := keeps_entry h fun t => by split <;> simp

theorem keeps_fence (f : FK) : Keeps (execFence f s) := .go (h.entry fun _ ht => .ite ht (ht.fence ..))

theorem keeps_rel (f : FK) : Keeps (execRel f s) := by
  refine .go (h.entry fun t ht => ?_)
  have hf := ht.fence relStreams (bitsOf f.param 2 0) s.nowE.waited
  refine (canonical_modE ..).2 ?_
  split
  · exact (canonical_stage ..).2 hf
  · exact hf

theorem keeps_dqnt (f : FF) : Keeps (execDqnt f s) := keeps_entry h fun t => by split <;> simp

theorem keeps_bsc (f : FT) : Keeps (execBsc f s) := by
  unfold execBsc
  extract_lets a b
  split
  · exact keeps_entry h fun t => canonical_modE ..
  · exact keeps_compute h ..
  · exact keeps_entry h fun t => by simp

theorem keeps_folv (f : FK) : Keeps (execFolv f s) := keeps_entry h fun t => by split <;> simp

theorem keeps_rowopen (f : FK) : Keeps (execRowopen f s) := by
  refine .go (h.entry fun t ht => ?_)
  split
  · exact (canonical_congr (s := t.walkAt _) rfl).2 (ht.walkAt _)
  · exact ht

theorem keeps_rowhold (f : FK) : Keeps (execRowhold f s) := by
  refine .go (h.entry fun t ht => ?_)
  dsimp -zeta only
  extract_lets code u v w
  have hw : Canonical w := (canonical_modNow ..).2 ((canonical_put ..).2 (ht.walkAt _))
  clear_value w code
  exact .ite ((canonical_modR ..).2 ((canonical_takeHold ..).2 hw)) (.ite ((canonical_count ..).2 hw) hw)

theorem keeps_rowrd (f : FM) : Keeps (execRowrd f s) := keeps_entry h fun t => by simp

theorem keeps_rowwr (f : FM) : Keeps (execRowwr f s) := keeps_entry h fun t => by simp

theorem keeps_stka (f : FK) : Keeps (execStka f s) := keeps_entry h fun t => by split <;> simp

theorem keeps_stkn (f : FK) : Keeps (execStkn f s) := keeps_entry h fun t => by split <;> simp

theorem keeps_stke (f : FM) : Keeps (execStke f s) := by
  refine keeps_entry h fun t => ?_
  refine (canonical_foldl _ fun u v => by simp).trans ?_
  split <;> exact canonical_lat t

theorem keeps_gmsk (f : FK) : Keeps (execGmsk f s) := keeps_entry h fun t => by split <;> simp

theorem keeps_gstp (f : FK) : Keeps (execGstp f s) := keeps_entry h fun t => by split <;> simp

theorem keeps_plog (f : FK) : Keeps (execPlog f s) := keeps_entry h fun t => by split_ifs <;> simp

theorem keeps_rngs (f : FK) : Keeps (execRngs f s) := keeps_entry h fun t => by split <;> simp

theorem keeps_dbrk (f : FK) : Keeps (execDbrk f s) := keeps_entry h fun t => by split <;> simp

theorem keeps_sigq (f : FK) : Keeps (execSigq f s) := keeps_entry h fun t => by split <;> simp

theorem keeps_gath (f : FM) : Keeps (execGath f s) := by
  refine keeps_entry h fun t => ?_
  simp [canonical_asAcquire, canonical_foldl]

theorem keeps_scat (f : FM) : Keeps (execScat f s) := by
  refine keeps_entry h fun t => ?_
  simp [canonical_asRelease, canonical_foldl]

theorem keeps_rmw (f : FM) : Keeps (execRmw f s) := by
  refine keeps_entry h fun t => ?_
  simp [canonical_asRelease]

theorem keeps_sts (f : FM) : Keeps (execSts f s) := by
  refine keeps_entry h fun t => ?_
  simp [canonical_asRelease]

end Entries

/-- Every instruction completes and keeps the canonical form: entries that write one word; entries whose effect the rules above cover;
entries, messages and events with a lemma of their own; events that change only what the canonical form does not speak of. -/
theorem exec_keeps {s : State} (h : Canonical s) (i : Instr) : Keeps (exec i s) := by
  cases i with
  | mov f | movi f | movhi f | add f | addi f | sub f | adds f | subs f | neg f | abs f | min f | max f | mul f | mulh f | mad f | andW f
    | orW f | xorW f | andn f | andi f | ori f | xori f | shl f | shr f | shra f | rot f | shi f | clz f | popc f | brev f | bfx f
    | bfi f | cmp f | sel f | lea f | pack f | unpk f | shuf f | dot4 f | dot2 f | tokt f | red f | bart f | fadd f | fsub f | fmul f
    | fma f | fmin f | fmax f | fabs f | fneg f | fcmp f | fcls f | fex2 f | flg2 f | frnd f | cvt f | cvti f | cvtf f | qnt f | hdrr f
    | fsum f | fdot f | fmaxa f | fscl f | rowq f | idnt f | time f | pmrd f | cfgr f =>
    exact keeps_compute h _ _ _
  | div f | rem f | pset f | addc f | cnti f | cnts f | cntv f | cntt f | sws f | rotb f | toks f | tokw f | loopb f | waitw f | handl f
    | ldl f | stl f | sopen f | smark f | srew f | sclose f | cmo f | retn f | unpin f | hint f
    | hepw f | stag f | bufsw f | sbar f | bara f | barw f | keyw f | acq f | drain f | fdiv f | fsqrt f | hdrw f | bfly f | mclm f
    | mrel f | mld f | mst f | mma f | mmas f | mout f | mtrn f | mctr f | msrt f | mkey f | macc f | folb f | fold f | folm f
    | folc f | folr f | foli f | folq f | rowrel f | stkh f | stkm f | stkq f | collapse f | vtxt f | stopStr f | phsh f | prpl f
    | trap f | pmcf f | pmwr f | fltm f | nop | halts | endp | keys | halt =>
    exact keeps_entry h fun t => by simp [canonical_foldl]
  | mzro f => exact keeps_entry h fun t => canonical_modE ..
  | cpy f | cpyt f => exact keeps_startCopy h f _
  | loope f => exact keeps_loope h f
  | latch f => exact keeps_latch h f
  | lds f => exact keeps_lds h f
  | sts f => exact keeps_sts h f
  | gath f => exact keeps_gath h f
  | scat f => exact keeps_scat h f
  | rmw f => exact keeps_rmw h f
  | fpush f => exact keeps_fpush h f
  | fpop f => exact keeps_fpop h f
  | lbsh f => exact keeps_lbsh h f
  | lbrd f => exact keeps_lbrd h f
  | cpyw f => exact keeps_cpyw h f
  | pref f => exact keeps_pref h f
  | hepr f => exact keeps_hepr h f
  | fence f => exact keeps_fence h f
  | rel f => exact keeps_rel h f
  | dqnt f => exact keeps_dqnt h f
  | bsc f => exact keeps_bsc h f
  | folv f => exact keeps_folv h f
  | rowopen f => exact keeps_rowopen h f
  | rowhold f => exact keeps_rowhold h f
  | rowrd f => exact keeps_rowrd h f
  | rowwr f => exact keeps_rowwr h f
  | stka f => exact keeps_stka h f
  | stkn f => exact keeps_stkn h f
  | stke f => exact keeps_stke h f
  | gmsk f => exact keeps_gmsk h f
  | gstp f => exact keeps_gstp h f
  | plog f => exact keeps_plog h f
  | rngs f => exact keeps_rngs h f
  | dbrk f => exact keeps_dbrk h f
  | sigq f => exact keeps_sigq h f
  | tenantCreate m tgt cls ways pages prio keys rows quant rate => exact keeps_tenantCreate h ..
  | tenantBudget m tgt cls ways pages prio keys rows quant rate => exact keeps_tenantBudget h ..
  | tenantDestroy m tgt => exact keeps_tenantDestroy h ..
  | tenantDestroyDone func => exact keeps_tenantDestroyDone h ..
  | imageLoad m slot haddr len => exact keeps_imageLoad h ..
  | imageLoadDone func slot readOk => exact keeps_imageLoadDone h ..
  | endpointBind m slot set ep haddr ext => exact keeps_endpointBind h ..
  | launch m slot set graph prio plen param => exact keeps_launch h ..
  | signalValue m ltag value => exact keeps_signalValue h ..
  | signalResume m ltag fid => exact keeps_signalResume h ..
  | signalAbort m ltag fid => exact keeps_signalAbort h ..
  | cancel m scope ltag => exact keeps_cancel h ..
  | query m sel ltag => exact keeps_query h ..
  | fwStage m haddr len => exact keeps_fwStage h ..
  | fwStageDone readOk => exact keeps_fwStageDone h ..
  | fwActivate m dies comp => exact keeps_fwActivate h ..
  | fwActivateDieDone ok => exact keeps_fwActivateDieDone h ..
  | calRun m tkind index => exact keeps_calRun h ..
  | calRunDone ok => exact keeps_calRunDone h ..
  | retire m tkind index lane base ext => exact keeps_retire h ..
  | retireDone => exact keeps_retireDone h
  | unknownKind m kind => exact keeps_unknownKind h ..
  | deviceMessageSend => exact keeps_deviceMessageSend h
  | nmpdackWrite v => exact .go ((canonical_acknowledge ..).2 h)
  | nmpctlResync => exact keeps_nmpctlResync h
  | nmpctlHoldRelease => exact keeps_nmpctlHoldRelease h
  | holdEstablished | nmpctlResend | resendStart => exact .go (.ite ((canonical_setNmp ..).2 h) h)
  | launchComplete func ltag => exact keeps_launchComplete h ..
  | launchActivate func ltag => exact keeps_launchActivate h ..
  | fabricLoadRelease func ltag load => exact keeps_fabricLoadRelease h ..
  | fabricLoadBind => exact keeps_fabricLoadBind h
  | bindComplete => exact keeps_bindComplete h
  | yieldSaveDone => exact keeps_yieldSaveDone h
  | adderElement => exact keeps_adderElement h
  | resetSequence fwOk badPages badDies badModules => exact keeps_resetSequence h ..
  | firmwareInitiatedReset => exact keeps_firmwareInitiatedReset h
  | eccCountClear uncorrectable => exact keeps_eccCountClear h ..
  | flitReceive port f => exact keeps_flitReceive h ..
  | replayRequest port => exact keeps_replayRequest h ..
  | laneEyeFail port lane => exact keeps_laneEyeFail h ..
  | portRetrainDone port failedLanes farAcc => exact keeps_portRetrainDone h ..
  | hostLinkModuleLoss module => exact keeps_hostLinkModuleLoss h ..
  | portWrite port pa data => exact keeps_portWrite h port pa data
  | portRead port pa n => exact keeps_portRead h ..
  | l2WayGate die way gate => exact keeps_l2WayGate h ..
  | scrubPass shared => exact keeps_scrubPass h ..
  | softError kind loc uncorrectable => exact keeps_softError h ..
  | walkComplete id => exact keeps_walkComplete h ..
  | holdTakesEffect line => exact keeps_holdTakesEffect h ..
  | holdSuspend row => exact keeps_holdSuspend h ..
  | hotBlockTimeout block => exact keeps_hotBlockTimeout h ..
  | hostWriteFailed func ltag => exact keeps_hostWriteFailed h ..
  | thermalTrip | firmwareFatal => exact .go ((canonical_goViral ..).2 h)
  | roundBoundary => exact keeps_roundBoundary h
  | roundStart => exact keeps_roundStart h
  | roundCommit => exact keeps_roundCommit h
  | commitEpochPerform => exact keeps_commitEpochPerform h
  | roundLimitExpiry => exact keeps_roundLimitExpiry h
  | windowClose => exact keeps_windowClose h
  | freezeBoundExpiry => exact keeps_freezeBoundExpiry h
  | windowedResultArrival => exact keeps_windowedResultArrival h
  | tokenArrival => exact keeps_tokenArrival h
  | handlerTokenArrival => exact keeps_handlerTokenArrival h
  | keystonePass => exact keeps_keystonePass h
  | debugBreakTimeout => exact keeps_debugBreakTimeout h
  | streamReadReply => exact keeps_streamReadReply h
  | heprBeatFetch => exact keeps_heprBeatFetch h
  | rmwPerform => exact keeps_rmwPerform h
  | rmwReturn => exact keeps_rmwReturn h
  | copyComplete => exact keeps_copyComplete h
  | slotPortEffect => exact keeps_slotPortEffect h
  | nodeOperationLand => exact keeps_nodeOperationLand h
  | softTokenComplete => exact keeps_softTokenComplete h
  | foldComplete => exact keeps_foldComplete h
  | passThrough => exact keeps_passThrough h
  | droopCountClear die | droopDetect die | droopRecover die | thermalLimit die | thermalRecover die => exact .go ((canonical_modDie ..).2 h)
  | prefixEntryReclaim func idx => exact .go ((canonical_modTenant ..).2 h)
  | holdResume row => exact .go ((canonical_modHold ..).2 h)
  | nmperrClear v => exact .go ((canonical_setNmp ..).2 h)
  | nmpctlHoldSet => exact .go ((canonical_setNmp ..).2 h)
  | registerWriteIgnored off v => exact .go h
  | rstctlWarmReset | rstctlColdReset | powerOn => exact .go ((canonical_congr (s := s) rfl).2 h)
  | bankWakeDone | replayStart => exact .go ((canonical_modR ..).2 h)
  | spanWrap | scheduleSwitchEnd | freezeRelease | handlerWriteEffect | keystoneArrival | barrierArrival => exact .go ((canonical_modNow ..).2 h)

/-! ## Operations that stand ready (R100, R101, R210) -/

section Operations

variable {s : State} (h : Canonical s)
include h

theorem Keeps.execBoth (i : Instr) : Keeps (s.execBoth i) := by
  obtain ⟨t, ht, hc⟩ := exec_keeps h i
  rw [State.execBoth, ht]
  exact .go ((canonical_compared ..).2 hc)

theorem Keeps.runEntry (e : Entry) : Keeps (s.runEntry e) := by
  unfold State.runEntry
  split
  · split
    · exact .execBoth h e.instr
    · exact .go ((canonical_count ..).2 h)
  · exact .go (h.under h)

theorem Keeps.runOp (op : Op) : Keeps (s.runOp op) := by
  have hf : ∀ f : Focus, Canonical { s with focus := f } := fun f => (canonical_setFocus s f).2 h
  unfold State.runOp
  split
  · exact exec_keeps (hf _) _
  · exact exec_keeps (hf _) _
  · exact .go ((canonical_congr (s := s) rfl).2 h)
  · exact exec_keeps (hf _) _
  · split
    · exact .runEntry (hf _) _
    · exact .go h

end Operations

/-! ## The phases of a cycle (R192) -/

section Phases

variable {s : State}

@[simp] theorem canonical_setReady (s : State) (l : List Op) : Canonical { s with ready := l } ↔ Canonical s := .rfl

@[simp] theorem canonical_setTimer (s : State) (most : Nat) (i : Instr) : Canonical (s.setTimer most i) ↔ Canonical s :=
  (canonical_congr (s := s.lat.2) rfl).trans (canonical_lat s)

@[simp] theorem canonical_startTimers (s : State) : Canonical s.startTimers ↔ Canonical s := by
  unfold State.startTimers
  extract_lets t
  have ht : Canonical t ↔ Canonical s := by
    unfold t
    split <;> simp
  clear_value t
  split
  · exact ht
  · split
    · split <;> simpa using ht
    · split <;> simpa using ht
    · exact ht

theorem Canonical.early (h : Canonical s) : Canonical s.early := by
  unfold State.early
  extract_lets u due now t wait _ v w
  have hu : Canonical u := (canonical_startTimers s).2 h
  clear_value u
  have ht : Canonical t := (canonical_congr (s := u) rfl).2 hu
  clear_value t
  have hv : Canonical v := (canonical_setNmp ..).2 ht
  clear_value v
  have hw : Canonical w := .ite ((canonical_choiceEvent v).2 hv) hv
  clear_value w
  exact .ite ((canonical_setReady ..).2 ht) ((canonical_setReady ..).2 hw)

/-- A span that freezes or faults changes its region, and the walks of a faulting access read tables (R111, R438). -/
theorem Canonical.planSpan {a : Plan} (h : Canonical a.base) (r sg : Nat) (p : SpanDecl) : Canonical (a.span r sg p).base := by
  have hb : ∀ f, Canonical (a.both r f).base := fun f => (canonical_modReg ..).2 h
  unfold Plan.span
  extract_lets g pre ops t walks b
  split
  · split
    · exact hb _
    · split
      · exact hb _
      · split
        · exact (hb _).foldl fun u f hu => (canonical_setFocus ..).2 (Canonical.walksOf ((canonical_setFocus ..).2 hu) sg f)
        · exact h
  · exact h

theorem Canonical.planRegion {a : Plan} (h : Canonical a.base) (g : Region) : Canonical (a.region g).base := by
  unfold Plan.region
  split
  · refine List.foldlRecOn (motive := fun b : Plan => Canonical b.base) _ _ h fun b hb sg _ => ?_
    split
    · exact hb
    · exact List.foldlRecOn (motive := fun b : Plan => Canonical b.base) _ _ hb fun c hc p _ => hc.planSpan ..
  · exact h

theorem Canonical.fires (h : Canonical s) : Canonical s.fires := by
  refine .ite h ((canonical_setReady ..).2 ?_)
  exact List.foldlRecOn (motive := fun b : Plan => Canonical b.base) _ _ h fun b hb g _ => hb.planRegion g

@[simp] theorem canonical_bounds (s : State) : Canonical s.bounds ↔ Canonical s := by
  unfold State.bounds
  extract_lets t u v
  have ht : Canonical t ↔ Canonical s := canonical_foldl _ fun w p => by split <;> simp
  have hu : Canonical u ↔ Canonical t := canonical_foldl _ fun w p => by split <;> simp
  have hv : Canonical v ↔ Canonical u := canonical_askBudget u
  clear_value t u v
  split
  · rfl
  · exact (canonical_congr (s := v) rfl).trans (hv.trans (hu.trans ht))

@[simp] theorem canonical_countSuspended (s : State) : Canonical s.countSuspended ↔ Canonical s := canonical_foldl _ fun t r => by split <;> simp

@[simp] theorem canonical_tick (s : State) : Canonical s.tick ↔ Canonical s := by
  unfold State.tick
  extract_lets t
  have ht : Canonical t ↔ Canonical s := by
    unfold t
    split <;> simp
  clear_value t
  exact (canonical_congr (s := t) rfl).trans ht

/-- Phases that only make operations ready. -/
theorem Canonical.ready (h : Canonical s) {c : Bool} {t : State} (ht : Canonical t ↔ Canonical s) :
    Canonical (if c then s else t) := .ite h (ht.2 h)

theorem Canonical.nextPhase (h : Canonical s) : Canonical s.nextPhase := by
  have hp : ∀ {t : State} (p : Phase), Canonical t → Canonical { t with phase := p } := fun _ ht => ht
  unfold State.nextPhase
  split
  · exact hp _ (h.ready .rfl)
  · exact hp _ h.fires
  · exact hp _ (h.ready .rfl)
  · exact hp _ (h.ready .rfl)
  · exact hp _ (h.ready .rfl)
  · exact hp _ (h.ready .rfl)
  · exact hp _ (h.ready .rfl)
  · exact hp _ (h.ready .rfl)
  · exact hp _ ((canonical_bounds s).2 h)
  · exact hp _ ((canonical_tick s).2 h)
  · exact hp _ h.early

theorem step_keeps (h : Canonical s) : Keeps (step s) := by
  unfold step
  split
  · exact .runOp ((canonical_setReady ..).2 h) _
  · exact .go h.nextPhase

end Phases
end Sys2Proof.Safety

namespace Sys2Proof.Settled

open Sys2Proof Sys2Proof.Machine Sys2Proof.Safety

/-- Settles O57: stores, write-backs, copies of units, tables and buffers written at load change device and host memory by single bytes, and
each keeps the canonical form; everything else leaves both memories as they are. -/
theorem canonicalKept : Obligations.CanonicalKept := by
  unfold Obligations.CanonicalKept
  exact ⟨fun i _ h => exec_keeps h i, fun _ h => step_keeps h⟩

end Sys2Proof.Settled
end

section
/-! PROOFS. O13: SOPEN, SMARK, SREW, SCLOSE, HINT and PREF. -/

namespace Sys2Proof.Machine

open Sys2Proof Sys2Proof.Safety

/-! ## Positions (R347): a stream whose position is set anew fetches again from the beat of that position -/

section Positions

variable {s : State}

theorem fires_sopen (f : FK) :
    Fires (.sopen f) s [f.a.toNat] [] (fun t => t.modE (fun e => e.modStream (bitsOf f.param 2 0) (fun q => Stream.refetch { q with
      pos := (((s.src f.a.toNat).toNat * (if bitAt f.param 3 then 1024 else 1) : Nat) : Int)
      stride := if bitAt f.param 4 then q.stride else 4 * sextN 16 (bitsOf f.param 20 5) } s.cycle))) := by
  refine fires_entry (i := .sopen f) rfl rfl ?_
  have hunit : (((if bitAt f.param 3 then 1024 else 1 : Nat)) : Int) = if bitAt f.param 3 then 1024 else 1 := by split <;> rfl
  simp only [Nat.cast_mul, hunit, mul_comm (4 : Int)]

theorem fires_srew (f : FM) :
    Fires (.srew f) s [] [] (fun t => t.modE (fun e => e.modStream f.strm.toNat (fun q =>
      Stream.refetch { q with pos := q.mark + f.off.toInt } s.cycle))) := fires_entry (i := .srew f) rfl rfl rfl

/-- SCLOSE of a stream that is no endpoint only gives it its declared hint back. -/
theorem fires_sclose_device {f : FM} (h : s.isEndpoint f.strm.toNat = false) :
    Fires (.sclose f) s [] [] (fun t => (t.flushBeat f.strm.toNat).modE (fun e => e.modStream f.strm.toNat (fun q =>
      { q with hint := ((s.streamDecl f.strm.toNat).map (·.hint)).getD 0, readAhead := [] }))) := by
  refine fires_entry (i := .sclose f) rfl rfl ?_
  simp only [h, Bool.false_and, Bool.false_eq_true, if_false]

/-- SCLOSE of an endpoint read stream inside a beat also leaves that beat: its queue no longer holds it, and POS and fetching are at its
end. -/
theorem fires_sclose_endpoint {f : FM} (h : s.isEndpoint f.strm.toNat = true) :
    Fires (.sclose f) s [] [] (fun t => (t.flushBeat f.strm.toNat).modE (fun e => e.modStream f.strm.toNat (fun q =>
      if (s.streamDecl f.strm.toNat).map (·.kind) = some 1 ∧ q.pos % 64 ≠ 0 then
        { q with hint := ((s.streamDecl f.strm.toNat).map (·.hint)).getD 0, readAhead := [], pos := q.pos - q.pos % 64 + 64
                 fetch := max q.fetch (q.pos - q.pos % 64 + 64)
                 beats := q.beats.filter (fun b => decide ((b.1 : Int) ≠ q.pos - q.pos % 64)) }
      else { q with hint := ((s.streamDecl f.strm.toNat).map (·.hint)).getD 0, readAhead := [] }))) := by
  refine fires_entry (i := .sclose f) rfl rfl ?_
  simp only [h, Bool.true_and, Bool.and_eq_true, bne, beq_eq_decide, ne_eq, decide_not, Bool.not_eq_true', decide_eq_true_eq,
    decide_eq_false_iff_not]

end Positions

end Sys2Proof.Machine

namespace Sys2Proof.Settled

open Sys2Proof Sys2Proof.Machine Sys2Proof.Safety

/-- Settles O13, entry by entry: none of the six checks anything, and each has the effect that its own equation gives. -/
theorem streamPositions : Obligations.StreamPositions := by
  unfold Obligations.StreamPositions
  intro s f k
  refine ⟨fires_sopen k, ?_, fires_srew f, fires_sclose_device, fires_sclose_endpoint, ?_, ?_⟩
  · exact fires_entry (i := .smark f) rfl rfl rfl
  · exact fires_entry (i := .hint f) rfl rfl rfl
  · exact fires_entry (i := .pref f) rfl rfl rfl

end Sys2Proof.Settled
end

section
/-! PROOFS. O27: ROWOPEN, ROWHOLD, ROWRD, ROWWR and ROWQ. -/

namespace Sys2Proof.Machine

open Sys2Proof Sys2Proof.Safety

/-! ## The translation of a row, at issue and when its entry takes effect (R137, R141, R406) -/

section Translation

variable {s : State} {va pa : Nat}

/-- A read of an address that the tables translate passes its check. -/
theorem State.rowChk_read (h : s.paOf s.rg.func va = some pa) : s.rowChk va false = .ok := by
  unfold State.rowChk
  split
  · rfl
  · unfold State.paOf at h
    split at h
    · cases h
    · next ht =>
      split at h
      · next hw => simp only [State.walkChk, ht, hw, Option.map_some, Bool.false_and, Bool.false_eq_true, if_false]
      · cases h

/-- A write passes its check where the range entry that it hits may be written. -/
theorem State.rowChk_write_of_hit {e : RangeEntry} (h : s.rangeHit s.abut s.rg.func va = some e) (hw : e.w = true) :
    s.rowChk va true = .ok := by
  simp [State.rowChk, h, hw]

/-- A write that hits no range entry passes its check where its walk will find a page that may be written. -/
theorem State.rowChk_write_of_miss {t : Tenant} {p size cmp : Nat} (h : s.rangeHit s.abut s.rg.func va = none)
    (ht : s.tenants.find s.rg.func = some t) (hw : nestedWalk s.coh s.rg.func t va = .ok p size true cmp) : s.rowChk va true = .ok := by
  simp [State.rowChk, State.walkChk, h, ht, hw]

theorem State.rowWalk_of_hit {e : RangeEntry} (h : s.rangeHit s.abut s.rg.func va = some e) (id : Nat) (w : Bool) : s.rowWalk id va w = s := by
  simp [State.rowWalk, h]

theorem State.rowWalk_of_miss (h : s.rangeHit s.abut s.rg.func va = none) (id : Nat) (w : Bool) :
    s.rowWalk id va w = s.beginWalk id va va w false := by
  simp [State.rowWalk, h]

variable (s)

@[simp] theorem State.modNow_func (f : Fabric → Fabric) : (s.modNow f).rg.func = s.rg.func := by
  unfold State.rg State.modNow State.modR
  rw [State.modReg_focus, State.reg_modReg]
  split <;> rfl

/-- Words taken from links leave the range entry that an address hits. -/
theorem State.consume_rangeHit (cs : List Nat) (va : Nat) :
    (s.consume cs).rangeHit (s.consume cs).abut (s.consume cs).rg.func va = s.rangeHit s.abut s.rg.func va := by
  refine State.foldl_field (fun t => t.rangeHit t.abut t.rg.func va) (fun t side => ?_) (List.range 4) s
  split
  · simp only [State.popIn, State.modE, State.rangeHit, State.abut, State.page, State.modNow_sig, State.modNow_func, State.modNow_ranges]
  · rfl

theorem State.lat_rangeHit (va : Nat) : s.lat.2.rangeHit s.lat.2.abut s.lat.2.rg.func va = s.rangeHit s.abut s.rg.func va := by
  obtain ⟨l, hl⟩ := s.lat_only
  rw [hl]
  rfl

end Translation

/-! ## The entries (R157, R158, R406, R407) -/

section RowEntries

variable {s : State} {pa : Nat}

theorem fires_rowopen {f : FK} (h : s.rowPa (hxK f) = some pa) :
    Fires (.rowopen f) s [] [] (fun t =>
      { t.walkAt (s.rowVa (hxK f)) with openRows := insertUniq (rowOf pa) (t.walkAt (s.rowVa (hxK f))).openRows }) := by
  refine fires_entry (i := .rowopen f) rfl rfl ?_
  simp only [h]

/-- ROWHOLD lands its code, and takes the hold for code 0; codes 2 to 5 are counted as refusals (R158). -/
theorem fires_rowhold {f : FK} (h : s.rowPa (hxK f) = some pa) :
    Fires (.rowhold f) s [] [f.d.toNat] (fun t =>
      let code := s.holdCode (hxK f) pa
      let u := ((t.walkAt (s.rowVa (hxK f))).put f.d.toNat
        (if 96 ≤ f.d.toNat ∧ f.d.toNat < 104 then boolWord (decide (code < 2)) else BitVec.ofNat 32 code)).modNow
          (fun fb => { fb with rowCode := fb.rowCode.set (rowOf pa) code })
      if code = 0 then
        (u.takeHold pa (s.rowDecl (hxK f)).reopen).modR (fun g => { g with holdsNew := g.holdsNew ++ [rowOf pa * 1024] })
      else if code = 1 then u
      else u.count 0x22) := by
  have hpa : s.paOf s.rg.func (s.rowVa (hxK f)) = some pa := h
  refine fires_entry (i := .rowhold f) rfl (State.rowChk_read hpa) ?_
  simp only [hpa, Option.getD_some]
  generalize s.holdCode (hxK f) pa = code
  rcases code with _ | _ | code
  · rfl
  · rfl
  · simp

/-- ROWRD waits for one word, behind the acquire reads that hold its stream; where no range entry holds its address, its walk begins
(R137, R174, R407). -/
theorem fires_rowrd {m : FM} {va : Nat} (hva : va = s.rowVa (hxM m) + rowByte m) (h : s.paOf s.rg.func va = some pa) :
    Fires (.rowrd m) s [] [m.d.toNat] (fun t =>
      let u := t.fresh.2
      let walked := if (s.rangeHit s.abut s.rg.func va).isSome then u.lat.2 else u.lat.2.beginWalk t.fresh.1 va va false false
      walked.openWin (.row pa va (s.cycle + u.lat.1) t.fresh.1 (s.nowE.waitsOf 9 s.rg.rnd).1 none) m.d.toNat
        (32 * 2 ^ bitsOf m.mode 1 0) (bitsOf m.mode 3 2) none) := by
  subst hva
  refine fires_entry (i := .rowrd m) rfl (State.rowChk_read h) ?_
  have hhit := State.lat_rangeHit s.fresh.2 (s.rowVa (hxM m) + rowByte m)
  simp only [h, Option.getD_some, State.consume_nil, rowStream, State.rowWalk, hhit]
  rfl

/-- ROWWR stages its word; nothing walks where a range entry holds its address (R407). -/
theorem fires_rowwr_of_hit {m : FM} {va : Nat} {e : RangeEntry} (hva : va = s.rowVa (hxM m) + rowByte m)
    (h : s.rangeHit s.abut s.rg.func va = some e) (hw : e.w = true) :
    Fires (.rowwr m) s [m.d.toNat] [] (fun t => t.fresh.2.stage 9 (.row va (leBytes 4 (s.src m.d.toNat).toNat))) := by
  subst hva
  refine fires_entry (i := .rowwr m) rfl (State.rowChk_write_of_hit h hw) ?_
  have hit := (s.consume_rangeHit [m.d.toNat] _).trans h
  exact congrArg (State.stage · 9 _) (State.rowWalk_of_hit (s := (s.consume [m.d.toNat]).fresh.2) hit _ true)

/-- Where none does, the walk of a ROWWR begins at its issue. -/
theorem fires_rowwr_of_miss {m : FM} {va : Nat} (hva : va = s.rowVa (hxM m) + rowByte m) (h : s.rangeHit s.abut s.rg.func va = none)
    (hc : s.rowChk va true = .ok) :
    Fires (.rowwr m) s [m.d.toNat] [] (fun t =>
      (t.fresh.2.beginWalk t.fresh.1 va va true false).stage 9 (.row va (leBytes 4 (s.src m.d.toNat).toNat))) := by
  subst hva
  refine fires_entry (i := .rowwr m) rfl hc ?_
  have hmiss := (s.consume_rangeHit [m.d.toNat] _).trans h
  exact congrArg (State.stage · 9 _) (State.rowWalk_of_miss (s := (s.consume [m.d.toNat]).fresh.2) hmiss _ true)

/-- ROWQ lands whether its region holds the row from an earlier cycle, the row's disposition and the code of its latest ROWHOLD (R406). -/
theorem lands_rowq {f : FK} (h : s.rowPa (hxK f) = some pa) :
    Lands (.rowq f) s [] f.d.toNat (BitVec.ofNat 32
      ((if (s.rowHold pa).any (fun h => h.r == s.focus.r && h.st != .saved && decide (h.since < s.cycle)) then 1 else 0) +
        (if (s.rowDecl (hxK f)).reopen then 2 else 0) + s.rg.old.rowCode.get 7 (rowOf pa) * 16)) := by
  refine lands_compute (i := .rowq f) rfl ?_
  simp only [h, Option.bind_some]
  cases s.rowHold pa <;> rfl

end RowEntries

end Sys2Proof.Machine

namespace Sys2Proof.Settled

open Sys2Proof Sys2Proof.Machine Sys2Proof.Safety

/-- Settles O27, entry by entry: the row's translation puts its check in order, and the walk is that of an address whose range entries stand
as they did before the entry took its words. -/
theorem rowEntries : Obligations.RowEntries := by
  unfold Obligations.RowEntries
  intro s f m pa qa
  refine ⟨fun h => ⟨fires_rowopen h, fires_rowhold h, lands_rowq h⟩, fires_rowrd rfl, fun e => fires_rowwr_of_hit rfl, ?_⟩
  rintro t p size _ b hmiss ht hwalk rfl
  exact fires_rowwr_of_miss rfl hmiss (State.rowChk_write_of_miss hmiss ht hwalk)

end Sys2Proof.Settled
end

section
/-! PROOFS. O16: SBAR, FENCE, REL and ACQ, and what an SBAR holds behind what. -/

namespace Sys2Proof.Machine

open Sys2Proof Sys2Proof.Safety

/-! ## A measure that no step of a fold lowers -/

section Measures

variable {σ α : Type} {μ : σ → Nat} {g : σ → α → σ} (hmono : ∀ t a, μ t ≤ μ (g t a))
include hmono

theorem le_foldl (l : List α) (t : σ) : μ t ≤ μ (l.foldl g t) := by
  induction l generalizing t with
  | nil => exact Nat.le_refl _
  | cons a l ih => exact (hmono t a).trans (ih (g t a))

/-- After a fold the measure is at least what one of its steps brings it to. -/
theorem le_foldl_of_mem {m : Nat} {a : α} {l : List α} (ha : a ∈ l) (hm : ∀ t, m ≤ μ (g t a)) (t : σ) : m ≤ μ (l.foldl g t) := by
  induction l generalizing t with
  | nil => cases ha
  | cons b l ih =>
    rcases List.mem_cons.1 ha with rfl | hl
    · exact (hm t).trans (le_foldl hmono l _)
    · exact ih hl _

end Measures

theorem le_maxNat {a : Nat} {l : List Nat} (h : a ∈ l) : a ≤ maxNat l :=
  le_foldl_of_mem (μ := fun n => n) (g := max) Nat.le_max_left h (fun t => Nat.le_max_right t a) 0

/-! ## Commit epochs and orders of an element (R171) -/

section Epochs

variable (e : Elem)

/-- The stores of a named stream lie below the epoch that follows those of the names. -/
theorem Elem.used_le_epochAfter {mask k : Nat} (h : mask.testBit k = true) : e.used.get 0 k ≤ e.epochAfter mask false := by
  rw [Tbl.get_eq_find]
  cases hf : e.used.find k with
  | none => exact Nat.zero_le _
  | some v => exact le_maxNat (List.mem_map.2 ⟨(k, v), List.mem_filter.2 ⟨Tbl.mem_of_find hf, h⟩, rfl⟩)

/-- One stream's next epoch raised to `m`, where the mask has the stream. -/
theorem Tbl.get_le_raise (t : Tbl Nat) (c : Bool) (m k sn : Nat) :
    t.get 0 sn ≤ (if c then t.set k (Nat.max m (t.get 0 k)) else t).get 0 sn := by
  split
  · rw [Tbl.get_set]
    split
    · next h => exact h ▸ Nat.le_max_right _ _
    · exact Nat.le_refl _
  · exact Nat.le_refl _

/-- Holding streams lowers no stream's next epoch. -/
theorem Elem.le_holdEpoch (mask m sn : Nat) : e.epoch.get 0 sn ≤ (e.holdEpoch mask m).epoch.get 0 sn :=
  le_foldl (μ := (Tbl.get 0 · sn)) (fun t k => Tbl.get_le_raise t (mask.testBit k) m k sn) _ _

/-- A stream that is held takes no epoch below the one that it is held to. -/
theorem Elem.holdEpoch_le {mask sn : Nat} (h : mask.testBit sn = true) (hs : sn < 12) (m : Nat) :
    m ≤ (e.holdEpoch mask m).epoch.get 0 sn := by
  refine le_foldl_of_mem (μ := (Tbl.get 0 · sn)) (fun t k => Tbl.get_le_raise t (mask.testBit k) m k sn) (List.mem_range.2 hs) (fun t => ?_) _
  simp only [h, if_true, Tbl.get_set_self]
  exact Nat.le_max_left _ _

/-- An order made now is in force. -/
theorem Elem.mem_addOrder (o : Order) (cycle : Nat) : o ∈ (e.addOrder o cycle).order := by simp [Elem.addOrder]

@[simp] theorem Elem.addOrder_used (o : Order) (cycle : Nat) : (e.addOrder o cycle).used = e.used := rfl

variable {e}

/-- A held stream waits for the reads of an order in force. -/
theorem Elem.mem_waitsOf_ids {o : Order} {sn rnd i : Nat} (ho : o ∈ e.order) (hheld : o.held.testBit sn = true) (hi : i ∈ o.ids) :
    i ∈ (e.waitsOf sn rnd).1 :=
  List.mem_flatMap.2 ⟨o, List.mem_filter.2 ⟨ho, hheld⟩, hi⟩

/-- A held stream waits for the stores that an order of this round or the last names. -/
theorem Elem.mem_waitsOf_named {o : Order} {sn rnd : Nat} {w : Wait} (ho : o ∈ e.order) (hheld : o.held.testBit sn = true)
    (hr : rnd ≤ o.rnd + 1) (hw : w ∈ o.named) : w ∈ (e.waitsOf sn rnd).2 :=
  List.mem_flatMap.2 ⟨o, List.mem_filter.2 ⟨List.mem_filter.2 ⟨ho, hheld⟩, by simpa using hr⟩, hw⟩

end Epochs

/-! ## The element in focus after a change to it -/

section Focused

variable {s : State} (hb : Bound s)
include hb

theorem State.find_modE (g : Elem → Elem) :
    (s.modE g).rg.now.elems.find (elemKey s.focus.sg s.focus.x s.focus.y) = some (g s.nowE) := by
  rw [State.modE, State.modNow_now hb, Fabric.modElem, Tbl.find_set_self]
  rfl

theorem State.nowE_modE (g : Elem → Elem) : (s.modE g).nowE = g s.nowE := by
  change (s.modE g).rg.now.elem s.focus.sg s.focus.x s.focus.y = _
  rw [Fabric.elem, Tbl.get_eq_find, State.find_modE hb, Option.getD_some]

end Focused

/-! ## The SBARs of one step as one (R171, R192) -/

/-- The order that the SBARs fired before in the running step have made, where there are any. -/
def State.sbarJoint (s : State) : Option Order :=
  (s.sbarMates.head?).bind (fun k => (s.rg.now.elems.get (Elem.fresh .me) k).order.find? (fun o => o.at_ == s.cycle + 1))

/-- The order of an SBAR that fires now: what it names, and what the SBARs of its step have named. -/
def State.sbarOrder (s : State) (named held : Nat) : Order :=
  { held := held, named := s.waitOn named false :: (s.sbarJoint.map (·.named)).getD []
    ids := s.nowE.outstanding named ++ (s.sbarJoint.map (·.ids)).getD [], at_ := s.cycle + 1, rnd := s.rg.rnd }

/-- The state with the order of an SBAR in force in the element in focus. -/
def State.sbarMade (s : State) (named held : Nat) : State := s.modE (fun e => e.addOrder (s.sbarOrder named held) s.cycle)

/-- The epoch that follows the stores of all streams that the SBARs of a step name. -/
def State.sbarEpoch (s : State) (named held : Nat) : Nat :=
  maxNat ((s.sbarOrder named held).named.map (fun w =>
    ((s.sbarMade named held).rg.now.elems.get (Elem.fresh .me) w.key).epochAfter w.mask false))

/-- An element whose orders made at `o.at_` name what order `o` names, and hold their streams to epoch `m`. -/
def Elem.joined (e : Elem) (o : Order) (m : Nat) : Elem :=
  e.order.foldl (fun (e : Elem) q => if q.at_ = o.at_ then e.holdEpoch q.held m else e)
    { e with order := e.order.map (fun q => if q.at_ = o.at_ then { q with named := o.named, ids := o.ids } else q) }

section Joined

variable {e : Elem} {o : Order}

/-- Joining keeps an order that has all the names already. -/
theorem Elem.mem_joined_order (ho : o ∈ e.order) (m : Nat) : o ∈ (e.joined o m).order := by
  have keep : (e.joined o m).order = e.order.map (fun q => if q.at_ = o.at_ then { q with named := o.named, ids := o.ids } else q) := by
    refine List.foldlRecOn (motive := fun u : Elem => u.order = _) e.order _ rfl (fun u hu q _ => ?_)
    split <;> exact hu
  rw [keep]
  exact List.mem_map.2 ⟨o, ho, if_pos rfl⟩

/-- The streams that the order holds take no epoch below the joint one. -/
theorem Elem.joined_le (ho : o ∈ e.order) {sn : Nat} (hheld : o.held.testBit sn = true) (hs : sn < 12) (m : Nat) :
    m ≤ (e.joined o m).epoch.get 0 sn := by
  refine le_foldl_of_mem (μ := fun u : Elem => u.epoch.get 0 sn) (fun u q => ?_) ho (fun u => ?_) _
  · split
    · exact u.le_holdEpoch q.held m sn
    · exact Nat.le_refl _
  · rw [if_pos rfl]
    exact u.holdEpoch_le hheld hs m

end Joined

/-- An SBAR makes its order, and joins its element with those whose SBARs have fired before in its step. -/
theorem State.sbar_eq (s : State) (named held : Nat) : s.sbar named held = (s.sbarMade named held).modNow (fun f => { f with
    elems := f.elems.map (fun (p : Nat × Elem) =>
      (p.1, if s.sbarMates.contains p.1 || p.1 == elemKey s.focus.sg s.focus.x s.focus.y then
        p.2.joined (s.sbarOrder named held) (s.sbarEpoch named held) else p.2)) }) := rfl

section Sbar

variable {s : State} (hb : Bound s) (named held : Nat)
include hb

/-- An SBAR joins the element in focus. -/
theorem State.nowE_sbar : (s.sbar named held).nowE =
    (s.nowE.addOrder (s.sbarOrder named held) s.cycle).joined (s.sbarOrder named held) (s.sbarEpoch named held) := by
  have hbm : Bound (s.sbarMade named held) := (State.modNow_bound _).2 hb
  change (s.sbar named held).rg.now.elem s.focus.sg s.focus.x s.focus.y = _
  rw [State.sbar_eq, State.modNow_now hbm, Fabric.elem, Tbl.get_eq_find]
  rw [Tbl.find_mapVals (f := fun k (e : Elem) => if s.sbarMates.contains k || k == elemKey s.focus.sg s.focus.x s.focus.y then
    e.joined (s.sbarOrder named held) (s.sbarEpoch named held) else e), State.sbarMade, State.find_modE hb]
  simp only [beq_self_eq_true, Bool.or_true, if_true, Option.map_some, Option.getD_some]

/-- The joint epoch follows the stores of each stream that the SBAR in focus names. -/
theorem State.used_le_sbarEpoch {k : Nat} (h : named.testBit k = true) : s.nowE.used.get 0 k ≤ s.sbarEpoch named held := by
  refine (s.nowE.used_le_epochAfter h).trans (le_maxNat (List.mem_map.2 ⟨s.waitOn named false, List.mem_cons_self, ?_⟩))
  rw [State.waitOn, Tbl.get_eq_find, State.sbarMade, State.find_modE hb]
  rfl

end Sbar

/-! ## FENCE, REL and ACQ (R170, R172 to R174, R363) -/

section Fences

variable {s : State} {f : FK}

/-- A fence that is not of system scope is a barrier over all streams. -/
theorem State.fence_of_ne {scope : Nat} (h : scope ≠ 4) (named : Nat) (also : List (Nat × Nat)) :
    s.fence named scope also = s.barrier named allStreams (scope == 2) := by
  simp only [State.fence, h, if_false]

/-- A fence of span or page scope only orders what is ordered already. -/
theorem fires_fence_inner (h : bitsOf f.param 2 0 < 2) : Fires (.fence f) s [] [] (fun t => t) :=
  fires_entry (i := .fence f) rfl rfl (if_pos h)

theorem fires_fence (h : 2 ≤ bitsOf f.param 2 0) :
    Fires (.fence f) s [] [] (fun t => t.fence allStreams (bitsOf f.param 2 0) []) :=
  fires_entry (i := .fence f) rfl rfl (if_neg (Nat.not_lt.2 h))

/-- REL is a fence, the clean of its range where it has one, and a release store that is to come. -/
theorem fires_rel : Fires (.rel f) s (if bitAt f.param 9 then [f.a.toNat] else []) [] (fun t =>
    let u := t.fence relStreams (bitsOf f.param 2 0) s.nowE.waited
    let range := s.cmoSpan (bitsOf f.param 8 6) (s.src f.a.toNat).toNat
    (if bitAt f.param 9 then u.stage (bitsOf f.param 5 3) (.cmo range.1 range.2 0 (if bitsOf f.param 2 0 = 4 then 1 else 0)) else u).modE
      (fun e => { e with relNext := insertUniq (bitsOf f.param 5 3) e.relNext
                         waited := if bitsOf f.param 2 0 = 4 then [] else e.waited })) := by
  refine fires_entry (i := .rel f) rfl rfl ?_
  simp only [State.acqRange]
  cases bitAt f.param 9 <;> rfl

/-- ACQ makes reads that are to come an acquire, which brings its range at system scope. -/
theorem fires_acq : Fires (.acq f) s (if bitAt f.param 9 then [f.a.toNat] else []) [] (fun t => t.modE (fun e =>
    { e with acqNext := e.acqNext.set (bitsOf f.param 5 3) ((e.acqNext.find (bitsOf f.param 5 3)).getD [] ++
      (if bitAt f.param 9 ∧ bitsOf f.param 2 0 = 4 then [s.cmoSpan (bitsOf f.param 8 6) (s.src f.a.toNat).toNat] else [])) })) := by
  refine fires_entry (i := .acq f) rfl rfl ?_
  simp only [State.acqRange]
  cases bitAt f.param 9 <;> by_cases h : bitsOf f.param 2 0 = 4 <;> simp [h]

end Fences

end Sys2Proof.Machine

namespace Sys2Proof.Settled

open Sys2Proof Sys2Proof.Machine Sys2Proof.Safety

/-- Settles O16: the entries complete as their equations say, and the order that an SBAR makes is in force in its element, with all that the
SBARs of its step name (`State.nowE_sbar`). -/
theorem orderingEntries : Obligations.OrderingEntries := by
  unfold Obligations.OrderingEntries
  refine ⟨fun s f => ⟨fires_entry (i := .sbar f) rfl rfl rfl, fires_fence_inner, fun h2 h4 => ?deviceFence, fun h4 => ?systemFence, ?rel,
    fires_acq⟩, fun s named held sn hb hs hheld => ?waits⟩
  case deviceFence =>
    have h := fires_fence (s := s) h2
    simp only [State.fence_of_ne h4] at h
    exact h
  case systemFence =>
    have h := fires_fence (s := s) (f := f) (by omega)
    simp only [h4] at h
    exact h
  case rel =>
    have h := fires_rel (s := s) (f := f)
    by_cases h4 : bitsOf f.param 2 0 = 4
    · simp only [h4, if_true] at h ⊢
      exact h
    · simp only [State.fence_of_ne h4, h4, if_false] at h ⊢
      exact h
  case waits =>
    have hin := Elem.mem_joined_order (s.nowE.mem_addOrder (s.sbarOrder named held) s.cycle) (s.sbarEpoch named held)
    simp only [State.nowE_sbar hb]
    refine ⟨fun r hr hn => ?_, ?_, fun k hk => ?_⟩
    · refine Elem.mem_waitsOf_ids hin hheld (List.mem_append_left _ ?_)
      exact List.mem_map.2 ⟨r, List.mem_filter.2 ⟨hr, hn⟩, rfl⟩
    · exact Elem.mem_waitsOf_named hin hheld (Nat.le_succ _) List.mem_cons_self
    · exact (State.used_le_sbarEpoch hb named held hk).trans (Elem.joined_le (s.nowE.mem_addOrder _ _) hheld (by omega) _)

end Sys2Proof.Settled
end

section
/-! PROOFS. O14: GATH and SCAT. -/

namespace Sys2Proof.Machine

open Sys2Proof Sys2Proof.Safety

/-! ## The local places of the rows (R355) -/

/-- Row by row the local places are those of a list that has them in order. -/
theorem map_range_eq_of_getD {α β : Type} {n : Nat} {p : Nat → β} {l : List α} {d : α} {c : α → β} (hl : l.length = n)
    (h : ∀ k, k < n → p k = c (l.getD k d)) : (List.range n).map p = l.map c := by
  subst hl
  refine List.ext_getElem (by simp) fun k _ hk => ?_
  have hk : k < l.length := by simpa using hk
  simpa [hk] using h k hk

/-- A walk over rows with the images of places is one over rows with places. -/
theorem foldl_zip_map {α β γ σ : Type} (g : σ → α × γ → σ) (c : β → γ) (rows : List α) (l : List β) (t : σ) :
    (rows.zip (l.map c)).foldl g t = (rows.zip l).foldl (fun u p => g u (p.1, c p.2)) t := by
  rw [List.zip_map_right, List.foldl_map]
  rfl

theorem State.pageRoom_ok {s : State} (h : s.pageCmds < 1024) : s.pageRoom = .ok := if_pos h

section GatherScatter

variable {s : State} {f : FM} {base : Nat} {ix rows : List Nat} {places : List (Nat × Nat)}
  (hix : s.indices f = (.ok, base, ix)) (hroom : s.pageCmds < 1024) (hlen : places.length = gathCount f)
include hix hroom hlen

/-- GATH with all its rows in order issues their reads, as one acquire where one is pending. -/
theorem fires_gath (hrows : s.rowAddrs f.strm.toNat (blockSize f.mode) false ix = (.ok, rows))
    (hdst : ∀ k, k < gathCount f → s.localWrite (alignDown (rowOff f k) (blockSize f.mode)) (bitsOf f.mode 3 2) (blockSize f.mode) =
      (.ok, (places.getD k (0, 0)).1, (places.getD k (0, 0)).2)) :
    Fires (.gath f) s [f.d.toNat] [] (fun t =>
      ((t.fresh.2.asAcquire f.strm.toNat (fun v => (rows.zip places).foldl (fun (u : State) p =>
        u.issueRead f.strm.toNat p.1 (blockSize f.mode) p.2.1 none false true t.fresh.1) v)).engineKib
          (gathCount f * blockSize f.mode)).modE (fun e => e.markRead base (4 * gathCount f))) := by
  refine fires_entry (i := .gath f) rfl ?_ ?_
  · refine (Chk.fold_eq_ok _ _ _).2 ⟨by simp only [hix, hrows, State.pageRoom_ok hroom, Chk.ok_and], fun w hw => ?_⟩
    obtain ⟨k, hk, rfl⟩ := List.mem_map.1 hw
    rw [hdst k (List.mem_range.1 hk)]
  · simp only [hix, hrows, map_range_eq_of_getD (c := fun p => (Chk.ok, p.1, p.2)) hlen hdst, foldl_zip_map]

/-- SCAT with all its rows in order stages their stores, as one release where one is pending. -/
theorem fires_scat (hrows : s.rowAddrs f.strm.toNat (blockSize f.mode) true ix = (.ok, rows)) (hfeed : s.feedChk f.strm.toNat = .ok)
    (hsrc : ∀ k, k < gathCount f → LocalReadable s (alignDown (rowOff f k) (blockSize f.mode)) (bitsOf f.mode 3 2) (blockSize f.mode)
      (places.getD k (0, 0)).1) :
    Fires (.scat f) s [f.d.toNat] [] (fun t =>
      (((t.asRelease f.strm.toNat (fun v => (rows.zip places).foldl (fun (u : State) p =>
        ((u.walkStore p.1 (blockSize f.mode)).putStore f.strm.toNat p.1 (s.sramOld p.2.1 (blockSize f.mode))).modE
          (fun e => e.markRead p.2.1 (blockSize f.mode))) v)).engineKib (gathCount f * blockSize f.mode)).modR
            (fun g => { g with roundBytes := g.roundBytes + gathCount f * blockSize f.mode })).modE
              (fun e => { e.markRead base (4 * gathCount f) with scatAt := s.cycle + 1 })) := by
  refine fires_entry (i := .scat f) rfl ?_ ?_
  · refine (Chk.fold_eq_ok _ _ _).2 ⟨by simp only [hix, hrows, State.pageRoom_ok hroom, hfeed, Chk.ok_and], fun w hw => ?_⟩
    obtain ⟨k, hk, rfl⟩ := List.mem_map.1 hw
    obtain ⟨hlocal, hpoison⟩ := hsrc k (List.mem_range.1 hk)
    simp only [hlocal, hpoison, Chk.ok_and]
  · simp only [hix, hrows, map_range_eq_of_getD (c := fun p => (Chk.ok, p.1)) hlen (fun k hk => (hsrc k hk).1), foldl_zip_map]

end GatherScatter

end Sys2Proof.Machine

namespace Sys2Proof.Settled

open Sys2Proof Sys2Proof.Machine Sys2Proof.Safety

/-- Settles O14: with the checks of all rows in order, each entry walks the rows with their local places, in ascending row. -/
theorem gatherAndScatter : Obligations.GatherAndScatter := by
  unfold Obligations.GatherAndScatter
  intro s f base ix rows places size n sn j place hix hroom hlen
  exact ⟨fires_gath hix hroom hlen, fires_scat hix hroom hlen⟩

end Sys2Proof.Settled
end

section
/-! PROOFS. O19: FMA, FDOT, FSUM, FMAXA, FEX2 and FLG2. -/

namespace Sys2Proof.Machine

open Sys2Proof Sys2Proof.Safety

/-! ## Entries that compute one value from their operands (R299, R308) -/

section Operands

variable {i : Instr} {s : State} {r : Word}

/-- How a one-source format-T entry completes. -/
theorem lands_alu1 {f : FT} {v : Word → Word} (h : exec i s = go (s.alu1 f v)) (hv : v (opA s f) = r) :
    Lands i s [f.a.toNat] f.d.toNat r :=
  lands_compute h hv

/-- How a two-source format-T entry completes. -/
theorem lands_alu2 {f : FT} {v : Word → Word → Word} (h : exec i s = go (s.alu2 f v)) (hv : v (opA s f) (opB s f) = r) :
    Lands i s [f.a.toNat, f.b.toNat] f.d.toNat r :=
  lands_compute h hv

/-- How a three-source format-F entry completes. -/
theorem lands3_alu3 {f : FF} {v : Word → Word → Word → Word} (h : exec i s = go (s.alu3 f v))
    (hv : v (opA3 s f) (opB3 s f) (opC3 s f) = r) : Lands3 i f s r :=
  lands_compute h hv

end Operands

/-! ## What the float entries leave in their lanes (R370, R380) -/

/-- A register of float lanes holds its codes, lane by lane. -/
theorem laneWise_lanesF (ty : Nat) (g : Nat → Nat) : LaneWise ty (lanesF ty g) (fun i => (g i : Int)) :=
  laneWise_ofLanes ty _

/-- The codes that FSUM and FMAXA reduce are the lanes of A in order, then those of B. -/
theorem laneCodes_operands (s : State) (f : FT) :
    laneCodes f.ty.toNat (opA s f) (opB s f) =
      (List.range (32 / tyWidth f.ty.toNat)).map (xn s f) ++ (List.range (32 / tyWidth f.ty.toNat)).map (yn s f) := rfl

/-- FMAXA picks the greater of what it has and the next magnitude, from +0 on; a NaN stays (R373, R380). -/
theorem fmaxaVal_eq_foldl (ty : Nat) (a b : Word) :
    fmaxaVal ty a b = BitVec.ofNat 32 ((laneCodes ty a b).foldl (fun m c =>
      fPick (tyFmt ty) true false m (roundFV (tyFmt ty) 0 (valueOf (tyFmt ty) c).abs)) 0) := rfl

end Sys2Proof.Machine

namespace Sys2Proof.Settled

open Sys2Proof Sys2Proof.Machine Sys2Proof.Safety

/-- Settles O19: each entry lands its value of the operands; FMA's holds one rounded sum in each lane, and the values that FSUM and FMAXA
reduce are the lanes of both operands in order. -/
theorem floatSums : Obligations.FloatSums := by
  unfold Obligations.FloatSums
  intro s f g ty n codes
  have hcodes : laneCodes f.ty.toNat (opA s f) (opB s f) = codes := laneCodes_operands s f
  refine ⟨⟨fmaVal ty (opA3 s g) (opB3 s g) (opC3 s g), ?fma, laneWise_lanesF ty _⟩, ?fdot, ?fsum, ?fmaxa, ?fex2, ?flg2⟩
  case fma => exact lands3_alu3 (i := .fma g) rfl rfl
  case fdot => exact lands3_alu3 (i := .fdot g) rfl rfl
  case fsum =>
    refine lands_alu2 (i := .fsum f) rfl ?_
    rw [hcodes, fMode]
  case fmaxa =>
    refine lands_alu2 (i := .fmaxa f) rfl ?_
    rw [fmaxaVal_eq_foldl, hcodes]
  case fex2 => exact lands_alu1 (i := .fex2 f) rfl rfl
  case flg2 => exact lands_alu1 (i := .flg2 f) rfl rfl

end Sys2Proof.Settled
end

section
/-! PROOFS. O25: FOLB, FOLV, FOLC, FOLR, FOLI and FOLQ. -/

namespace Sys2Proof.Machine

open Sys2Proof Sys2Proof.Safety

/-- An entry whose sources can be read and whose destinations can be written raises the fault that its own check finds (R249). -/
theorem State.entry_faults {s : State} {srcs ds : List Nat} {code addr : Nat} (hs : Readable s srcs) (hd : Writable s ds)
    (eff : State → State) : s.entry srcs ds (.fault code addr) eff = s.raiseHere code addr := by
  unfold State.entry
  rw [State.dsts_ok hd, show s.srcsChk srcs = .ok from hs]
  rfl

/-! ## The check of PH (R218, R220, R223) -/

section Phase

variable {s : State} {fx want : Nat}

/-- With its control fields readable, a folio's PH is all that an entry's check of its phase looks at. -/
theorem State.phase?_of_readable (hc : ControlReadable s fx) :
    s.phase? fx want = if (s.folio fx).ph ≠ want then .fault 0x32 0 else .ok := by
  obtain ⟨hfold, hctl⟩ := hc
  rw [State.phase?, hfold, hctl, Chk.ok_and, if_neg Bool.false_ne_true]

theorem State.phase?_eq_ok (hc : ControlReadable s fx) (hp : (s.folio fx).ph = want) : s.phase? fx want = .ok := by
  rw [State.phase?_of_readable hc, if_neg (not_not.2 hp)]

/-- An entry that is checked for its phase alone has no effect in another: it raises fault 0x32 (R220). -/
theorem entry_raises_of_phase {i : Instr} {ds : List Nat} {eff : State → State}
    (h : exec i s = go (s.entry [] ds (s.phase? fx want) eff)) (hc : ControlReadable s fx) (hd : Writable s ds)
    (hp : (s.folio fx).ph ≠ want) : exec i s = .next (s.raiseHere 0x32 0) := by
  rw [h, State.phase?_of_readable hc, if_pos hp, State.entry_faults (Readable_nil s) hd, go]

end Phase

/-! ## What FOLV and FOLC decide (R218) -/

/-- FOLV has the pass recompute in full for each of the five reasons of R218, and for no other. -/
theorem folioFull_iff (d : FolioDecl) (k : Folio) (ver : Word) : folioFull d k ver = true ↔
    (k.valid = false ∨ k.ver ≠ ver ∨ k.refresh = true ∨ FV.lt (f32 d.dmax) (f32 k.drift) = true ∨ (d.nref ≠ 0 ∧ d.nref ≤ k.cnt)) := by
  simp [folioFull, or_assoc]

/-- FOLC keeps the result of a pass that nothing has spoilt. -/
theorem folioKeeps_iff (k : Folio) (ver : Word) : folioKeeps k ver = true ↔ (k.kill = false ∧ k.nfin = false ∧ ver = k.vlat) := by
  simp [folioKeeps, and_assoc]

/-! ## The control entries (R218, R221, R405) -/

section Control

variable {s : State} {f : FK}

theorem fires_folb (hc : ControlReadable s (fxOf f)) (hp : (s.folio (fxOf f)).ph = 0) :
    Fires (.folb f) s [] [] (fun t => t.modFolio (fxOf f) (fun k => { k with kill := false, nfin := false, ph := 1, tc := 0 })) :=
  fires_entry (i := .folb f) rfl (State.phase?_eq_ok hc hp) rfl

theorem fires_folv (hc : ControlReadable s (fxOf f)) (hp : (s.folio (fxOf f)).ph = 1) :
    let ver := s.version (s.folioDecl (fxOf f)).layer
    let full := folioFull (s.folioDecl (fxOf f)) (s.folio (fxOf f)) ver
    Fires (.folv f) s [] [f.d.toNat] (fun t =>
      let u := ((t.put f.d.toNat (boolWord full)).modFolio (fxOf f) (fun k =>
        { k with vlat := ver, full := full, refresh := false, ph := 2 })).count 0x30
      if full then u.count 0x31 else u) :=
  fires_entry (i := .folv f) rfl (State.phase?_eq_ok hc hp) rfl

theorem fires_folc (hc : ControlReadable s (fxOf f)) (hp : (s.folio (fxOf f)).ph = 4) :
    let ver := s.version (s.folioDecl (fxOf f)).layer
    Fires (.folc f) s [] [f.d.toNat] (fun t =>
      (t.put f.d.toNat (boolWord (folioKeeps (s.folio (fxOf f)) ver))).modFolio (fxOf f) (fun k => folioAfterC k ver)) :=
  fires_entry (i := .folc f) rfl (State.phase?_eq_ok hc hp) rfl

/-- FOLR reads no control field: it is held by their bank alone (R30). -/
theorem fires_folr (hw : s.homeAwake (fxOf f) ((s.folio (fxOf f)).xOff - 64) 64 = .ok) :
    Fires (.folr f) s [] [] (fun t => t.modFolio (fxOf f) (fun k => { k with refresh := true })) :=
  fires_entry (i := .folr f) rfl hw rfl

theorem fires_foli (hc : ControlReadable s (fxOf f)) :
    Fires (.foli f) s [] [] (fun t => t.modFolio (fxOf f) (fun q =>
      { q with valid := false, kill := q.kill || decide ((s.folio (fxOf f)).ph ≠ 0) })) := by
  obtain ⟨hfold, hctl⟩ := hc
  refine fires_entry (i := .foli f) rfl ?_ rfl
  rw [hfold, hctl, if_neg Bool.false_ne_true]

/-- FOLQ lands its field; the declared fields and the committed version, from index 11 on, are no control fields. -/
theorem lands_folq (h : ControlReadable s (fxOf f) ∨ 11 ≤ bitsOf f.param 8 2) :
    Lands (.folq f) s [] f.d.toNat
      (folioField (s.folioDecl (fxOf f)) (s.folio (fxOf f)) (s.version (s.folioDecl (fxOf f)).layer) (bitsOf f.param 8 2)) := by
  refine fires_entry (i := .folq f) rfl ?_ rfl
  rcases h with ⟨hfold, hctl⟩ | hidx
  · simp only [hfold, hctl, Bool.false_and, Bool.false_eq_true, if_false, ite_self]
  · have hpending : (bitsOf f.param 8 2 == 4 || bitsOf f.param 8 2 == 5 || bitsOf f.param 8 2 == 9) = false := by
      simp only [Bool.or_eq_false_iff, beq_eq_false_iff_ne]
      omega
    rw [hpending, Bool.and_false, if_neg Bool.false_ne_true, if_neg (by omega)]

end Control

end Sys2Proof.Machine

namespace Sys2Proof.Settled

open Sys2Proof Sys2Proof.Machine Sys2Proof.Safety

/-- Settles O25, entry by entry: the check of PH, once the control fields can be read, passes in one phase and faults in every other. -/
theorem folioControl : Obligations.FolioControl := by
  unfold Obligations.FolioControl
  constructor
  · intro s f fx d k ver idx full keep
    refine ⟨?folb, ?folv, ?folc, ?folr, ?foli, ?folq⟩
    case folb => exact fires_folb
    case folv => exact fun hc hp => ⟨folioFull d k ver, folioFull_iff d k ver, fires_folv hc hp⟩
    case folc => exact fun hc hp => ⟨folioKeeps k ver, folioKeeps_iff k ver, fires_folc hc hp⟩
    case folr => exact fires_folr
    case foli => exact fires_foli
    case folq => exact lands_folq
  · intro s f fx hc hd
    refine ⟨?folb, ?folv, ?folc⟩
    case folb => exact entry_raises_of_phase (i := .folb f) rfl hc (Writable_nil s)
    case folv => exact entry_raises_of_phase (i := .folv f) rfl hc hd
    case folc => exact entry_raises_of_phase (i := .folc f) rfl hc hd

end Sys2Proof.Settled
end

section
/-! PROOFS. O26: FOLD completes where XP can be read in its home ME, and freezes while a bank of XP wakes there, which O26 does not
exclude; FOLM completes as O26 says. -/

namespace Sys2Proof.Machine

open Sys2Proof Sys2Proof.Safety

/-! ## A freeze stands over every other condition (R111) -/

@[simp] theorem Chk.stall_and (c : Chk) : Chk.and .stall c = .stall := by cases c <;> rfl
@[simp] theorem Chk.and_stall (c : Chk) : Chk.and c .stall = .stall := by cases c <;> rfl

/-- An entry that its own check freezes freezes its span, whatever its operands. -/
theorem State.entry_stalls (s : State) (srcs ds : List Nat) (eff : State → State) : s.entry srcs ds .stall eff = s.stall := by
  unfold State.entry
  rw [Chk.and_stall]
  rfl

/-! ## FOLD (R218, R403) -/

section Fold

variable {s : State} {f : FM} {x y g : Nat}

/-- FOLD reads XP in its home ME: while a bank of XP wakes there, FOLD freezes its span (R30). -/
theorem exec_fold_stalls (h : s.homeAwake (bitsOf f.mode 1 0) (s.folio (bitsOf f.mode 1 0)).xOff
      (4 * (s.folioDecl (bitsOf f.mode 1 0)).n) = .stall) : exec (.fold f) s = .next s.stall := by
  show go _ = _
  simp only [State.homeChk, h, Chk.stall_and, Chk.and_stall]
  rw [State.entry_stalls, go]

/-- FOLD in phase 2, with x and XP readable, XP in the home ME, and its burst place writable, both outside the state of every folio. -/
theorem fires_fold (hc : ControlReadable s (bitsOf f.mode 1 0)) (hp : (s.folio (bitsOf f.mode 1 0)).ph = 2)
    (hx : LocalReadable s (alignDown (s.src f.d.toNat).toNat 4) 0 (4 * (s.folioDecl (bitsOf f.mode 1 0)).n) x)
    (hy : LocalWritable s (bitsOf f.off 17 0) 0 (36 * ((s.folioDecl (bitsOf f.mode 1 0)).n / 32)) y g)
    (hxp : s.homeChk (bitsOf f.mode 1 0) (s.folio (bitsOf f.mode 1 0)).xOff (4 * (s.folioDecl (bitsOf f.mode 1 0)).n) = .ok)
    (hxf : s.meetsFolio x (4 * (s.folioDecl (bitsOf f.mode 1 0)).n) = false)
    (hyf : s.meetsFolio y (36 * ((s.folioDecl (bitsOf f.mode 1 0)).n / 32)) = false) :
    let fx := bitsOf f.mode 1 0
    let d := s.folioDecl fx
    let k := s.folio fx
    Fires (.fold f) s [f.d.toNat] [] (fun t =>
      (t.inFlight (s.cycle + 8 + d.n / 8) (.fold f) false [] [] [] 0#32 y
        (bytesWords (s.sramOld x (4 * d.n)) ++ bytesWords (s.sramOld k.xOff (4 * d.n))) k.full).modE (fun e =>
          { e.markRead x (4 * d.n) with marks := e.marks ++ foldMarks fx k d.n y })) := by
  obtain ⟨hread, hpoison⟩ := hx
  have hwrite : s.localWrite (bitsOf f.off 17 0) 0 (36 * ((s.folioDecl (bitsOf f.mode 1 0)).n / 32)) = (.ok, y, g) := hy
  refine fires_entry (i := .fold f) rfl ?_ ?_
  · simp only [State.phase?_eq_ok hc hp, hread, hpoison, hxp, hwrite, hxf, hyf, Chk.ok_and, Bool.false_eq_true, if_false]
  · simp only [hread, hwrite]

end Fold

/-! ## FOLM (R218, R404) -/

section Folm

variable {s : State} {f : FX} {a : Nat}

/-- FOLM in phase 3, with tiles left, the burst of its input block readable at its side, and what its tile starts from readable. -/
theorem fires_folm :
    let fx := s.folmFx
    let d := s.folioDecl fx
    let k := s.folio fx
    let side := bitsOf f.opt 1 0
    let home := s.sideElem side
    let burst := home.sram.readN a 36
    let h := wordAt burst 0
    let i := k.tc % (d.n / 32)
    let o := k.tc / (d.n / 32)
    let yp := if i = 0 then bytesWords (home.sram.readN (k.yOff d + 64 * o) 64) else []
    ControlReadable s fx → k.ph = 3 → k.tc ≠ d.tiles →
    s.sideRead side (alignDown (s.src f.d.toNat).toNat 4) 0 36 = (.ok, a) → bitsOf h 10 8 = 1 → bitsOf h 7 0 = i % 256 →
    s.slotChk f.asl.toNat 1 = .ok → s.accChk f.acc.toNat (i != 0) = .ok →
    (i = 0 → k.full = false → s.homeChk fx (k.yOff d + 64 * o) 64 = .ok) →
    Fires (.folm f) s [f.d.toNat] [] (fun t =>
      ((t.nodeOp 68 (.folm f) [f.acc.toNat] (s.oldE.slot f.asl.toNat) burst 0#32 k.tc yp k.full).modFolio fx
        (fun k => { k with tc := k.tc + 1 })).modSide side (fun e => e.markRead a 36)) := by
  dsimp only
  intro hc hp htc hside hfmt hblock hslot hacc hprior
  refine fires_entry (i := .folm f) rfl ?_ (by simp only [hside])
  simp only [State.phase?_eq_ok hc hp, if_neg htc, hside, hslot, hacc, Chk.ok_and]
  refine Chk.and_eq_ok.2 ⟨if_neg ?head, ?start⟩
  case head => exact not_or.2 ⟨not_not.2 hfmt, not_not.2 hblock⟩
  case start =>
    split
    next hfirst =>
      obtain ⟨hi, hfull⟩ := Bool.and_eq_true_iff.1 hfirst
      exact hprior (of_decide_eq_true hi) (Bool.not_eq_true' _ ▸ hfull)
    next => rfl

end Folm

/-! ## A FOLD whose XP stands in a waking bank -/

/-- me(1,0), whose operand store is one buffer of banks 0 and 1, is the home of a folio of 32 elements. -/
def foldSig : SigDecl :=
  { SigDecl.none with
    folios := [{ FolioDecl.none with hx := 1 }]
    elems := [{ ElemDecl.none 1 0 with groups := [{ i := 0, lo := 0, hi := 1, mode := .store, n := 1, wd := 0 }] }] }

/-- The folio is in phase 2: its control fields end bank 0, which is awake, and its XP begins bank 1, which is waking. -/
def foldFabric : Fabric :=
  { Fabric.empty with
    elems := [(elemKey 0 1 0, { Elem.fresh .me with waking := [1] })]
    spans := [(0, Span.fresh .running)]
    folios := [(folioKey 0 0, { Folio.zero with ph := 2, xOff := 0x3000 })] }

/-- The home ME is in focus. -/
def foldWaking : State :=
  { State.reset with
    focus := { Focus.none with x := 1 }
    regions := [(0, { Region.empty with
      sigs := [{ decl := foldSig, idx := 0, page := 0, passed := false, final := false, done := false }]
      old := foldFabric, now := foldFabric, mode := .running })] }

/-- FOLD of folio 0, with x at local offset 0, the content of g0, and its bursts at local offset 256. -/
def foldEntry : FM := { d := 0#7, strm := 0#3, mode := 0#4, off := 256#21 }

theorem exec_fold_foldWaking : exec (.fold foldEntry) foldWaking = .next foldWaking.stall :=
  exec_fold_stalls (by decide)

theorem stall_foldWaking_stalled : (foldWaking.stall.rg.now.span 0 0).stalled = true := by decide

theorem controlReadable_foldWaking : ControlReadable foldWaking 0 := by unfold ControlReadable; decide

theorem localReadable_foldWaking : LocalReadable foldWaking 0 0 128 0 := by unfold LocalReadable; decide

theorem localWritable_foldWaking : LocalWritable foldWaking 256 0 36 256 0 := by unfold LocalWritable; decide

end Sys2Proof.Machine

namespace Sys2Proof.Settled

open Sys2Proof Sys2Proof.Machine Sys2Proof.Safety

/-- Refutes O26: nothing in its premises keeps the banks of XP from waking. With the control fields in a bank that is awake and XP in
one that is waking, they all hold, and FOLD freezes its span (R30), which no FOLD that completes does. -/
theorem not_folioOperations : ¬ Obligations.FolioOperations := by
  unfold Obligations.FolioOperations
  rintro ⟨h, -⟩
  have hfires := h foldWaking foldEntry 0 256 0 controlReadable_foldWaking (by decide) localReadable_foldWaking localWritable_foldWaking
    (by decide) (by decide) (by decide)
  have hnext := hfires (by unfold Readable; decide) (Writable_nil _)
  rw [exec_fold_foldWaking] at hnext
  have hstalled := stall_foldWaking_stalled
  rw [Host.Outcome.next.inj hnext] at hstalled
  exact absurd hstalled (by decide)

end Sys2Proof.Settled
end

section
/-! PROOFS. O28: STKH, STKM, STKA, STKN and STKQ. -/

namespace Sys2Proof.Machine

open Sys2Proof Sys2Proof.Safety

/-! ## Registers that an entry may leave unchanged (R231) -/

/-- What STKA and STKN make of register n: D says whether it was replaced. -/
def State.answerSoft (t : State) (d n : Nat) : Option Soft → State
  | some r => (t.put d 1#32).modE (fun e => e.setSoft n (e.hashed r))
  | none => t.put d 0#32

section Answers

variable {s : State} {f : FK} (hfree : s.softFree (stOf f) = .ok)
include hfree

theorem fires_stka (htok : tokChk s.oldE.dc.v [s.src f.a.toNat] = .ok) :
    Fires (.stka f) s [f.a.toNat, codeB f] [f.d.toNat] (fun t =>
      t.answerSoft f.d.toNat (stOf f) (stkaReg (s.oldE.soft (stOf f)) (s.src f.a.toNat) (s.src (codeB f)))) := by
  refine fires_entry (i := .stka f) rfl (Chk.and_eq_ok.2 ⟨hfree, htok⟩) ?_
  cases stkaReg (s.oldE.soft (stOf f)) (s.src f.a.toNat) (s.src (codeB f)) <;> rfl

theorem fires_stkn :
    Fires (.stkn f) s [] [f.d.toNat] (fun t => t.answerSoft f.d.toNat (stOf f) (stknReg (s.oldE.soft (stOf f)))) := by
  refine fires_entry (i := .stkn f) rfl hfree ?_
  cases stknReg (s.oldE.soft (stOf f)) <;> rfl

end Answers

/-- STKQ waits for the register under index 64 and for the context from there on (R409). -/
theorem lands_stkq {s : State} {f : FK} (hreg : bitsOf f.param 9 3 < 64 → s.softFree (stOf f) = .ok)
    (hctx : 64 ≤ bitsOf f.param 9 3 → s.ctxFree (bitsOf f.param 9 3 == 66) = .ok) :
    Lands (.stkq f) s [] f.d.toNat (stkqField (s.oldE.soft (stOf f)) s.oldE.dc (bitsOf f.param 9 3)) := by
  refine fires_entry (i := .stkq f) rfl ?_ rfl
  split
  case isTrue h => exact hctx h
  case isFalse h => exact hreg (not_le.1 h)

end Sys2Proof.Machine

namespace Sys2Proof.Settled

open Sys2Proof Sys2Proof.Machine Sys2Proof.Safety

/-- Settles O28, entry by entry: each waits for its register alone, and for the place or the tokens that it names. -/
theorem softRegisters : Obligations.SoftRegisters := by
  unfold Obligations.SoftRegisters
  intro s f n a len fmt bytes nc word ids wts reg set i hfree
  refine ⟨?stkh, ?stkm, ?stka, ?stkn, ?stkqRegister, ?stkqContext⟩
  case stkh =>
    intro halign hread
    exact fires_entry (i := .stkh f) rfl (Chk.and_eq_ok.2 ⟨hfree, Chk.and_eq_ok.2 ⟨if_neg (not_not.2 halign), hread⟩⟩) rfl
  case stkm =>
    intro hread htok
    refine fires_entry (i := .stkm f) rfl ?_ rfl
    rw [show (s.softFree (stOf f)).and (s.rangeRd a (8 * nc)) = .ok from Chk.and_eq_ok.2 ⟨hfree, hread⟩]
    exact htok
  case stka => exact fires_stka hfree
  case stkn => exact fires_stkn hfree
  case stkqRegister => exact fun hi => lands_stkq (fun _ => hfree) (fun h => absurd hi (not_lt.2 h))
  case stkqContext => exact fun hi hctx => lands_stkq (fun h => absurd hi (not_le.2 h)) (fun _ => hctx)

end Sys2Proof.Settled
end

section
/-! PROOFS. O29: COLLAPSE, GMSK, GSTP, PRPL, VTXT and STKE. -/

namespace Sys2Proof.Machine

open Sys2Proof Sys2Proof.Safety

/-! ## Entries of the grammar (R241) -/

section Grammar

variable {s : State} {f : FK}

/-- GMSK is under way in a context with a grammar, and only takes its cycle in one without. -/
theorem fires_gmsk (hfree : s.softFree (stOf f) = .ok) (hstate : s.ctxFree true = .ok) :
    Fires (.gmsk f) s [] [] (fun t => if s.oldE.dc.gon then
      (t.lat.2.startSoft (s.cycle + t.lat.1) (.gmsk f) 0#32 0#32 (leBytes 4 s.oldE.dc.state.toNat) [.soft (stOf f)]).2 else t) := by
  refine fires_entry (i := .gmsk f) rfl (Chk.and_eq_ok.2 ⟨hfree, hstate⟩) ?_
  cases s.oldE.dc.gon <;> rfl

/-- GSTP is under way in a context with a grammar, and only takes its cycle in one without; a reset names no token. -/
theorem fires_gstp (hstate : s.ctxFree true = .ok)
    (htok : bitAt f.param 0 = false → tokChk s.oldE.dc.v [s.src f.a.toNat] = .ok) :
    Fires (.gstp f) s (if bitAt f.param 0 then [] else [f.a.toNat]) [] (fun t => if s.oldE.dc.gon then
      (t.lat.2.startSoft (s.cycle + t.lat.1) (.gstp f) (s.src f.a.toNat) 0#32 [] [.ctx true]).2 else t) := by
  refine fires_entry (i := .gstp f) rfl (Chk.and_eq_ok.2 ⟨hstate, ?tok⟩) ?eff
  case tok => exact ite_eq_left_iff.2 fun h => htok (Bool.eq_false_of_not_eq_true h)
  case eff => cases s.oldE.dc.gon <;> rfl

end Grammar

end Sys2Proof.Machine

namespace Sys2Proof.Settled

open Sys2Proof Sys2Proof.Machine Sys2Proof.Safety

/-- Settles O29, entry by entry: the premises are the conditions of the entry's own check, and the effect is its own. STKE finds its rows
issuable one by one, and its local place is the one that its premise names. -/
theorem softOperations : Obligations.SoftOperations := by
  unfold Obligations.SoftOperations
  constructor
  · intro s f w n q reg ids id b state place
    refine ⟨?collapse, fires_gmsk, fires_gstp, ?prpl, ?vtxt⟩
    case collapse =>
      rintro hfree ⟨hctx, hstate⟩ htok
      refine fires_entry (i := .collapse f) rfl ?_ rfl
      exact Chk.and_eq_ok.2 ⟨hfree, Chk.and_eq_ok.2 ⟨Chk.and_eq_ok.2 ⟨hctx, hstate⟩, ite_eq_right_iff.2 htok⟩⟩
    case prpl =>
      intro hfree hroom
      exact fires_entry (i := .prpl f) rfl (Chk.and_eq_ok.2 ⟨hfree, ite_eq_left_iff.2 hroom⟩) rfl
    case vtxt => exact fun htok hrange => fires_entry (i := .vtxt w) rfl (Chk.and_eq_ok.2 ⟨htok, hrange⟩) rfl
  · intro s f a g n dc reg hidden cand size rows data hfree hkind hhidden htok hrows hplace
    have hwrite : s.localWrite (alignDown (bitsOf f.off 17 0 + (s.src f.d.toNat).toNat) 4) 0 (4 * s.oldE.dc.edim) =
      (.ok, a, g) := hplace
    have hshape : ¬(reg.kind = 0 ∨ (reg.kind = 3 ∧ reg.hlen ≠ dc.edim)) := by
      rintro (hempty | ⟨hvec, hlen⟩)
      · exact hkind hempty
      · exact hlen (hhidden hvec).1
    have hvec : (if reg.kind = 3 then s.rangeRd reg.haddr (reg.hlen * hfSize reg.hfmt) else .ok) = .ok :=
      ite_eq_right_iff.2 fun h => (hhidden h).2
    refine fires_entry (i := .stke f) rfl ?check ?eff
    case check =>
      refine Chk.and_eq_ok.2 ⟨hfree, Chk.and_eq_ok.2 ⟨if_neg hshape, Chk.and_eq_ok.2 ⟨hvec, Chk.and_eq_ok.2 ⟨?issue, ?write⟩⟩⟩⟩
      case issue =>
        rw [htok]
        exact (Chk.fold_eq_ok _ _ _).2 ⟨rfl, hrows⟩
      case write => rw [hwrite]
    case eff =>
      simp only [hwrite]
      rfl

end Sys2Proof.Settled
end

section
/-! PROOFS. O30: STOPSTR, PLOG and PHSH. -/

namespace Sys2Proof.Machine

open Sys2Proof Sys2Proof.Safety

/-- A stop block whose lengths, cut flag and reserved bytes are in range is not refused (R244). -/
theorem stopBlock_sound {blk : List Byte} (hlens : ∀ j, j < 4 → leAt blk (128 + j) 1 ≤ 32) (hcuts : leAt blk 132 1 ≤ 1)
    (hrest : leAt blk 133 3 = 0) :
    (((List.range 4).map (fun j => leAt blk (128 + j) 1)).any (fun n => decide (32 < n)) || decide (leAt blk 132 1 > 1) ||
      leAt blk 133 3 != 0) = false := by
  rw [Bool.eq_false_iff, ne_eq, Bool.or_eq_true, Bool.or_eq_true]
  rintro ((hlen | hcut) | hres)
  · obtain ⟨n, hn, hlong⟩ := List.any_eq_true.1 hlen
    obtain ⟨j, hj, rfl⟩ := List.mem_map.1 hn
    exact absurd (hlens j (List.mem_range.1 hj)) (not_le.2 (of_decide_eq_true hlong))
  · exact absurd hcuts (not_le.2 (of_decide_eq_true hcut))
  · exact absurd hrest (bne_iff_ne.1 hres)

/-- A position can be logged when its record and its payload, where it has one, lie in their buffers on pages that may be written
(R141, R236). -/
theorem State.logChk_eq_ok {s : State} {dc : Dctx} {n : Nat} (hrec : 64 * dc.posn + 64 ≤ dc.lsize)
    (hwrec : s.issueChk (dc.lbase + 64 * dc.posn) 64 true = .ok)
    (hpay : n ≠ 0 → dc.ppos + n ≤ dc.psize ∧ s.issueChk (dc.pbase + dc.ppos) n true = .ok) : s.logChk dc n = .ok := by
  unfold State.logChk
  rw [if_neg (not_lt.2 hrec), if_neg fun ⟨hn, hout⟩ => absurd (hpay hn).1 (not_le.2 hout), hwrec, Chk.ok_and]
  exact ite_eq_left_iff.2 fun hn => (hpay hn).2

end Sys2Proof.Machine

namespace Sys2Proof.Settled

open Sys2Proof Sys2Proof.Machine Sys2Proof.Safety

/-- Settles O30: a sound stop block is taken, PLOG logs a register that holds something where its record and payload fit, and PHSH is under
way once its chain block can be read. -/
theorem softContext : Obligations.SoftContext := by
  unfold Obligations.SoftContext
  intro s f w a blk n reg dc pay blk2
  refine ⟨?stopStr, ?plogEmpty, ?plog, ?phsh⟩
  case stopStr =>
    intro hctx hread hlens hcuts hrest
    refine fires_entry (i := .stopStr f) rfl ?_ rfl
    rw [show (s.ctxFree false).and (s.rangeRd a 136) = .ok from Chk.and_eq_ok.2 ⟨hctx, hread⟩]
    exact if_neg (Bool.eq_false_iff.1 (stopBlock_sound hlens hcuts hrest))
  case plogEmpty =>
    rintro hfree ⟨hctx, hstate⟩ hkind
    refine fires_entry (i := .plog f) rfl ?_ (if_pos hkind)
    exact Chk.and_eq_ok.2 ⟨hfree, Chk.and_eq_ok.2 ⟨Chk.and_eq_ok.2 ⟨hctx, hstate⟩, if_pos hkind⟩⟩
  case plog =>
    rintro hfree ⟨hctx, hstate⟩ hkind hvec hrec hwrec hpay
    have hlog : s.logChk dc pay.length = .ok := State.logChk_eq_ok hrec hwrec hpay
    refine fires_entry (i := .plog f) rfl ?_ (if_neg hkind)
    refine Chk.and_eq_ok.2 ⟨hfree, Chk.and_eq_ok.2 ⟨Chk.and_eq_ok.2 ⟨hctx, hstate⟩, (if_neg hkind).trans ?_⟩⟩
    exact Chk.and_eq_ok.2 ⟨ite_eq_right_iff.2 hvec, hlog⟩
  case phsh =>
    intro hrange htag hpoison
    exact fires_entry (i := .phsh w) rfl (Chk.and_eq_ok.2 ⟨hrange, Chk.and_eq_ok.2 ⟨htag, hpoison⟩⟩) rfl

end Sys2Proof.Settled
end

section
/-! PROOFS. O60: which of a cycle's faults is taken, and what taking it saves, voids and ends. -/

namespace Sys2Proof.Machine

open Sys2Proof Sys2Proof.Safety

/-! ## The head of a sorted list -/

section Sorting

variable {α β : Type} [LinearOrder β] {lt : α → α → Bool} {rank : α → β}

theorem sortBy_concat (lt : α → α → Bool) (l : List α) (x : α) : sortBy lt (l ++ [x]) = insertBy lt x (sortBy lt l) := by
  simp [sortBy]

theorem mem_insertBy {x y : α} {l : List α} : y ∈ insertBy lt x l ↔ y = x ∨ y ∈ l := by
  induction l with
  | nil => simp [insertBy]
  | cons z l ih =>
    unfold insertBy
    split
    · simp
    · simp [ih, or_left_comm]

theorem mem_sortBy {y : α} {l : List α} : y ∈ sortBy lt l ↔ y ∈ l := by
  induction l using List.reverseRecOn with
  | nil => simp [sortBy]
  | append_singleton l x ih => simp [sortBy_concat, mem_insertBy, ih, or_comm]

/-- Under an order by rank the head of a sorted list ranks least. -/
theorem sortBy_head_le (hlt : ∀ a b, lt a b = true ↔ rank a < rank b) {l : List α} {m : α} {t : List α} (h : sortBy lt l = m :: t)
    {y : α} (hy : y ∈ l) : rank m ≤ rank y := by
  induction l using List.reverseRecOn generalizing m t y with
  | nil => simp at hy
  | append_singleton l x ih =>
    have hmem : y = x ∨ y ∈ l := by simpa [or_comm] using hy
    rw [sortBy_concat] at h
    cases hs : sortBy lt l with
    | nil =>
      obtain rfl := (sortBy_eq_nil lt l).1 hs
      simp_all [insertBy]
    | cons z u =>
      rw [hs, insertBy] at h
      split at h
      next hxz =>
        obtain ⟨rfl, -⟩ := List.cons.inj h
        rcases hmem with rfl | hyl
        · exact le_rfl
        · exact ((hlt _ _).1 hxz).le.trans (ih hs hyl)
      next hxz =>
        obtain ⟨rfl, -⟩ := List.cons.inj h
        rcases hmem with rfl | hyl
        · exact not_lt.1 fun hlow => hxz ((hlt _ _).2 hlow)
        · exact ih hs hyl

end Sorting

/-! ## The first of a cycle's faults (R249, R264) -/

/-- Where a fault stands in the order of one cycle's faults. -/
def Flt.rank (f : Flt) : List Nat := [f.code, f.page, f.y, f.x, f.sch]

theorem Flt.before_iff (a b : Flt) : a.before b = true ↔ a.rank < b.rank := by
  simp only [Flt.before, Flt.rank, List.cons_lt_cons_iff]
  split_ifs <;> simp_all

/-- The head of the sorted faults comes after none of them. -/
theorem Flt.before_head {l t : List Flt} {f g : Flt} (h : sortBy Flt.before l = f :: t) (hg : g ∈ l) : g.before f = false :=
  Bool.eq_false_iff.2 fun hlt => not_lt.2 (sortBy_head_le Flt.before_iff h hg) ((g.before_iff f).1 hlt)

/-- The fault taken is one of the cycle's: one that halts where any does, and of its own sort the first. -/
theorem firstFault_spec {l : List Flt} (hl : l ≠ []) : ∃ f ∈ l, firstFault l = some f ∧
    ∀ g ∈ l, (f.counts = true → g.counts = true) ∧ (f.counts = g.counts → g.before f = false) := by
  unfold firstFault
  cases hs : sortBy Flt.before (l.filter (fun f => !f.counts)) with
  | cons f t =>
    have hmem : f ∈ l.filter (fun f => !f.counts) := mem_sortBy.1 (hs ▸ List.mem_cons_self)
    obtain ⟨hf, hhalts⟩ : f ∈ l ∧ f.counts = false := by simpa using hmem
    refine ⟨f, hf, rfl, fun g hg => ⟨by simp [hhalts], fun hsort => Flt.before_head hs ?_⟩⟩
    simp [hg, ← hsort, hhalts]
  | nil =>
    have hcounts : ∀ g ∈ l, g.counts = true := by simpa [List.filter_eq_nil_iff] using (sortBy_eq_nil _ _).1 hs
    obtain ⟨f, t, hsort⟩ := List.exists_cons_of_ne_nil (mt (sortBy_eq_nil Flt.before l).1 hl)
    refine ⟨f, mem_sortBy.1 (hsort ▸ List.mem_cons_self), by simp [hsort], fun g hg => ⟨fun _ => hcounts g hg, fun _ => ?_⟩⟩
    exact Flt.before_head hsort hg

theorem firstFault_singleton (f : Flt) : firstFault [f] = some f := by
  obtain ⟨g, hg, hfirst, -⟩ := firstFault_spec (List.cons_ne_nil f [])
  rw [hfirst, List.mem_singleton.1 hg]

/-! ## What a void and its report write (R71, R123, R248) -/

/-- Nothing differs but the regions, the tenants, the hold table, the walks, the open times and what the host interface has to send. -/
structure RoundSide (s t : State) : Prop where
  only : t = { s with regions := t.regions, tenants := t.tenants, rows := t.rows, walks := t.walks, lats := t.lats, nmp := t.nmp }
  flts : t.nmp.flts = s.nmp.flts

namespace RoundSide

variable {s t u : State}

theorem refl (s : State) : RoundSide s s := ⟨rfl, rfl⟩

theorem trans (h : RoundSide s t) (k : RoundSide t u) : RoundSide s u :=
  ⟨by have hk := k.only; rw [h.only] at hk; exact hk, k.flts.trans h.flts⟩

theorem sameMemory (h : RoundSide s t) : SameMemory s t := by
  intro a
  rw [h.only]
  exact ⟨rfl, rfl, rfl⟩

theorem modReg (s : State) (r : Nat) (g : Region → Region) : RoundSide s (s.modReg r g) := ⟨rfl, rfl⟩

theorem latMost (s : State) (n : Nat) : RoundSide s (s.latMost n).2 := by
  obtain ⟨l, hl⟩ := s.lat_only
  rw [show (s.latMost n).2 = { s with lats := l } from hl]
  exact ⟨rfl, rfl⟩

theorem chargeOwn (s : State) (g : Region) (pc bytes : Nat) : RoundSide s (s.chargeOwn g pc bytes) := ⟨rfl, rfl⟩

theorem chargeSave (s : State) (g : Region) (own : Bool) (pc bytes : Nat) : RoundSide s (s.chargeSave g own pc bytes) := by
  unfold State.chargeSave
  split <;> exact ⟨rfl, rfl⟩

theorem postAmount (s : State) (r pc bytes : Nat) : RoundSide s (s.postAmount r pc bytes) := by
  unfold State.postAmount
  refine trans ?_ (modReg _ r _)
  split
  · exact trans (chargeOwn s _ 0 bytes) (chargeSave _ _ _ pc 0)
  · exact chargeOwn s _ pc bytes

theorem voidRound (s : State) (r : Nat) (charged : Bool) : RoundSide s (s.voidRound r charged) := by
  unfold State.voidRound
  extract_lets g t t1 t2
  have hposted : RoundSide s t := by
    unfold t
    split <;> exact postAmount s r _ _
  exact hposted.trans ⟨rfl, rfl⟩

theorem report (s : State) (r : Nat) (f : Flt) : RoundSide s (s.report r f).2 := by
  unfold State.report State.faultMsg
  obtain ⟨n, hsent, hflts⟩ := State.send_only _ _
  dsimp only
  rw [hsent]
  exact ⟨rfl, hflts⟩

end RoundSide

/-! ## What a void leaves in its region (R71, R123) -/

/-- A region at cycle `c` whose round has been voided: all is posted, and the checkpoint stands again. -/
def Region.voided (c : Nat) (g : Region) : Region := { g with
  pageStart := c, roundBytes := 0, baseBytes := 0, old := g.restored, now := g.restored, brk := none, limit := 0, cyc := 0, raised := []
  counts := if g.saves then g.counts else [], attempt := g.attempt + 1, holdsNew := [], shadowBad := none }

section Voids

variable {s : State} {r : Nat}

theorem State.postAmount_regions (s : State) (r pc bytes : Nat) : (s.postAmount r pc bytes).regions =
    s.regions.modify r (fun g => { g with pageStart := s.cycle, roundBytes := 0, baseBytes := 0 }) := by
  simp only [State.postAmount]
  split
  · rw [State.modReg, State.chargeSave_regions]; rfl
  · rfl

theorem State.find_postAmount (hb : (s.regions.find r).isSome = true) (pc bytes : Nat) :
    (s.postAmount r pc bytes).regions.find r = some { s.reg r with pageStart := s.cycle, roundBytes := 0, baseBytes := 0 } := by
  obtain ⟨g, hg⟩ := Option.isSome_iff_exists.1 hb
  rw [State.postAmount_regions, Tbl.find_modify_self, State.reg, Tbl.get_eq_find, hg]
  rfl

theorem State.find_voidRound (hb : (s.regions.find r).isSome = true) (charged : Bool) :
    (s.voidRound r charged).regions.find r = some ((s.reg r).voided s.cycle) := by
  unfold State.voidRound
  extract_lets g t t1 t2
  have hposted : t.regions.find r = some { s.reg r with pageStart := s.cycle, roundBytes := 0, baseBytes := 0 } := by
    unfold t
    split <;> exact State.find_postAmount hb _ _
  change (t.regions.modify r _).find r = _
  rw [Tbl.find_modify_self, hposted]
  rfl

theorem State.report_regions (s : State) (r : Nat) (f : Flt) : (s.report r f).2.regions = s.regions := by
  unfold State.report State.faultMsg
  obtain ⟨n, hsent, -⟩ := State.send_only _ _
  dsimp only
  rw [hsent]
  rfl

/-- What a change to a bound region leaves in it. -/
theorem State.reg_modReg_of_find {g : Region} (h : s.regions.find r = some g) (f : Region → Region) : (s.modReg r f).reg r = f g := by
  rw [State.reg, State.modReg, Tbl.get_eq_find, Tbl.find_modify_self, h]
  rfl

end Voids

/-! ## The fault that is taken, by its kind (R123, R250, R251) -/

/-- A resumable fault taken: its region is halted under the FID of its report, or saves where it is asked to yield, and the fault is
recorded. -/
def State.halted (s : State) (r : Nat) (f : Flt) : State :=
  let g := s.reg r
  let rep := (s.voidRound r true).report r f
  let due := if g.yieldReq.isSome && !g.saves then rep.2.latMost (g.saveMost s.cycle) else (0, rep.2)
  { due.2.modReg r (fun n => { n with
      mode := if g.saves then g.mode else if g.yieldReq.isSome then .saving (s.cycle + due.1) true else .halted rep.1, fid := some rep.1 }) with
    nmp := { due.2.nmp with flts := due.2.nmp.flts ++ [{ func := g.func, ltag := g.ltag, fid := rep.1, flt := f }] } }

section Taken

variable {s : State} {r : Nat} {f : Flt}

theorem Region.saveMost_le_bound (g : Region) (c : Nat) : g.saveMost c ≤ 10000 := by
  cases hq : g.yieldReq with
  | none => simp [Region.saveMost, hq]
  | some q => exact (Region.saveMost_le hq c).1

/-- A fault that is alone in its cycle, in a region whose shadow can be read, is taken by its kind. -/
theorem State.takeFault_of_raised (hf : (s.reg r).raised = [f]) (hshadow : (s.reg r).shadowBad = none) : s.takeFault r =
    if f.counts then s.countedVoid r f else if f.resumable then s.halted r f else s.endByFault r f true := by
  unfold State.takeFault
  rw [hf, firstFault_singleton, Region.shadowFault, hshadow]
  rfl

theorem State.countedVoid_replays (hb : (s.regions.find r).isSome = true) (hv : (s.reg r).voids < 2) :
    ∃ n k, RoundSide s (s.countedVoid r f) ∧ n ≤ (if f.code = 0x51 ∨ (s.reg r).yieldReq.isSome = true then 10000 else 1000) ∧
      (s.countedVoid r f).reg r = { (s.reg r).voided s.cycle with
        voids := (s.reg r).voids + 1
        mode := if (s.reg r).saves then (s.reg r).mode
          else if f.code = 0x51 ∨ (s.reg r).yieldReq.isSome = true then .saving (s.cycle + n) true else .replaying (s.cycle + n)
        old := (s.reg r).restored.later k, now := (s.reg r).restored.later k, ckpt := (s.reg r).ckpt.later k } := by
  have hyields : (f.code == 0x51 || (s.reg r).yieldReq.isSome) = true ↔ f.code = 0x51 ∨ (s.reg r).yieldReq.isSome = true := by simp
  unfold State.countedVoid
  rw [if_neg (by omega)]
  simp only [hyields]
  set most := if f.code = 0x51 ∨ (s.reg r).yieldReq.isSome = true then (s.reg r).saveMost s.cycle else 1000 with hmost
  set v := s.voidRound r (f.code == 0x51)
  refine ⟨(v.latMost most).1, (v.latMost most).1 + (s.reg r).cyc, ?side, ?bound, ?reg⟩
  case side => exact ((RoundSide.voidRound s r _).trans (.latMost _ _)).trans (.modReg _ _ _)
  case bound =>
    refine (v.latMost_le most).trans ?_
    rw [hmost]
    split
    · exact Region.saveMost_le_bound _ _
    · exact le_rfl
  case reg =>
    have hfind : (v.latMost most).2.regions.find r = some ((s.reg r).voided s.cycle) := by
      rw [State.latMost_regions]; exact State.find_voidRound hb _
    rw [State.reg_modReg_of_find hfind]
    rfl

/-- A latency is drawn only where a save begins. -/
theorem State.latMost_if (t : State) (c : Bool) (most : Nat) : (if c then t.latMost most else (0, t)).1 ≤ most ∧
    (if c then t.latMost most else (0, t)).2.regions = t.regions ∧ RoundSide t (if c then t.latMost most else (0, t)).2 := by
  cases c with
  | true => exact ⟨t.latMost_le most, t.latMost_regions most, .latMost t most⟩
  | false => exact ⟨Nat.zero_le _, rfl, .refl t⟩

theorem State.halted_halts (hb : (s.regions.find r).isSome = true) : ∃ fid n, n ≤ 10000 ∧ SameMemory s (s.halted r f) ∧
    (s.halted r f).reg r = { (s.reg r).voided s.cycle with
      mode := if (s.reg r).saves then (s.reg r).mode else if (s.reg r).yieldReq.isSome then .saving (s.cycle + n) true else .halted fid
      fid := some fid } ∧
    (s.halted r f).nmp.flts = s.nmp.flts ++ [{ func := (s.reg r).func, ltag := (s.reg r).ltag, fid := fid, flt := f }] := by
  unfold State.halted
  extract_lets g rep due
  obtain ⟨hle, hregions, hside⟩ := rep.2.latMost_if (g.yieldReq.isSome && !g.saves) (g.saveMost s.cycle)
  have hvoid : RoundSide s rep.2 := (RoundSide.voidRound s r true).trans (.report _ r f)
  have hdue : RoundSide s due.2 := hvoid.trans hside
  have hfind : due.2.regions.find r = some (g.voided s.cycle) := by
    rw [hregions, State.report_regions]
    exact State.find_voidRound hb true
  refine ⟨rep.1, due.1, hle.trans (g.saveMost_le_bound s.cycle), hdue.sameMemory, ?reg, ?flts⟩
  case reg => exact State.reg_modReg_of_find hfind _
  case flts => exact congrArg (· ++ _) hdue.flts

end Taken

end Sys2Proof.Machine

namespace Sys2Proof.Settled

open Sys2Proof Sys2Proof.Machine Sys2Proof.Safety

/-- Settles O60: the first fault is the head of a sort by rank, and taking a fault voids the round before anything else, so that what the
fault's kind then does finds the voided region. -/
theorem takingAFault : Obligations.TakingAFault := by
  unfold Obligations.TakingAFault
  refine ⟨fun l hl => firstFault_spec hl, fun s r f hb hraised hshadow => ?_⟩
  rw [State.takeFault_of_raised hraised hshadow]
  refine ⟨?replays, ?third, ?halts, ?ends⟩
  case replays =>
    intro hc hv
    obtain ⟨n, k, hside, hn, hreg⟩ := State.countedVoid_replays (f := f) hb hv
    rw [if_pos hc]
    refine ⟨_, s.cycle + n, k, rfl, ?_⟩
    rw [hreg]
    exact ⟨rfl, rfl, rfl, rfl, hside.sameMemory, rfl, Nat.add_le_add_left hn _⟩
  case third => exact fun hc hv => by rw [if_pos hc, State.countedVoid, if_pos (by omega)]
  case halts =>
    intro hc hres
    obtain ⟨fid, n, hn, hmem, hreg, hflts⟩ := State.halted_halts (f := f) hb
    rw [if_neg (by simp [hc]), if_pos hres]
    refine ⟨_, fid, s.cycle + n, rfl, Nat.add_le_add_left hn _, ?_⟩
    rw [hreg]
    exact ⟨rfl, rfl, rfl, rfl, hmem, hflts⟩
  case ends => exact fun hc hres => by rw [if_neg (by simp [hc]), if_neg (by simp [hres]), State.endByFault]

end Sys2Proof.Settled
end

section
/-! PROOFS. O31: IDNT, TIME, PMRD, CFGR, SIGQ, DBRK and FLTM. -/

namespace Sys2Proof.Machine

open Sys2Proof Sys2Proof.Safety

section System

variable {s : State} {f : FK}

/-! ## SIGQ (R419) -/

theorem fires_sigq_of_some {v : Word} (hv : s.rg.sigSnap[s.rg.old.sigTaken]? = some v) :
    Fires (.sigq f) s [] [f.d.toNat, 96 + bitsOf f.param 3 1] (fun t =>
      let u := (t.put f.d.toNat v).setPred (bitsOf f.param 3 1) true
      if bitAt f.param 0 then u else u.modNow (fun fb => { fb with sigTaken := s.rg.old.sigTaken + 1 })) := by
  refine fires_entry (i := .sigq f) rfl rfl ?_
  simp only [hv]
  cases bitAt f.param 0 <;> rfl

theorem fires_sigq_of_none (hv : s.rg.sigSnap[s.rg.old.sigTaken]? = none) :
    Fires (.sigq f) s [] [f.d.toNat, 96 + bitsOf f.param 3 1] (fun t =>
      (t.put f.d.toNat 0#32).setPred (bitsOf f.param 3 1) false) := by
  refine fires_entry (i := .sigq f) rfl rfl ?_
  simp only [hv]
  rfl

/-! ## Debug breaks and forced faults (R257, R418) -/

/-- A DBRK asks for the break of its region; one that is under way stays as it is. -/
theorem fires_dbrk_of_debug (hd : s.sig.decl.debug = true) : Fires (.dbrk f) s [] [] (fun t =>
    (t.modR (fun g => { g with brk := some (g.brk.getD { sg := s.focus.sg, x := s.focus.x, y := s.focus.y, stamp := s.focus.stamp
                                                         sched := s.focus.sched, age := 0, out := false }) })).eventMsg
      s.rg.func 0 s.page (s.hostTag s.rg.func s.rg.ltag) (BitVec.ofNat 32 (2 ^ 31 + bitsOf f.param 15 0)) s.focus.x s.focus.y
      s.focus.stamp) := by
  refine fires_entry (i := .dbrk f) rfl rfl ((if_pos hd).trans ?_)
  congr 2
  funext g
  cases hb : g.brk with
  | none => rfl
  | some b => exact congrArg (fun b => { g with brk := b }) hb

theorem fires_dbrk_of_not_debug (hd : s.sig.decl.debug = false) : Fires (.dbrk f) s [] [] (fun t => t) :=
  fires_entry (i := .dbrk f) rfl rfl (if_neg (Bool.eq_false_iff.1 hd))

/-- What FLTM asks of its step: the fault where breaks are declared and the round's voids are too few, and else nothing. -/
theorem exec_fltm (s : State) (f : FK) : exec (.fltm f) s = go (s.entry [] []
    (if (s.sig.decl.debug && decide (s.rg.voids < bitsOf f.param 2 1)) = true then .fault (if bitAt f.param 0 then 0x70 else 0x50) 0
      else .ok) (fun t => t)) := rfl

theorem fires_fltm_of_idle (h : s.sig.decl.debug = false ∨ bitsOf f.param 2 1 ≤ s.rg.voids) : Fires (.fltm f) s [] [] (fun t => t) := by
  refine fires_entry (exec_fltm s f) (if_neg fun hacts => ?_) rfl
  obtain ⟨hd, hv⟩ := Bool.and_eq_true_iff.1 hacts
  rcases h with hno | hmany
  · exact Bool.eq_false_iff.1 hno hd
  · exact absurd (of_decide_eq_true hv) (not_lt.2 hmany)

theorem exec_fltm_raises (hd : s.sig.decl.debug = true) (hv : s.rg.voids < bitsOf f.param 2 1) :
    exec (.fltm f) s = .next (s.raiseHere (if bitAt f.param 0 then 0x70 else 0x50) 0) := by
  rw [exec_fltm, if_pos (Bool.and_eq_true_iff.2 ⟨hd, decide_eq_true hv⟩), State.entry_faults (Readable_nil s) (Writable_nil s), go]

end System

end Sys2Proof.Machine

namespace Sys2Proof.Settled

open Sys2Proof Sys2Proof.Machine Sys2Proof.Safety

/-- Settles O31, entry by entry: what is read is what the entry's own definition reads, SIGQ by whether a value is left, and DBRK and FLTM by
whether breaks are declared. -/
theorem systemAndDebug : Obligations.SystemAndDebug := by
  unfold Obligations.SystemAndDebug
  constructor
  · intro s f cyc val q
    refine ⟨?idnt, ?time, lands_compute (i := .pmrd f) rfl rfl, ?cfgr, fun v => fires_sigq_of_some, fires_sigq_of_none⟩
    case idnt =>
      refine lands_compute (i := .idnt f) rfl ?_
      generalize bitsOf f.param 2 0 = sel
      rcases sel with _ | _ | _ | _ | _ | sel <;> rfl
    case time =>
      refine lands_compute (i := .time f) rfl ?_
      generalize bitsOf f.param 1 0 = sel
      rcases sel with _ | _ | _ | sel <;> rfl
    case cfgr =>
      intro l hl
      refine lands_compute (i := .cfgr f) rfl ?_
      rw [hl]
  · intro s f v nth
    exact ⟨fires_dbrk_of_debug, fun hd => ⟨fires_dbrk_of_not_debug hd, fires_fltm_of_idle (.inl hd)⟩,
      fun hmany => fires_fltm_of_idle (.inr hmany), exec_fltm_raises⟩

end Sys2Proof.Settled
end

section
/-! PROOFS. O52, O54, O51: the words that hold entries, and the opcodes whose words hold none. -/

namespace Sys2Proof.Machine

open Sys2Proof Sys2Proof.Safety Sys2Proof.Laws.RoundTrip

/-! ## The opcode and the payload of an entry (R294, R302) -/

/-- The payload of an entry, read under the entry's opcode, is the entry: format by format, and for the entries that use no payload bit. -/
theorem ofOpc_payload (i : Instr) : Statement i := by
  cases i with
  | mov f | add f | sub f | adds f | subs f | neg f | abs f | min f | max f | mul f | mulh f | andW f | orW f | xorW f | andn f
  | shl f | shr f | shra f | rot f | clz f | popc f | brev f | cmp f | lea f | addc f | pack f | unpk f | fadd f | fsub f | fmul f
  | fmin f | fmax f | fabs f | fneg f | fcmp f | fcls f | fex2 f | flg2 f | frnd f | cvt f | cvti f | cvtf f | bsc f | hdrw f | hdrr f
  | bfly f | fsum f | fmaxa f | fscl f => rintro _ ⟨⟩; exact congrArg some (congrArg _ (unT_pkT f))
  | mad f | sel f | dot4 f | dot2 f | fma f | qnt f | dqnt f | fdot f => rintro _ ⟨⟩; exact congrArg some (congrArg _ (unF_pkF f))
  | movi f | movhi f | addi f | andi f | ori f | xori f | shi f | bfx f | bfi f | shuf f =>
    rintro _ ⟨⟩; exact congrArg some (congrArg _ (unI_pkI f))
  | ldl f | stl f | lds f | sts f | smark f | srew f | sclose f | fpush f | fpop f | lbsh f | lbrd f | gath f | scat f | rmw f | red f
  | hint f | pref f | hepr f | hepw f | stag f | bufsw f | fold f | rowrd f | rowwr f | stke f =>
    rintro _ ⟨⟩; exact congrArg some (congrArg _ (unM_pkM f))
  | div f | rem f | tokw f | waitw f | latch f | cpyw f | barw f | keyw f | drain f | fdiv f | fsqrt f | vtxt f | phsh f =>
    rintro _ ⟨⟩; exact congrArg some (congrArg _ (unW_pkW f))
  | mclm f | mrel f | mld f | mst f | mzro f | mma f | mmas f | mout f | mtrn f | mctr f | msrt f | mkey f | macc f | folm f =>
    rintro _ ⟨⟩; exact congrArg some (congrArg _ (unX_pkX f))
  | pset f | cnti f | cnts f | cntv f | cntt f | sws f | rotb f | toks f | tokt f | loopb f | loope f | handl f | sopen f | cpy f
  | cpyt f | cmo f | retn f | unpin f | sbar f | fence f | bara f | bart f | acq f | rel f | folb f | folv f | folc f | folr f
  | foli f | folq f | rowopen f | rowhold f | rowrel f | rowq f | stkh f | stkm f | stka f | stkn f | stkq f | collapse f | gmsk f
  | gstp f | stopStr f | plog f | prpl f | trap f | idnt f | time f | pmcf f | pmrd f | pmwr f | rngs f | cfgr f | dbrk f | fltm f
  | sigq f => rintro _ ⟨⟩; exact congrArg some (congrArg _ (unK_pkK f))
  | nop | halts | endp | keys | halt => rintro _ ⟨⟩; rfl
  -- a step of the part has no opcode
  | _ => rintro _ ⟨⟩

/-- The opcodes that R303 names: the reserved ones and the illegal one. -/
def OpcReserved (o : Nat) : Prop :=
  (0x2D ≤ o ∧ o ≤ 0x3F) ∨ (0x50 ≤ o ∧ o ≤ 0x5F) ∨ (0x7C ≤ o ∧ o ≤ 0x7F) ∨ (0x8A ≤ o ∧ o ≤ 0x8F) ∨ (0xAC ≤ o ∧ o ≤ 0xBF) ∨
    (0xCD ≤ o ∧ o ≤ 0xCF) ∨ (0xDE ≤ o ∧ o ≤ 0xDF) ∨ (0xEE ≤ o ∧ o ≤ 0xEF) ∨ (0xFC ≤ o ∧ o ≤ 0xFF)

namespace OpcReserved

variable {o : Nat} (h : OpcReserved o)
include h

/-- The map and the reserved ranges exclude each other (R302, R303). -/
theorem opcKnown_eq_false : opcKnown o = false := by
  unfold OpcReserved at h
  simp only [opcKnown, Bool.or_eq_false_iff, Bool.and_eq_false_iff, decide_eq_false_iff_not]
  omega

/-- A reserved opcode names no instruction, whatever its payload. -/
theorem ofOpc_eq_none (p : BitVec 35) : Instr.ofOpc o p = none := by
  obtain ⟨lo, hi⟩ | ⟨lo, hi⟩ | ⟨lo, hi⟩ | ⟨lo, hi⟩ | ⟨lo, hi⟩ | ⟨lo, hi⟩ | ⟨lo, hi⟩ | ⟨lo, hi⟩ | ⟨lo, hi⟩ := h
  all_goals interval_cases o <;> rfl

end OpcReserved

/-! ## The word of an entry (R291) -/

/-- The number that a word holds: its header, then its payload. -/
theorem toNat_encodeEntry (e : Entry) : (encodeEntry e).toNat =
    ((((e.stamp.toNat * 8 + e.pred.toNat) * 2 + e.pn.toNat) * 256 + (e.instr.opc.getD 0xFF#8).toNat) * 32 + e.rcx.toNat) * 2 ^ 35 +
      e.instr.payload.toNat := by
  unfold encodeEntry
  simp only [toNat_app]
  rfl

/-- Each field of the header, and the payload, is where R291 puts it. -/
theorem encodeEntry_fields (e : Entry) :
    (encodeEntry e).extractLsb' 52 12 = e.stamp ∧ (encodeEntry e).extractLsb' 49 3 = e.pred ∧ (encodeEntry e).extractLsb' 48 1 = e.pn ∧
    (encodeEntry e).extractLsb' 40 8 = e.instr.opc.getD 0xFF#8 ∧ (encodeEntry e).extractLsb' 35 5 = e.rcx ∧
    (encodeEntry e).extractLsb' 0 35 = e.instr.payload := by
  have hs := e.stamp.isLt; have hp := e.pred.isLt; have hn := e.pn.isLt; have ho := (e.instr.opc.getD 0xFF#8).isLt
  have hr := e.rcx.isLt; have hl := e.instr.payload.isLt
  refine ⟨?_, ?_, ?_, ?_, ?_, ?_⟩ <;> apply BitVec.eq_of_toNat_eq <;>
    rw [BitVec.extractLsb'_toNat, toNat_encodeEntry, Nat.shiftRight_eq_div_pow] <;> omega

/-- What a word decodes to whose opcode, under its payload, names an instruction. -/
theorem decodeEntry_of_ofOpc {w : EWord} {i : Instr} (h : Instr.ofOpc (w.extractLsb' 40 8).toNat (w.extractLsb' 0 35) = some i) :
    decodeEntry w = .ok ⟨w.extractLsb' 52 12, w.extractLsb' 49 3, w.extractLsb' 48 1, w.extractLsb' 35 5, i⟩ := by
  have hlegal : w.extractLsb' 40 8 ≠ 0xFF#8 := by
    intro hw
    rw [hw] at h
    cases h
  rw [decodeEntry, if_neg hlegal, h]

/-- A word with a reserved opcode holds no entry, whatever its other bits. -/
theorem decodeEntry_of_reserved {w : EWord} (h : OpcReserved (w.extractLsb' 40 8).toNat) :
    decodeEntry w = .error (if (w.extractLsb' 40 8).toNat = 0xFF then .illegalOpcode else .reservedOpcode) := by
  have hff : w.extractLsb' 40 8 = 0xFF#8 ↔ (w.extractLsb' 40 8).toNat = 0xFF := BitVec.toNat_inj.symm
  simp only [decodeEntry, h.ofOpc_eq_none, h.opcKnown_eq_false, hff, apply_ite Except.error]
  rfl

/-- A word that holds no entry is refused at bind with the illegal-entry fault (R304). -/
theorem wordFate_of_error {l : List Placed} {edges : List (Nat × Nat)} {i : Nat} {d : SigDecl} {me : ElemDecl} {q : Slot} {r : Reject}
    (h : decodeEntry q.word = .error r) : wordFate l edges i d me q = some 0x11 := by
  unfold wordFate entryOf
  rw [h]

theorem decodeEntry_encodeEntry {e : Entry} {o : BitVec 8} (ho : e.instr.opc = some o) : decodeEntry (encodeEntry e) = .ok e := by
  obtain ⟨hstamp, hpred, hpn, hopc, hrcx, hpay⟩ := encodeEntry_fields e
  rw [ho, Option.getD_some] at hopc
  rw [decodeEntry_of_ofOpc (i := e.instr) (by rw [hopc, hpay]; exact ofOpc_payload e.instr o ho), hstamp, hpred, hpn, hrcx]

end Sys2Proof.Machine

namespace Sys2Proof.Settled

open Sys2Proof Sys2Proof.Machine Sys2Proof.Safety

/-- Settles O52: each field is read back from where the word holds it, and the payload under its own opcode names the instruction. -/
theorem entryRoundTrip : Obligations.EntryRoundTrip := by
  unfold Obligations.EntryRoundTrip
  exact fun _ _ ho => decodeEntry_encodeEntry ho

/-- Settles O54: the map holds none of these opcodes, so no such word decodes to an entry, and the binder's first check fails. -/
theorem reservedOpcodes : Obligations.ReservedOpcodes := by
  unfold Obligations.ReservedOpcodes
  intro w o hreserved
  have herror := decodeEntry_of_reserved hreserved
  refine ⟨herror, fun l edges i d me q hq => ?_⟩
  subst hq
  exact wordFate_of_error herror

/-- Settles O51: the words are closed, and decoding each one evaluates to its entry. -/
theorem encodedWords : Obligations.EncodedWords := by
  unfold Obligations.EncodedWords
  exact ⟨rfl, rfl, rfl, rfl, rfl, rfl, rfl, rfl, rfl, rfl, rfl, rfl, rfl, rfl, rfl⟩

end Sys2Proof.Settled
end

section
/-! PROOFS. O59: what operand codes read and write. -/

namespace Sys2Proof.Machine

open Sys2Proof Sys2Proof.Safety

/-! ## Memory under a change of the regions -/

theorem sameMemory_of_onlyRegions {s t : State} (h : OnlyRegions s t) : SameMemory s t := by
  intro a
  rw [h]
  exact ⟨rfl, rfl, rfl⟩

section Elements

variable {s : State} (hb : Bound s)
include hb

/-! ## A change to one element, in focus or not -/

theorem State.find_modEAt (sg x y k : Nat) (g : Elem → Elem) : (s.modEAt sg x y g).rg.now.elems.find k =
    if elemKey sg x y = k then some (g (s.rg.now.elem sg x y)) else s.rg.now.elems.find k := by
  rw [State.modEAt, State.modNow_now hb]
  split
  · next h => rw [← h, Fabric.modElem, Tbl.find_set_self]
  · next h => exact Tbl.find_set_of_ne _ _ h

theorem State.modEAt_onlyElems (sg x y : Nat) (g : Elem → Elem) : OnlyElems s (s.modEAt sg x y g) :=
  ⟨State.modNow_only hb _, by rw [State.modEAt, State.modNow_now hb]; rfl⟩

theorem State.modE_onlyElem (g : Elem → Elem) : OnlyElem s (s.modE g) :=
  ⟨State.modEAt_onlyElems hb _ _ _ g, fun k hk => (State.find_modEAt hb _ _ _ k g).trans (if_neg hk.symm)⟩

theorem State.elemNow_modEAt (x y : Nat) (g : Elem → Elem) :
    elemNow (s.modEAt s.focus.sg x y g) x y = g (elemNow s x y) := by
  change (s.modEAt s.focus.sg x y g).rg.now.elem s.focus.sg x y = _
  rw [Fabric.elem, Tbl.get_eq_find, State.find_modEAt hb, if_pos rfl]
  rfl

end Elements

section Codes

variable {s : State} {c : Nat} {v : Word}

/-! ## What a code reads (R296, R298) -/

theorem State.src_g (h : c < 32) : s.src c = s.oldE.g.get 0#32 c := if_pos h

theorem State.src_k (h : 32 ≤ c) (h' : c < 64) : s.src c = s.oldE.k.get 0#32 (physK s.oldE.rot (c - 32)) := by
  rw [State.src, if_neg (not_lt.2 h), if_pos h']

theorem State.src_link (h : 64 ≤ c) (h' : c < 68) : s.src c = ((s.inWords (c - 64)).head?).getD 0#32 := by
  rw [State.src, if_neg (by omega), if_neg (by omega), if_pos h']

theorem State.src_counter (h : 80 ≤ c) (h' : c < 88) : s.src c = (s.oldE.c.get Counter.zero (c - 80)).value := by
  rw [State.src, if_neg (by omega), if_neg (by omega), if_neg (by omega), if_neg (by omega), if_pos ⟨h, h'⟩]

theorem State.src_pred (h : 96 ≤ c) (h' : c < 104) : s.src c = boolWord (s.pred (c - 96)) := by
  rw [State.src, if_neg (by omega), if_neg (by omega), if_neg (by omega), if_neg (by omega), if_neg (by omega), if_pos ⟨h, h'⟩]

/-! ## What a code writes (R296, R298) -/

theorem State.put_g (h : c < 32) : s.put c v = s.modE (fun e => { e.unpoison (regWord c) 4 with g := e.g.set c v }) := by
  rw [State.put, State.code, if_neg (by omega), State.putRaw, if_pos h]

/-- A k register is written at its physical number. -/
theorem State.put_k (h : 32 ≤ c) (h' : c < 64) : s.put c v = s.modE (fun e =>
    { e.unpoison (regWord (32 + physK s.oldE.rot (c - 32))) 4 with k := e.k.set (physK s.oldE.rot (c - 32)) v }) := by
  have hk : physK s.oldE.rot (c - 32) < 32 := Nat.mod_lt _ (by decide)
  rw [State.put, State.code, if_pos ⟨h, h'⟩, State.putRaw, if_neg (by omega), if_pos (by omega), Nat.add_sub_cancel_left]

theorem State.put_pred (h : 96 ≤ c) (h' : c < 104) : s.put c v = s.setPred (c - 96) (v != 0#32) := by
  rw [State.put, State.code, if_neg (by omega), State.putRaw, if_neg (by omega), if_neg (by omega), if_neg (by omega), if_pos ⟨h, h'⟩]

theorem State.pushOut_onlyRegions (s : State) (side : Nat) (v : Word) : OnlyRegions s (s.pushOut side v) := by
  unfold State.pushOut
  split <;> rfl

theorem State.setPred_onlyRegions (s : State) (n : Nat) (b : Bool) : OnlyRegions s (s.setPred n b) := by
  unfold State.setPred
  split <;> rfl

/-- A destination is written within the regions. -/
theorem State.put_onlyRegions : OnlyRegions s (s.put c v) := by
  unfold State.put State.putRaw
  split_ifs
  · rfl
  · rfl
  · exact s.pushOut_onlyRegions ..
  · exact s.setPred_onlyRegions ..
  · rfl

/-! ## Taking the words of link sources (R298) -/

theorem State.consume_singleton (h : 64 ≤ c) (h' : c < 68) : s.consume [c] = s.popIn (c - 64) := by
  obtain rfl | rfl | rfl | rfl : c = 64 ∨ c = 65 ∨ c = 66 ∨ c = 67 := by omega
  all_goals rfl

theorem State.inq_popIn (hb : Bound s) (side : Nat) : (s.popIn side).nowE.inq.get [] side = (s.nowE.inq.get [] side).drop 1 := by
  rw [State.popIn, State.nowE_modE hb, Tbl.get_set_self]

theorem readable_singleton : Readable s [c] ↔ s.srcChk c = .ok := by simp [Readable, State.srcsChk]

end Codes

end Sys2Proof.Machine

namespace Sys2Proof.Settled

open Sys2Proof Sys2Proof.Machine Sys2Proof.Safety

/-- Settles O59, kind of code by kind of code: a register or a predicate is written in one table of one element; z and p0 discard. -/
theorem operandsAndDelivery : Obligations.OperandsAndDelivery := by
  unfold Obligations.OperandsAndDelivery
  intro s c j v hb old k side mine
  refine ⟨?g, ?k, ?link, ⟨rfl, rfl⟩, State.src_counter, ⟨rfl, rfl⟩, ?pred, sameMemory_of_onlyRegions State.put_onlyRegions⟩
  case g =>
    intro h
    rw [State.put_g h, State.nowE_modE hb]
    exact ⟨State.src_g h, State.modE_onlyElem hb _, Tbl.get_set_self .., fun hj => Tbl.get_set_of_ne _ _ _ hj.symm, rfl, rfl⟩
  case k =>
    intro h h'
    rw [State.put_k h h', State.nowE_modE hb]
    exact ⟨State.src_k h h', State.modE_onlyElem hb _, Tbl.get_set_self .., fun hj => Tbl.get_set_of_ne _ _ _ hj.symm, rfl⟩
  case link =>
    intro h h' w rest hw
    rw [State.consume_singleton h h']
    refine ⟨?_, readable_singleton, State.inq_popIn hb _⟩
    rw [State.src_link h h', State.inWords, hw]
    rfl
  case pred =>
    intro h h'
    have hn : c - 96 ≠ 0 := by omega
    rw [State.put_pred (by omega) h', State.setPred, if_neg hn, State.elemNow_modEAt hb, State.src_pred (by omega) h', State.pred, if_neg hn]
    exact ⟨rfl, State.modEAt_onlyElems hb _ _ _ _, (Tbl.get_set_self ..).trans (decide_not ..).symm, fun hj => Tbl.get_set_of_ne _ _ _ hj.symm⟩

end Sys2Proof.Settled
end

section
/-! PROOFS. O1: MOV, MOVI, MOVHI, ADDI, ANDI, ORI, XORI, LEA and NOP. -/

namespace Sys2Proof.Machine

open Sys2Proof Sys2Proof.Safety

/-! ## Signed fields and words (R295, R306) -/

/-- The signed reading of all the bits of a field. -/
theorem sextN_toNat {w : Nat} (hw : 0 < w) (x : BitVec w) : sextN w x.toNat = x.toInt := by
  obtain ⟨n, rfl⟩ : ∃ n, w = n + 1 := ⟨w - 1, by omega⟩
  rw [sextN, Nat.mod_eq_of_lt x.isLt, BitVec.toInt_eq_toNat_cond, Nat.add_sub_cancel, Nat.pow_succ]
  simp only [show x.toNat < 2 ^ n ↔ 2 * x.toNat < 2 ^ n * 2 by omega]

/-- A sign-extended immediate is the value of its field. -/
theorem imm32_eq (i : BitVec 21) : imm32 i = n32 (sextN 21 i.toNat) := by
  rw [sextN_toNat (by decide)]
  rfl

/-- A word and an immediate, added. -/
theorem add_n32 (a : Word) (x : Int) : a + n32 x = n32 (a.toNat + x) := by
  rw [n32, n32, BitVec.ofInt_add, BitVec.ofInt_natCast, BitVec.ofNat_toNat, BitVec.setWidth_eq]

/-- The immediate of MOVHI stands above the 11 bits that it keeps. -/
theorem movhi_eq (a : Word) (i : BitVec 21) :
    (a &&& 0x7FF#32) + (i.zeroExtend 32 <<< 11) = BitVec.ofNat 32 (a.toNat % 2 ^ 11 + i.toNat * 2 ^ 11) := by
  apply BitVec.eq_of_toNat_eq
  have hi := i.isLt
  have hlow : a.toNat &&& 0x7FF = a.toNat % 2 ^ 11 := Nat.and_two_pow_sub_one_eq_mod _ 11
  simp only [BitVec.toNat_add, BitVec.toNat_and, BitVec.toNat_shiftLeft, BitVec.truncate_eq_setWidth, BitVec.toNat_setWidth,
    BitVec.toNat_ofNat, Nat.shiftLeft_eq, Nat.reducePow, Nat.reduceMod, hlow]
  omega

/-- A word and a scaled word, added (R310). -/
theorem lea_eq (a b : Word) (k : Nat) : a + (b <<< k) = BitVec.ofNat 32 (a.toNat + b.toNat * 2 ^ k) := by
  apply BitVec.eq_of_toNat_eq
  simp [Nat.shiftLeft_eq]

/-- How an entry of format I completes. -/
theorem lands_aluI {i : Instr} {s : State} {f : FI} {r : Word} {v : Word → Word} (h : exec i s = go (s.aluI f v))
    (hv : v (s.src f.a.toNat) = r) : Lands i s [f.a.toNat] f.d.toNat r :=
  lands_compute h hv

end Sys2Proof.Machine

namespace Sys2Proof.Settled

open Sys2Proof Sys2Proof.Machine Sys2Proof.Safety

/-- Settles O1, entry by entry: each lands its value, in which an immediate is the signed reading of its field. -/
theorem movesAndImmediates : Obligations.MovesAndImmediates := by
  unfold Obligations.MovesAndImmediates
  intro s t f
  refine ⟨?mov, ?movi, ?movhi, ?addi, ?andi, ?ori, ?xori, ?lea, ?nop⟩
  case mov => exact lands_alu1 (i := .mov t) rfl rfl
  case movi => exact lands_compute (i := .movi f) rfl (imm32_eq _)
  case movhi => exact lands_aluI (i := .movhi f) rfl (movhi_eq _ _)
  case addi => exact lands_aluI (i := .addi f) rfl (by rw [imm32_eq, add_n32])
  case andi => exact lands_aluI (i := .andi f) rfl (by rw [imm32_eq])
  case ori => exact lands_aluI (i := .ori f) rfl (by rw [imm32_eq])
  case xori => exact lands_aluI (i := .xori f) rfl (by rw [imm32_eq])
  case lea => exact lands_alu2 (i := .lea t) rfl (lea_eq _ _ _)
  case nop => exact fires_entry (i := .nop) rfl rfl rfl

end Sys2Proof.Settled
end

section
/-! PROOFS. O2: ADD, SUB, ADDS, SUBS, MIN, MAX, MUL, MULH, NEG and ABS. -/

namespace Sys2Proof.Machine

open Sys2Proof Sys2Proof.Safety

/-! ## Lane entries (R311, R312) -/

section LaneEntries

variable {i : Instr} {s : State} {f : FT} {g : Nat → Int}

/-- How a two-source entry on lane values completes. -/
theorem lane2_of_lanes2 {op : Int → Int → Int} (h : exec i s = go (s.alu2 f (lanes2 f.ty.toNat op)))
    (hg : ∀ k, op (xv s f k) (yv s f k) = g k) : Lane2 i f s g :=
  ⟨_, lands_alu2 h rfl, funext hg ▸ laneWise_ofLanes _ _⟩

/-- How a one-source entry on lane values completes. -/
theorem lane1_of_lanes2 {op : Int → Int → Int} (h : exec i s = go (s.alu1 f (fun a => lanes2 f.ty.toNat op a a)))
    (hg : ∀ k, op (xv s f k) (xv s f k) = g k) : Lane1 i f s g :=
  ⟨_, lands_alu1 h rfl, funext hg ▸ laneWise_ofLanes _ _⟩

end LaneEntries

/-! ## Saturation (R306, R308) -/

theorem satS_eq (n : Nat) (v : Int) : satS n v = Max.max (-(2 ^ (n - 1))) (Min.min (2 ^ (n - 1) - 1) v) := by
  have hp : (0 : Int) < 2 ^ (n - 1) := by positivity
  simp only [satS, Nat.cast_pow, Nat.cast_ofNat]
  split_ifs <;> omega

theorem satN_eq (n : Nat) (v : Int) : satN n v = Max.max 0 (Min.min (2 ^ n - 1) v) := by
  have hp : (0 : Int) < 2 ^ n := by positivity
  simp only [satN, Nat.cast_pow, Nat.cast_ofNat]
  split_ifs <;> omega

/-- Saturation gives the nearest value in the lane's range. -/
theorem satTy_eq_clamp (ty : Nat) (v : Int) : satTy ty v = clamp ty v := by
  rw [satTy, clamp, satS_eq, satN_eq]

end Sys2Proof.Machine

namespace Sys2Proof.Settled

open Sys2Proof Sys2Proof.Machine Sys2Proof.Safety

/-- Settles O2, entry by entry: each lands the lanes of its operation, and saturation is the nearest value in range. -/
theorem laneArithmetic : Obligations.LaneArithmetic := by
  unfold Obligations.LaneArithmetic
  intro s f
  refine ⟨?add, ?sub, ?adds, ?subs, ?min, ?max, ?mul, ?mulh, ?neg, ?abs⟩
  case add => exact lane2_of_lanes2 (i := .add f) rfl fun _ => rfl
  case sub => exact lane2_of_lanes2 (i := .sub f) rfl fun _ => rfl
  case adds => exact lane2_of_lanes2 (i := .adds f) rfl fun _ => satTy_eq_clamp _ _
  case subs => exact lane2_of_lanes2 (i := .subs f) rfl fun _ => satTy_eq_clamp _ _
  case min => exact lane2_of_lanes2 (i := .min f) rfl fun _ => (min_def _ _).symm
  case max => exact lane2_of_lanes2 (i := .max f) rfl fun _ => (max_def _ _).symm
  case mul => exact lane2_of_lanes2 (i := .mul f) rfl fun _ => rfl
  case mulh => exact lane2_of_lanes2 (i := .mulh f) rfl fun _ => by rw [Nat.cast_pow, Nat.cast_ofNat]
  case neg => exact lane1_of_lanes2 (i := .neg f) rfl fun _ => by simp only [satTy_eq_clamp]
  case abs => exact lane1_of_lanes2 (i := .abs f) rfl fun _ => by simp only [satTy_eq_clamp, Int.natCast_natAbs]

end Sys2Proof.Settled
end

section
/-! PROOFS. O3: AND, OR, XOR, ANDN, SHL, SHR, SHRA, ROT, CLZ, POPC, BREV and SHI. -/

namespace Sys2Proof.Machine

open Sys2Proof Sys2Proof.Safety

/-! ## Entries on raw lanes (R306, R312) -/

section RawLanes

variable {i : Instr} {s : State} {f : FT} {g : Nat → Int} {op : Nat → Nat → Nat → Int}

/-- How a two-source entry on raw lanes completes. -/
theorem lane2_of_lanesN (h : exec i s = go (s.alu2 f (lanesN f.ty.toNat op)))
    (hg : ∀ k, op (tyWidth f.ty.toNat) (xn s f k) (yn s f k) = g k) : Lane2 i f s g :=
  ⟨_, lands_alu2 h rfl, funext hg ▸ laneWise_ofLanes _ _⟩

/-- How a one-source entry on raw lanes completes. -/
theorem lane1_of_lanesN (h : exec i s = go (s.alu1 f (fun a => lanesN f.ty.toNat op a a)))
    (hg : ∀ k, op (tyWidth f.ty.toNat) (xn s f k) (xn s f k) = g k) : Lane1 i f s g :=
  ⟨_, lands_alu1 h rfl, funext hg ▸ laneWise_ofLanes _ _⟩

end RawLanes

/-! ## What the shifts and counts compute (R312) -/

theorem laneShl_eq (w x k : Nat) : laneShl w x k = if k ≥ w then (0 : Int) else x * 2 ^ k := by
  simp only [laneShl, Nat.cast_mul, Nat.cast_pow, Nat.cast_ofNat]

theorem laneShr_eq (w x k : Nat) : laneShr w x k = (x : Int).fdiv (2 ^ k) := by
  rw [laneShr, Int.fdiv_eq_ediv_of_nonneg _ (by positivity)]
  push_cast
  rfl

theorem laneShra_eq (w x k : Nat) : laneShra w x k = (sextN w x).fdiv (2 ^ Min.min k (w - 1)) := by
  rw [laneShra, Int.fdiv_eq_ediv_of_nonneg _ (by positivity), Nat.cast_pow, Nat.cast_ofNat]

theorem laneRot_eq (w x k : Nat) :
    laneRot w x k = x * 2 ^ (k % w) + (x : Int).fdiv (2 ^ (w - k % w)) := by
  rw [laneRot, Int.fdiv_eq_ediv_of_nonneg _ (by positivity)]
  push_cast
  rfl

/-- The length of a lane's number is the place of its greatest 1 bit plus 1, and at most the width. -/
theorem laneClz_eq {w x : Nat} (hx : x < 2 ^ w) (k : Nat) :
    laneClz w x k = if x = 0 then (w : Int) else (w : Int) - 1 - Nat.log2 x := by
  rw [laneClz, bitLen]
  by_cases h : x = 0
  · simp [h]
  · have hlog : Nat.log2 x < w := (Nat.log2_lt h).2 hx
    rw [if_neg h, if_neg h]
    omega

theorem lanePopc_eq (w x k : Nat) : lanePopc w x k = ((List.range w).countP (fun j => x.testBit j) : Nat) := by
  rw [lanePopc, List.countP_eq_length_filter]

/-! ## The reversal of bits (R312) -/

/-- A reversed lane, as the number of its binary digits. -/
theorem laneBrev_eq_digits (w x k : Nat) :
    laneBrev w x k = (digits 1 (fun j => if x.testBit (w - 1 - j) then 1 else 0) w : Nat) := by
  simp only [laneBrev, digits, ite_mul, one_mul, zero_mul]

/-- Digit j of a reversed lane is the bit as far from the other end. -/
theorem testBit_laneBrev (w x k : Nat) {j : Nat} (hj : j < w) :
    ((nN w (laneBrev w x k)).toNat).testBit j = x.testBit (w - 1 - j) := by
  have hd : ∀ i, (if x.testBit (w - 1 - i) then 1 else 0) < 2 ^ 1 := fun i => by split <;> decide
  have hlt := digits_lt hd w
  rw [one_mul] at hlt
  have hdigit := digits_digit hd hj
  rw [laneBrev_eq_digits, nN, ← Int.natCast_mod, Int.toNat_natCast, Nat.mod_eq_of_lt hlt, Nat.testBit_eq_decide_div_mod_eq]
  rw [one_mul, pow_one] at hdigit
  rw [hdigit]
  cases x.testBit (w - 1 - j) <;> rfl

/-! ## SHI (R316) -/

/-- A register of one lane. -/
theorem ofLanes_word (f : Nat → Int) : ofLanes 32 f = n32 (f 0) := by
  apply BitVec.eq_of_toNat_eq
  have h := nN_lt 32 (f 0)
  simp only [ofLanes, n32, Nat.reduceDiv, List.range_one, List.foldl_cons, List.foldl_nil, Nat.mul_zero, pow_zero, mul_one, zero_add,
    BitVec.toNat_ofNat, BitVec.toNat_ofInt, Nat.mod_eq_of_lt h]
  rfl

theorem lane_word (x : Word) : lane x 32 0 = x.toNat := by
  rw [lane, Nat.mul_zero, Nat.shiftRight_zero, Nat.mod_eq_of_lt x.isLt]

/-- An operation on the single lane of a word. -/
theorem lanesN_word (op : Nat → Nat → Nat → Int) (a b : Word) : lanesN 0 op a b = n32 (op 32 a.toNat b.toNat) := by
  rw [lanesN, show tyWidth 0 = 32 from rfl, ofLanes_word, lane_word, lane_word]

theorem n32_natCast (n : Nat) : n32 n = BitVec.ofNat 32 n := BitVec.ofInt_natCast ..

section WordShifts

variable (x : Word) {n : Nat} (hn : n < 32)

include hn in
theorem n32_laneShl : n32 (laneShl 32 x.toNat n) = x <<< n := by
  rw [laneShl, if_neg (not_le.2 hn), n32_natCast]
  apply BitVec.eq_of_toNat_eq
  rw [BitVec.toNat_ofNat, BitVec.toNat_shiftLeft, Nat.shiftLeft_eq]

theorem n32_laneShr (n : Nat) : n32 (laneShr 32 x.toNat n) = x >>> n := by
  rw [laneShr, n32_natCast]
  apply BitVec.eq_of_toNat_eq
  rw [BitVec.toNat_ofNat, BitVec.toNat_ushiftRight, Nat.shiftRight_eq_div_pow,
    Nat.mod_eq_of_lt (lt_of_le_of_lt (Nat.div_le_self ..) x.isLt)]

include hn in
theorem n32_laneShra : n32 (laneShra 32 x.toNat n) = x.sshiftRight n := by
  rw [laneShra, sextN_toNat (by decide), show Nat.min n (32 - 1) = n from Nat.min_eq_left (by omega), BitVec.sshiftRight,
    Int.shiftRight_eq_div_pow]
  rfl

include hn in
/-- The parts of a rotated word do not overlap. -/
theorem n32_laneRot : n32 (laneRot 32 x.toNat n) = x.rotateLeft n := by
  have hx := x.isLt
  rw [laneRot, n32_natCast, Nat.mod_eq_of_lt hn]
  apply BitVec.eq_of_toNat_eq
  rw [BitVec.toNat_rotateLeft, Nat.mod_eq_of_lt hn, BitVec.toNat_ofNat, Nat.shiftRight_eq_div_pow]
  have hsplit : 2 ^ 32 = 2 ^ n * 2 ^ (32 - n) := by rw [← pow_add, Nat.add_sub_cancel' hn.le]
  have hhigh : x.toNat / 2 ^ (32 - n) < 2 ^ n := by
    rw [Nat.div_lt_iff_lt_mul (by positivity)]
    omega
  have hlow : x.toNat <<< n % 2 ^ 32 = (x.toNat % 2 ^ (32 - n)) <<< n := by
    rw [Nat.shiftLeft_eq, Nat.shiftLeft_eq, hsplit, mul_comm (2 ^ n), Nat.mul_mod_mul_right]
  rw [hlow, ← Nat.shiftLeft_add_eq_or_of_lt hhigh, ← hlow, Nat.shiftLeft_eq, Nat.add_mod]
  have hlow' := Nat.mod_lt x.toNat (show 2 ^ (32 - n) > 0 by positivity)
  have hsum : x.toNat * 2 ^ n % 2 ^ 32 + x.toNat / 2 ^ (32 - n) < 2 ^ 32 := by
    rw [← Nat.shiftLeft_eq, hlow, Nat.shiftLeft_eq]
    have := Nat.mul_le_mul_right (2 ^ n) (Nat.succ_le_of_lt hlow')
    rw [Nat.succ_mul, mul_comm (2 ^ (32 - n)), ← hsplit] at this
    omega
  rw [Nat.mod_eq_of_lt (lt_trans hhigh (Nat.pow_lt_pow_right (by decide) hn)), Nat.mod_eq_of_lt hsum]

include hn in
/-- SHI is the shift of its kind on the whole word. -/
theorem shiVal_eq (kind : Nat) : shiVal kind n x =
    match kind with
    | 0 => x <<< n
    | 1 => x >>> n
    | 2 => x.sshiftRight n
    | _ => x.rotateLeft n := by
  have hb : (BitVec.ofNat 32 n).toNat = n := by rw [BitVec.toNat_ofNat]; omega
  unfold shiVal
  rw [lanesN_word, hb]
  match kind with
  | 0 => exact n32_laneShl x hn
  | 1 => exact n32_laneShr x n
  | 2 => exact n32_laneShra x hn
  | _ + 3 => exact n32_laneRot x hn

end WordShifts

end Sys2Proof.Machine

namespace Sys2Proof.Settled

open Sys2Proof Sys2Proof.Machine Sys2Proof.Safety

/-- Settles O3, entry by entry: each lands the lanes of its operation; SHI's word is one lane. -/
theorem bitsAndShifts : Obligations.BitsAndShifts := by
  unfold Obligations.BitsAndShifts
  intro s f g
  refine ⟨?andW, ?orW, ?xorW, ?andn, ?shl, ?shr, ?shra, ?rot, ?clz, ?popc, ?brev, ?shi⟩
  case andW => exact lands_alu2 (i := .andW f) rfl rfl
  case orW => exact lands_alu2 (i := .orW f) rfl rfl
  case xorW => exact lands_alu2 (i := .xorW f) rfl rfl
  case andn => exact lands_alu2 (i := .andn f) rfl rfl
  case shl => exact lane2_of_lanesN (i := .shl f) rfl fun _ => laneShl_eq _ _ _
  case shr => exact lane2_of_lanesN (i := .shr f) rfl fun _ => laneShr_eq _ _ _
  case shra => exact lane2_of_lanesN (i := .shra f) rfl fun _ => laneShra_eq _ _ _
  case rot => exact lane2_of_lanesN (i := .rot f) rfl fun _ => laneRot_eq _ _ _
  case clz => exact lane1_of_lanesN (i := .clz f) rfl fun _ => laneClz_eq (lane_lt _ _ _) _
  case popc => exact lane1_of_lanesN (i := .popc f) rfl fun _ => lanePopc_eq _ _ _
  case brev =>
    refine ⟨_, lands_alu1 (i := .brev f) rfl rfl, fun k j hk hj => ?_⟩
    rw [lanesN, lane_ofLanes (tyWidth_cases _) _ hk]
    exact testBit_laneBrev _ _ _ hj
  case shi => exact lands_aluI (i := .shi g) rfl (shiVal_eq _ (Nat.mod_lt _ (by decide)) _)

end Sys2Proof.Settled
end

section
/-! PROOFS. O4: MAD, SEL, DOT4, DOT2, ADDC, BFX, BFI, PACK, UNPK and SHUF. -/

namespace Sys2Proof.Machine

open Sys2Proof Sys2Proof.Safety

/-! ## Three sources (R313) -/

theorem dotVal_four (ty : Nat) (a b c : Word) : dotVal 4 ty a b c =
    n32 (laneV ty a 0 * laneV ty b 0 + laneV ty a 1 * laneV ty b 1 + laneV ty a 2 * laneV ty b 2 + laneV ty a 3 * laneV ty b 3 +
      (if tySigned ty then c.toInt else (c.toNat : Int))) := by
  refine congrArg n32 ?_
  simp only [List.range_succ, List.range_zero, List.nil_append, List.cons_append, List.foldl_cons, List.foldl_nil]
  ring

theorem dotVal_two (ty : Nat) (a b c : Word) : dotVal 2 ty a b c =
    n32 (laneV ty a 0 * laneV ty b 0 + laneV ty a 1 * laneV ty b 1 + (if tySigned ty then c.toInt else (c.toNat : Int))) := by
  refine congrArg n32 ?_
  simp only [List.range_succ, List.range_zero, List.nil_append, List.cons_append, List.foldl_cons, List.foldl_nil]
  ring

/-! ## Bit fields (R315) -/

/-- Clearing a field takes no more away than the number holds. -/
theorem field_mul_le (v pos len : Nat) : v / 2 ^ pos % 2 ^ len * 2 ^ pos ≤ v :=
  (Nat.mul_le_mul_right _ (Nat.mod_le _ _)).trans (Nat.div_mul_le_self _ _)

theorem bfiVal_eq (pos len : Nat) (old a : Word) : bfiVal pos len old a =
    n32 ((old.toNat : Int) - (old.toNat / 2 ^ pos % 2 ^ len * 2 ^ pos : Nat) + (a.toNat % 2 ^ len * 2 ^ pos : Nat)) := by
  rw [bfiVal, ← n32_natCast, Nat.cast_add, Nat.cast_sub (field_mul_le ..)]

/-! ## Packing and shuffles (R317, R318) -/

/-- A lane of UNPK holds a narrow lane's value in twice its width. -/
theorem lane_unpkVal {ty : Nat} (h2 : 2 ≤ ty) (h7 : ty ≤ 7) (hi : Bool) (a : Word) {j : Nat} (hj : j < 16 / tyWidth ty) :
    lane (unpkVal ty hi a) (2 * tyWidth ty) j = (nN (2 * tyWidth ty) (laneV ty a (j + if hi then 16 / tyWidth ty else 0))).toNat := by
  have hw : tyWidth ty = 4 ∨ tyWidth ty = 8 ∨ tyWidth ty = 16 := by
    obtain rfl | rfl | rfl | rfl | rfl | rfl : ty = 2 ∨ ty = 3 ∨ ty = 4 ∨ ty = 5 ∨ ty = 6 ∨ ty = 7 := by omega
    all_goals decide
  refine lane_ofLanes (by omega) _ ?_
  rwa [show 32 = 2 * 16 from rfl, Nat.mul_div_mul_left _ _ (by decide)]

/-- A byte of SHUF is a constant or a byte of its source. -/
theorem lane_shufVal (imm : BitVec 21) (a : Word) {k : Nat} (hk : k < 4) : lane (shufVal imm a) 8 k =
    match bitsOf imm (4 * k + 3) (4 * k) with
    | 4 => 0
    | 5 => 0xFF
    | b => lane a 8 b := by
  have hbyte : ∀ b, (nN 8 (lane a 8 b : Int)).toNat = lane a 8 b := fun b => by
    rw [nN, ← Int.natCast_mod, Int.toNat_natCast, Nat.mod_eq_of_lt (lane_lt ..)]
  rw [shufVal, lane_ofLanes (by decide) _ hk]
  match bitsOf imm (4 * k + 3) (4 * k) with
  | 0 | 1 | 2 | 3 => exact hbyte _
  | 4 | 5 => rfl
  | _ + 6 => exact hbyte _

end Sys2Proof.Machine

namespace Sys2Proof.Settled

open Sys2Proof Sys2Proof.Machine Sys2Proof.Safety

/-- Settles O4, entry by entry: each lands its value, and ADDC writes its carry beside it. -/
theorem fieldsAndThreeSources : Obligations.FieldsAndThreeSources := by
  unfold Obligations.FieldsAndThreeSources
  constructor
  · intro s f ty a b c
    refine ⟨⟨_, lands3_alu3 (i := .mad f) rfl rfl, laneWise_ofLanes ty _⟩, fun hp => ?selWhole,
      fun hp => ⟨_, lands3_alu3 (i := .sel f) rfl (if_neg (by simp [hp])), laneWise_ofLanes ty _⟩, ?dot4, ?dot2⟩
    case selWhole => exact lands3_alu3 (i := .sel f) rfl (if_pos hp)
    case dot4 => exact lands3_alu3 (i := .dot4 f) rfl (dotVal_four ty a b c)
    case dot2 => exact lands3_alu3 (i := .dot2 f) rfl (dotVal_two ty a b c)
  · intro s f g q sum pos len x old w m
    refine ⟨?addc, ?bfx, ?bfi, ?pack, fun h2 h7 => ?unpk, ?shuf⟩
    case addc =>
      refine fires_entry (i := .addc f) rfl rfl ?_
      simp only [addcSum, decide_eq_true_eq]
      rfl
    case bfx => exact lands_aluI (i := .bfx g) rfl rfl
    case bfi => exact lands_aluI (i := .bfi g) rfl (bfiVal_eq pos len _ _)
    case pack =>
      refine ⟨_, lands_alu2 (i := .pack f) rfl rfl, ?_⟩
      simp only [packVal, decide_eq_true_eq, satTy_eq_clamp]
      exact laneWise_ofLanes _ _
    case unpk =>
      refine ⟨_, lands_alu1 (i := .unpk f) rfl rfl, fun j hj => ?_⟩
      rw [lane_unpkVal h2 h7 _ _ hj]
      simp only [decide_eq_true_eq]
      rfl
    case shuf => exact ⟨_, lands_aluI (i := .shuf g) rfl rfl, fun k hk _ => lane_shufVal g.imm _ hk⟩

end Sys2Proof.Settled
end

section
/-! PROOFS. O5: DIV, REM, FDIV and FSQRT. -/

namespace Sys2Proof.Machine

open Sys2Proof Sys2Proof.Safety

/-! ## Quotients and remainders (R319) -/

theorem divRem_fst (uns : Bool) (a b : Word) :
    let u : Int := if uns then a.toNat else a.toInt
    let v : Int := if uns then b.toNat else b.toInt
    n32 (divRem uns a b).1 = if v = 0 then 0xFFFFFFFF#32 else n32 (u.tdiv v) := by
  intro u v
  change n32 (if v = 0 then (-1, u) else (u.tdiv v, u - u.tdiv v * v)).1 = _
  split_ifs <;> rfl

theorem divRem_snd (uns : Bool) (a b : Word) :
    let u : Int := if uns then a.toNat else a.toInt
    let v : Int := if uns then b.toNat else b.toInt
    n32 (divRem uns a b).2 = if v = 0 then n32 u else n32 (u.tmod v) := by
  intro u v
  have hmod : u - u.tdiv v * v = u.tmod v := by rw [Int.tmod_def, mul_comm]
  change n32 (if v = 0 then (-1, u) else (u.tdiv v, u - u.tdiv v * v)).2 = _
  rw [hmod]
  split_ifs <;> rfl

end Sys2Proof.Machine

namespace Sys2Proof.Settled

open Sys2Proof Sys2Proof.Machine Sys2Proof.Safety

/-- Settles O5: each entry opens its window on a result that is ready in its fixed cycle, whatever the operands. -/
theorem divisions : Obligations.Divisions := by
  unfold Obligations.Divisions
  constructor
  · intro s f u v
    refine ⟨?div, ?rem⟩
    case div =>
      refine fires_entry (i := .div f) rfl rfl ?_
      rw [divRem_fst]
    case rem =>
      refine fires_entry (i := .rem f) rfl rfl ?_
      rw [divRem_snd]
  · intro s f x
    exact ⟨fires_entry (i := .fdiv f) rfl rfl rfl, fires_entry (i := .fsqrt f) rfl rfl rfl⟩

end Sys2Proof.Settled
end

section
/-! PROOFS. O6: CMP, PSET and FCMP. -/

namespace Sys2Proof.Machine

open Sys2Proof Sys2Proof.Safety

/-! ## Conditions over lanes (R321, R374) -/

theorem boolWord_cases (b : Bool) : boolWord b = 1#32 ∨ boolWord b = 0#32 := by
  cases b
  · exact .inr rfl
  · exact .inl rfl

theorem boolWord_eq_one_iff (b : Bool) : boolWord b = 1#32 ↔ b = true := by cases b <;> decide

/-- SUB[3] asks for any lane, and otherwise the condition is of every lane. -/
theorem overLanes_iff {ty sub : Nat} {p : Nat → Bool} {c : Nat → Prop} (h : ∀ i, p i = true ↔ c i) : overLanes ty sub p = true ↔
    if sub < 8 then ∀ i, i < 32 / tyWidth ty → c i else ∃ i, i < 32 / tyWidth ty ∧ c i := by
  rw [overLanes]
  by_cases hs : sub < 8
  · rw [if_neg (not_le.2 hs), if_pos hs]
    simp [h]
  · rw [if_pos (not_lt.1 hs), if_neg hs]
    simp [h]

/-- How an entry that lands a condition of its lanes completes. -/
theorem lands_overLanes {i : Instr} {s : State} {f : FT} {p : Word → Word → Nat → Bool} {c : Nat → Prop}
    (h : exec i s = go (s.alu2 f (fun a b => boolWord (overLanes f.ty.toNat f.sub.toNat (p a b)))))
    (hc : ∀ k, p (opA s f) (opB s f) k = true ↔ c k) :
    ∃ v, Lands i s [f.a.toNat, f.b.toNat] f.d.toNat v ∧ (v = 1#32 ∨ v = 0#32) ∧
      (v = 1#32 ↔ if f.sub.toNat < 8 then ∀ k, k < 32 / tyWidth f.ty.toNat → c k else ∃ k, k < 32 / tyWidth f.ty.toNat ∧ c k) :=
  ⟨_, lands_alu2 h rfl, boolWord_cases _, (boolWord_eq_one_iff _).trans (overLanes_iff hc)⟩

theorem cmpLane_iff (s : State) (f : FT) (k : Nat) :
    cmpLane (f.sub.toNat % 8) (xv s f k) (yv s f k) (xn s f k) (yn s f k) = true ↔ cmpCond s f k := by
  unfold cmpCond
  generalize f.sub.toNat % 8 = c
  match c with
  | 0 | _ + 7 => exact beq_iff_eq
  | 1 | 6 => exact bne_iff_ne
  | 2 | 3 | 4 | 5 => exact decide_eq_true_iff

/-! ## FCMP (R374) -/

theorem not_and_eq_true_iff (a b : Bool) : (!a && b) = true ↔ a = false ∧ b = true := by
  rw [Bool.and_eq_true, Bool.not_eq_true']

theorem not_and_not_eq_true_iff (a b : Bool) : (!a && !b) = true ↔ a = false ∧ b = false := by
  rw [not_and_eq_true_iff, Bool.not_eq_true']

theorem or_not_eq_true_iff (a b : Bool) : (a || !b) = true ↔ a = true ∨ b = false := by
  rw [Bool.or_eq_true, Bool.not_eq_true']

/-! ## PSET (R322) -/

/-- A predicate of PSET's mask is set, inverted or copied. -/
theorem psetVal_eq (op : Nat) (param : BitVec 21) (a : Word) {j : Nat} (hj : j < 8) (old : Bool) :
    psetVal op (bitsOf param 15 8) a j old = match op with
      | 0 => bitAt param (8 + j)
      | 1 => !old
      | _ => bitAt a j := by
  match op with
  | 0 =>
    change (bitsOf param 15 8).testBit j = _
    rw [bitsOf, Nat.testBit_mod_two_pow, Nat.testBit_shiftRight, decide_eq_true hj, Bool.true_and]
    rfl
  | 1 => rfl
  | _ + 2 => rfl

end Sys2Proof.Machine

namespace Sys2Proof.Settled

open Sys2Proof Sys2Proof.Machine Sys2Proof.Safety

/-- Settles O6: the compares land a condition of their lanes (`lands_overLanes`), and PSET gives each predicate of its mask its value. -/
theorem comparesAndPredicates : Obligations.ComparesAndPredicates := by
  unfold Obligations.ComparesAndPredicates
  constructor
  · intro s f k n js op
    refine ⟨?cmp, fun _ => ?pset⟩
    case cmp => exact lands_overLanes (i := .cmp f) rfl (cmpLane_iff s f)
    case pset =>
      have hjs : (List.range 8).filter (fun j => j ≠ 0 && bitAt k.param j) = js := rfl
      have hlt : ∀ j ∈ js, j < 8 := fun j hj => List.mem_range.1 (List.mem_of_mem_filter (hjs ▸ hj))
      refine fires_entry (i := .pset k) rfl rfl ?_
      rw [hjs]
      refine List.foldl_ext _ _ _ fun u j hj => ?_
      exact congrArg (u.setPred j) (psetVal_eq _ _ _ (hlt j hj) _)
  · intro s f x y nan n cond
    refine lands_overLanes (i := .fcmp f) rfl fun i => ?_
    unfold cond
    generalize f.sub.toNat % 8 = c
    match c with
    | 0 | 2 | 5 => exact not_and_eq_true_iff _ _
    | 1 => exact or_not_eq_true_iff _ _
    | 3 | 4 => exact not_and_not_eq_true_iff _ _
    | 6 => exact Iff.rfl
    | _ + 7 => exact Iff.of_eq (Bool.not_eq_true' _)

end Sys2Proof.Settled
end

section
/-! PROOFS. O7: CNTI, CNTS, CNTV, CNTT, SWS, ROTB, HALTS and ENDP. -/

namespace Sys2Proof.Machine

open Sys2Proof Sys2Proof.Safety

/-! ## The cascade of counters (R107, R324) -/

/-- Whether the steps of the counters that `sel` selects reach counter i: it is selected, or chained to the one below, which reloads. -/
def counterHit (sel : Nat → Counter → Bool) (old : Nat → Counter) : Nat → Bool
  | 0 => sel 0 (old 0)
  | i + 1 => sel (i + 1) (old (i + 1)) || (counterHit sel old i && (old i).value == 0#32 && (old (i + 1)).mode == 3#2)

/-- Whether counter n - 1 has reloaded: what its step hands on to counter n. -/
def counterCarry (sel : Nat → Counter → Bool) (old : Nat → Counter) : Nat → Bool
  | 0 => false
  | i + 1 => counterHit sel old i && (old i).value == 0#32

theorem counterHit_eq (sel : Nat → Counter → Bool) (old : Nat → Counter) (i : Nat) :
    counterHit sel old i = (sel i (old i) || (counterCarry sel old i && (old i).mode == 3#2)) := by
  cases i with
  | zero => simp [counterHit, counterCarry]
  | succ i => rfl

theorem Counter.step_rl (k : Counter) : k.step.rl = (k.value == 0#32) := by
  unfold Counter.step
  by_cases h : k.value = 0#32 <;> simp [h]

/-- One counter of the cascade: stepped where it is hit, with its reload handed on. -/
def cascadeStep (sel : Nat → Counter → Bool) (acc : Tbl Counter × Bool) (i : Nat) : Tbl Counter × Bool :=
  let k := acc.1.get Counter.zero i
  if sel i k || (acc.2 && k.mode == 3#2) then (acc.1.set i k.step, k.step.rl) else (acc.1, false)

theorem stepCounters_eq (sel : Nat → Counter → Bool) (c : Tbl Counter) :
    stepCounters sel c = ((List.range 8).foldl (cascadeStep sel) (c, false)).1 := rfl

/-- After the first n counters have had their turn, those that were hit are stepped, the others are as they were, and the last has handed
on its reload. -/
theorem cascade_upto (sel : Nat → Counter → Bool) (c : Tbl Counter) (n : Nat) :
    let old := c.get Counter.zero
    let acc := (List.range n).foldl (cascadeStep sel) (c, false)
    acc.2 = counterCarry sel old n ∧
      ∀ i, acc.1.get Counter.zero i = if i < n ∧ counterHit sel old i = true then (old i).step else old i := by
  induction n with
  | zero => exact ⟨rfl, fun i => by simp⟩
  | succ n ih =>
    intro old acc
    obtain ⟨hcarry, hget⟩ := ih
    have hacc : acc = cascadeStep sel ((List.range n).foldl (cascadeStep sel) (c, false)) n := by
      simp only [acc, List.range_succ, List.foldl_append, List.foldl_cons, List.foldl_nil]
    have hn : ((List.range n).foldl (cascadeStep sel) (c, false)).1.get Counter.zero n = old n := by rw [hget, if_neg (by simp)]
    rw [hacc, cascadeStep, hn, hcarry, ← counterHit_eq]
    by_cases hit : counterHit sel old n = true
    · rw [if_pos hit]
      refine ⟨by rw [counterCarry, hit, Counter.step_rl, Bool.true_and], fun i => ?_⟩
      rw [Tbl.get_set, hget]
      by_cases hi : n = i
      · subst hi
        rw [if_pos rfl, if_pos ⟨Nat.lt_succ_self n, hit⟩]
      · rw [if_neg hi]
        simp only [show i < n + 1 ↔ i < n by omega]
        rfl
    · rw [if_neg hit]
      refine ⟨by rw [counterCarry, Bool.eq_false_of_not_eq_true hit, Bool.false_and], fun i => ?_⟩
      rw [hget]
      by_cases hi : n = i
      · subst hi
        rw [if_neg (fun h => absurd h.1 (Nat.lt_irrefl n)), if_neg (fun h => hit h.2)]
      · simp only [show i < n + 1 ↔ i < n by omega]
        rfl

/-- Each of the eight counters is stepped once where it is hit. -/
theorem get_stepCounters (sel : Nat → Counter → Bool) (c : Tbl Counter) {i : Nat} (hi : i < 8) :
    (stepCounters sel c).get Counter.zero i =
      if counterHit sel (c.get Counter.zero) i then (c.get Counter.zero i).step else c.get Counter.zero i := by
  rw [stepCounters_eq, (cascade_upto sel c 8).2]
  simp only [hi, true_and]

/-! ## The counter entries (R253, R324, R325) -/

section CounterEntries

variable {s : State} {f : FK}

/-- CNTV's check is of the counters that it steps by its mask. -/
theorem fires_cntv (h : ∀ i, i < 8 → bitAt f.param i = true → (ctr s i).mode = 2#2 → s.wordChk (regWord (80 + i)) 4 = .ok) :
    Fires (.cntv f) s [] [] (fun t => t.modE (fun e =>
      { e with c := stepCounters (fun i k => bitAt f.param i && k.mode == 2#2) e.c })) := by
  refine fires_entry (i := .cntv f) rfl ((Chk.fold_eq_ok _ _ _).2 ⟨rfl, fun i hi => ?_⟩) rfl
  obtain ⟨hlt, hpick⟩ := List.mem_filter.1 hi
  obtain ⟨hbit, hmode⟩ := Bool.and_eq_true_iff.1 hpick
  exact h i (List.mem_range.1 hlt) hbit (eq_of_beq hmode)

/-- What CNTT tests of a counter (R325). -/
def cnttTest (k : Counter) (op : Nat) : Bool :=
  match op with
  | 0 => k.value == 0#32
  | 1 => k.value != 0#32
  | _ => k.rl

theorem lands_cntt (h : s.wordChk (regWord (80 + bitsOf f.param 2 0)) 4 = .ok) :
    Lands (.cntt f) s [] f.d.toNat (boolWord (cnttTest (ctr s (bitsOf f.param 2 0)) (bitsOf f.param 4 3))) :=
  fires_entry (i := .cntt f) rfl h rfl

theorem cnttTest_eq (k : Counter) (op : Nat) : cnttTest k op = match op with
    | 0 => decide (k.value = 0#32)
    | 1 => decide (k.value ≠ 0#32)
    | _ => k.rl := by
  match op with
  | 0 => rfl
  | 1 => exact (decide_not ..).symm
  | _ + 2 => rfl

end CounterEntries

/-- The low bits of a field, as a narrower one. -/
theorem extractLsb'_zero_eq {w : Nat} (n : Nat) (x : BitVec w) : x.extractLsb' 0 n = BitVec.ofNat n x.toNat := by
  rw [BitVec.extractLsb', Nat.shiftRight_zero]

end Sys2Proof.Machine

namespace Sys2Proof.Settled

open Sys2Proof Sys2Proof.Machine Sys2Proof.Safety

/-- Settles O7: the entries complete as their equations say, and the cascade steps the counters that `counterHit` names, each once. -/
theorem countersAndSchedules : Obligations.CountersAndSchedules := by
  unfold Obligations.CountersAndSchedules
  refine ⟨?entries, ?cascade, ?schedules⟩
  case entries =>
    intro s f n a
    refine ⟨fires_entry (i := .cnti f) rfl rfl rfl, fires_entry (i := .cnts f) rfl rfl rfl, fires_cntv, fun _ hchk => ?_⟩
    have h := lands_cntt hchk
    rw [cnttTest_eq] at h
    exact h
  case cascade =>
    intro sel c old
    refine ⟨counterHit sel old, rfl, fun i _ => rfl, fun i hi => ?_⟩
    rw [get_stepCounters sel c hi]
    rfl
  case schedules =>
    intro s f
    refine ⟨fires_entry (i := .sws f) rfl rfl rfl, ?rotb, fires_entry (i := .halts) rfl rfl rfl, fires_entry (i := .endp) rfl rfl rfl⟩
    refine fires_entry (i := .rotb f) rfl rfl ?_
    have hv : (if bitAt f.param 5 then (s.src f.a.toNat).extractLsb' 0 5 else f.param.extractLsb' 0 5) =
        BitVec.ofNat 5 (if bitAt f.param 5 then (s.src f.a.toNat).toNat else bitsOf f.param 4 0) := by
      split
      · exact extractLsb'_zero_eq 5 _
      · apply BitVec.eq_of_toNat_eq
        simp [bitsOf]
    rw [hv]

end Sys2Proof.Settled
end

section
/-! PROOFS. O8: TOKS and TOKT, and where and when a token that is sent arrives. -/

namespace Sys2Proof.Machine

open Sys2Proof Sys2Proof.Safety

/-! ## The shortest way to a signature (R115, R119) -/

/-- Signature q lies d faces from signature a by the shortest way. -/
def Nearest (r : Region) (a d q : Nat) : Prop := Faces r a d q ∧ ∀ c, c < d → ¬ Faces r a c q

section Nearest

variable {r : Region} {a d q : Nat}

/-- What can be reached lies at the distance of its shortest way. -/
theorem exists_nearest (h : Faces r a d q) : ∃ c, c ≤ d ∧ Nearest r a c q := by
  classical
  have hex : ∃ c, Faces r a c q := ⟨d, h⟩
  exact ⟨Nat.find hex, Nat.find_min' hex h, Nat.find_spec hex, fun _ hc => Nat.find_min hex hc⟩

theorem Nearest.unique {c : Nat} (h : Nearest r a c q) (h' : Nearest r a d q) : c = d := by
  rcases Nat.lt_trichotomy c d with hlt | heq | hgt
  · exact absurd h.1 (h'.2 c hlt)
  · exact heq
  · exact absurd h'.1 (h.2 d hgt)

/-- The last face of a shortest way is crossed from a signature that lies one face nearer. -/
theorem nearest_succ_iff : Nearest r a (d + 1) q ↔
    (∃ p side, side < 4 ∧ Nearest r a d p ∧ r.chained p side = some q) ∧ (r.sig q).passed = false ∧
      ∀ c, c ≤ d → ¬ Nearest r a c q := by
  constructor
  · rintro ⟨⟨p, side, hside, hp, hch, hpass⟩, hmin⟩
    refine ⟨⟨p, side, hside, ⟨hp, fun c hc hf => ?_⟩, hch⟩, hpass, fun c hc hn => hmin c (by omega) hn.1⟩
    exact hmin (c + 1) (by omega) ⟨p, side, hside, hf, hch, hpass⟩
  · rintro ⟨⟨p, side, hside, hp, hch⟩, hpass, hmin⟩
    refine ⟨⟨p, side, hside, hp.1, hch, hpass⟩, fun c hc hf => ?_⟩
    obtain ⟨b, hb, hn⟩ := exists_nearest hf
    exact hmin b (by omega) hn

/-- On the way to a signature there is one at each lesser distance. -/
theorem Nearest.exists_between {c : Nat} (h : Nearest r a d q) (hc : c ≤ d) : ∃ p, Nearest r a c p := by
  induction d generalizing q with
  | zero => exact ⟨q, Nat.le_zero.1 hc ▸ h⟩
  | succ d ih =>
    obtain ⟨⟨p, -, -, hp, -⟩, -⟩ := nearest_succ_iff.1 h
    rcases Nat.lt_or_eq_of_le hc with hlt | rfl
    · exact ih hp (by omega)
    · exact ⟨q, h⟩

theorem Region.chained_lt {sg side : Nat} (h : r.chained sg side = some q) : q < r.sigs.length := by
  unfold Region.chained at h
  split at h <;> exact (List.findIdx?_eq_some_iff_findIdx_eq.1 h).1

/-- A shortest way passes each signature of its region once. -/
theorem Nearest.le_length (h : Nearest r a d q) : d ≤ r.sigs.length := by
  have hat : ∀ c : Fin d, ∃ p : Fin r.sigs.length, Nearest r a (c + 1) p := fun c => by
    obtain ⟨p, hp⟩ := h.exists_between (c := c + 1) (by omega)
    obtain ⟨⟨_, _, _, _, hch⟩, -⟩ := nearest_succ_iff.1 hp
    exact ⟨⟨p, Region.chained_lt hch⟩, hp⟩
  choose at_ hat using hat
  have hinj : Function.Injective at_ := fun b c hbc => Fin.ext (Nat.succ.inj ((hbc ▸ hat b).unique (hat c)))
  simpa using Fintype.card_le_of_injective at_ hinj

end Nearest

/-! ## The search for the pages that a token reaches (R115) -/

/-- What the search has found up to distance d: in `front` what lies at d, and in `acc` everything that lies no farther, once. -/
structure Reached (r : Region) (a d : Nat) (front : List Nat) (acc : List (Nat × Nat)) : Prop where
  front_iff : ∀ q, q ∈ front ↔ Nearest r a d q
  acc_iff : ∀ p, p ∈ acc ↔ p.2 ≤ d ∧ Nearest r a p.2 p.1
  nodup : (acc.map Prod.fst).Nodup

/-- What the search finds from a front in one more face. -/
def Region.nextFront (r : Region) (front : List Nat) (acc : List (Nat × Nat)) : List Nat :=
  ((front.flatMap (fun sg => (List.range 4).filterMap (fun side => r.chained sg side))).filter
    (fun q => !(acc.map Prod.fst).contains q && !(r.sig q).passed)).dedup

theorem Region.reach_succ (r : Region) (k d : Nat) (front : List Nat) (acc : List (Nat × Nat)) :
    r.reach (k + 1) d front acc = if r.nextFront front acc = [] then acc
      else r.reach k (d + 1) (r.nextFront front acc) (acc ++ (r.nextFront front acc).map (fun q => (q, d + 1))) := rfl

section Search

variable {r : Region} {a d : Nat} {front : List Nat} {acc : List (Nat × Nat)}

theorem reached_start (r : Region) (a : Nat) : Reached r a 0 [a] [(a, 0)] := by
  have h0 : ∀ q, Nearest r a 0 q ↔ q = a := fun q => ⟨fun h => h.1, fun h => ⟨h, fun c hc => absurd hc (Nat.not_lt_zero c)⟩⟩
  refine ⟨fun q => by rw [h0, List.mem_singleton], fun ⟨q, c⟩ => ?_, List.nodup_singleton a⟩
  rw [List.mem_singleton, Prod.mk.injEq]
  constructor
  · rintro ⟨rfl, rfl⟩
    exact ⟨Nat.le_refl 0, (h0 q).2 rfl⟩
  · rintro ⟨hc, hn⟩
    obtain rfl := Nat.le_zero.1 hc
    exact ⟨(h0 q).1 hn, rfl⟩

variable (h : Reached r a d front acc)
include h

theorem Reached.mem_acc_fst (q : Nat) : q ∈ acc.map Prod.fst ↔ ∃ c, c ≤ d ∧ Nearest r a c q := by
  simp [h.acc_iff]

/-- One more face finds what lies one face farther. -/
theorem Reached.mem_nextFront (q : Nat) : q ∈ r.nextFront front acc ↔ Nearest r a (d + 1) q := by
  rw [nearest_succ_iff, Region.nextFront, List.mem_dedup, List.mem_filter, List.mem_flatMap]
  simp only [List.mem_filterMap, List.mem_range, h.front_iff, Bool.and_eq_true, Bool.not_eq_true', List.contains_eq_mem,
    decide_eq_false_iff_not, h.mem_acc_fst, not_exists, not_and]
  constructor
  · rintro ⟨⟨p, hp, side, hside, hch⟩, hmin, hpass⟩
    exact ⟨⟨p, side, hside, hp, hch⟩, hpass, hmin⟩
  · rintro ⟨⟨p, side, hside, hp, hch⟩, hpass, hmin⟩
    exact ⟨⟨p, hp, side, hside, hch⟩, hmin, hpass⟩

theorem Reached.next : Reached r a (d + 1) (r.nextFront front acc) (acc ++ (r.nextFront front acc).map (fun q => (q, d + 1))) := by
  refine ⟨h.mem_nextFront, fun ⟨q, c⟩ => ?_, ?_⟩
  · rw [List.mem_append, h.acc_iff, List.mem_map]
    constructor
    · rintro (⟨hc, hn⟩ | ⟨q', hq, heq⟩)
      · exact ⟨Nat.le_succ_of_le hc, hn⟩
      · obtain ⟨rfl, rfl⟩ := Prod.mk.inj heq
        exact ⟨Nat.le_refl _, (h.mem_nextFront q').1 hq⟩
    · rintro ⟨hc, hn⟩
      rcases Nat.lt_or_eq_of_le hc with hlt | rfl
      · exact .inl ⟨Nat.lt_succ_iff.1 hlt, hn⟩
      · exact .inr ⟨q, (h.mem_nextFront q).2 hn, rfl⟩
  · rw [List.map_append, List.map_map, show (Prod.fst ∘ fun q => (q, d + 1)) = id from rfl, List.map_id]
    refine h.nodup.append (List.nodup_dedup _) (List.disjoint_left.2 fun q hq hq' => ?_)
    obtain ⟨c, hc, hn⟩ := (h.mem_acc_fst q).1 hq
    have := hn.unique ((h.mem_nextFront q).1 hq')
    omega

/-- The search goes on from what it has found, finds each signature once, and stops early only where nothing lies farther. -/
theorem Reached.reach (k : Nat) : acc <+: r.reach k d front acc ∧ ((r.reach k d front acc).map Prod.fst).Nodup ∧
    ∀ p, p ∈ r.reach k d front acc ↔ p.2 ≤ d + k ∧ Nearest r a p.2 p.1 := by
  induction k generalizing d front acc with
  | zero => exact ⟨List.prefix_rfl, h.nodup, h.acc_iff⟩
  | succ k ih =>
    rw [Region.reach_succ]
    split
    next hnil =>
      refine ⟨List.prefix_rfl, h.nodup, fun p => (h.acc_iff p).trans (and_congr_left fun hn => ⟨fun hc => by omega, fun _ => ?_⟩)⟩
      by_contra hgt
      obtain ⟨q, hq⟩ := hn.exists_between (c := d + 1) (by omega)
      exact List.not_mem_nil (hnil ▸ (h.mem_nextFront q).2 hq)
    next =>
      obtain ⟨hpre, hnodup, hmem⟩ := ih h.next
      exact ⟨(List.prefix_append _ _).trans hpre, hnodup, fun p => (hmem p).trans (by rw [Nat.add_right_comm, Nat.add_assoc])⟩

end Search

/-- Where a token goes beside its own page: each signature that can be reached, once, with its distance. -/
theorem exists_reach_eq (r : Region) (a : Nat) : ∃ far, r.reach r.sigs.length 0 [a] [(a, 0)] = (a, 0) :: far ∧
    (far.map Prod.fst).Nodup ∧ ∀ p, p ∈ far ↔ p.1 ≠ a ∧ Nearest r a p.2 p.1 := by
  obtain ⟨⟨far, hfar⟩, hnodup, hmem⟩ := (reached_start r a).reach r.sigs.length
  rw [List.singleton_append] at hfar
  rw [← hfar, List.map_cons, List.nodup_cons] at hnodup
  obtain ⟨hown, hnodup⟩ := hnodup
  refine ⟨far, hfar.symm, hnodup, fun p => ?_⟩
  have hp := hmem p
  rw [← hfar, List.mem_cons, Nat.zero_add] at hp
  constructor
  · intro hin
    refine ⟨fun heq => hown (List.mem_map.2 ⟨p, hin, heq⟩), (hp.1 (.inr hin)).2⟩
  · rintro ⟨hne, hn⟩
    exact (hp.2 ⟨hn.le_length, hn⟩).resolve_left fun heq => hne (by rw [heq])

/-! ## A token sent (R115, R330) -/

theorem SigDecl.takes_iff (d : SigDecl) (id : Nat) :
    d.takes id = true ↔ d.tokens.testBit id = true ∨ ∃ e ∈ d.elems, e.recv.testBit id = true := by
  simp [SigDecl.takes]

/-- A token on its way to a signature that lies some faces away. -/
def State.tokTo (s : State) (id : Nat) (p : Nat × Nat) : Tok := { sg := p.1, id := id, due := s.cycle + 4 + 4 * p.2 }

theorem State.toks_sendToken {s : State} (hb : Bound s) (id : Nat) : (s.sendToken id).rg.now.toks = s.rg.now.toks ++
    ((s.rg.reach s.rg.sigs.length 0 [s.focus.sg] [(s.focus.sg, 0)]).filter (fun p => (s.rg.sig p.1).decl.takes id)).map (s.tokTo id) := by
  rw [State.sendToken, State.count, State.modR_rg ((State.modNow_bound _).2 hb)]
  change (State.modNow s _).rg.now.toks = _
  rw [State.modNow_now hb]
  rfl

end Sys2Proof.Machine

namespace Sys2Proof.Settled

open Sys2Proof Sys2Proof.Machine Sys2Proof.Safety

/-- Settles O8: the search from the token's own page finds each page that it can reach once, at its least distance (`exists_reach_eq`). -/
theorem tokens : Obligations.Tokens := by
  unfold Obligations.Tokens
  refine ⟨fun s f => ⟨fires_entry (i := .toks f) rfl rfl rfl, lands_compute (i := .tokt f) rfl rfl⟩, ?_⟩
  intro s id hb _ takes own
  obtain ⟨far, hreach, hnodup, hfar⟩ := exists_reach_eq s.rg s.focus.sg
  have htakes : ∀ p : Nat × Nat, (s.rg.sig p.1).decl.takes id = true ↔ takes p.1 := fun p => SigDecl.takes_iff _ _
  have hsent := State.toks_sendToken hb id
  rw [hreach, List.filter_cons] at hsent
  refine ⟨(far.filter (fun p => (s.rg.sig p.1).decl.takes id)).map (s.tokTo id), fun h => ?_, fun h => ?_, ?_, ?_, ?_⟩
  · rw [hsent, if_pos ((htakes (s.focus.sg, 0)).2 h)]
    rfl
  · rw [hsent, if_neg (fun hc => h ((htakes (s.focus.sg, 0)).1 hc))]
  · intro k hk
    obtain ⟨p, hp, rfl⟩ := List.mem_map.1 hk
    obtain ⟨hpf, hpt⟩ := List.mem_filter.1 hp
    obtain ⟨hne, hn⟩ := (hfar p).1 hpf
    have hpos : p.2 ≠ 0 := fun h0 => hne (show Faces s.rg s.focus.sg 0 p.1 from h0 ▸ hn.1)
    obtain ⟨d, hd⟩ := Nat.exists_eq_succ_of_ne_zero hpos
    have hpass := (nearest_succ_iff.1 (hd ▸ hn)).2.1
    exact ⟨rfl, hne, (htakes p).1 hpt, hpass, p.2, Nat.pos_of_ne_zero hpos, rfl, hn⟩
  · intro d q hd hq ht
    obtain ⟨c, -, hn⟩ := exists_nearest hd
    exact ⟨s.tokTo id (q, c), List.mem_map_of_mem (List.mem_filter.2 ⟨(hfar (q, c)).2 ⟨hq, hn⟩, (htakes (q, c)).2 ht⟩), rfl⟩
  · rw [List.map_map]
    exact hnodup.sublist (List.Sublist.map _ List.filter_sublist)

end Sys2Proof.Settled
end

section
/-! PROOFS. O9: LOOPE. -/

namespace Sys2Proof.Machine

open Sys2Proof Sys2Proof.Safety

/-! ## What leaves the element in focus as it is (R259) -/

/-- A change to the region in focus that leaves its elements leaves the one in focus. -/
theorem State.nowE_modR_of_elems (s : State) {g : Region → Region} (h : ∀ r, (g r).now.elems = r.now.elems) :
    (s.modR g).nowE = s.nowE := by
  have helems : (s.modR g).rg.now.elems = s.rg.now.elems := by
    change ((s.modReg s.focus.r g).reg s.focus.r).now.elems = _
    rw [State.reg_modReg]
    split
    · exact h _
    · rfl
  simp only [State.nowE, Fabric.elem, helems]
  rfl

@[simp] theorem State.nowE_count (s : State) (ev : Nat) : (s.count ev).nowE = s.nowE := s.nowE_modR_of_elems fun _ => rfl

@[simp] theorem State.nowE_sendToken (s : State) (id : Nat) : (s.sendToken id).nowE = s.nowE :=
  (State.nowE_count _ _).trans (s.nowE_modR_of_elems fun _ => rfl)

/-! ## Consumed poison (R253) -/

theorem State.wordChk_of_ne_ok {s : State} {a n : Nat} (h : s.wordChk a n ≠ .ok) : s.wordChk a n = .fault 0x70 0 := by
  unfold State.wordChk at h ⊢
  split
  next => rfl
  next hp => exact absurd (if_neg hp) h

end Sys2Proof.Machine

namespace Sys2Proof.Settled

open Sys2Proof Sys2Proof.Machine Sys2Proof.Safety

/-- Settles O9: what LOOPE sends changes no element, and its only check is of its counter's poison. -/
theorem loopEnd : Obligations.LoopEnd := by
  unfold Obligations.LoopEnd
  intro s f n send sent
  refine ⟨fun hchk => ?sends, fun hchk => ?poisoned, ?counters, fun k => fires_entry (i := .toks k) rfl rfl rfl⟩
  case sends =>
    refine fires_entry (i := .loope f) rfl hchk ?_
    simp only [sent, send, ite_apply]
    rfl
  case poisoned =>
    change go (s.entry [] [] (s.wordChk _ _) _) = _
    rw [State.wordChk_of_ne_ok hchk, State.entry_faults (Readable_nil s) (Writable_nil s), go]
  case counters =>
    rw [fired_nil, State.nowE_count]
    unfold sent send
    split_ifs
    · rw [State.nowE_sendToken]
    · rw [State.nowE_sendToken]
    · rfl

end Sys2Proof.Settled
end

section
/-! PROOFS. O10: TOKW, LOOPB, WAITW, LATCH, CPYW, BARW, KEYW and DRAIN. -/

namespace Sys2Proof.Machine

open Sys2Proof Sys2Proof.Safety

/-! ## Waits for tokens (R331, R332) -/

section TokenWaits

variable (s : State) {t : Nat} (w wm : Nat) (c : Option Nat)

theorem State.tokWait_met (h : s.oldE.tok.get 0 t ≠ 0) :
    s.tokWait t w wm c = (s.modE (fun e => e.takeToken t c)).openWin (.token t c) 72 w wm (some 1#32) := by
  simp only [State.tokWait, State.tokens, h, ne_eq, not_false_eq_true, if_true]

theorem State.tokWait_unmet (h : s.oldE.tok.get 0 t = 0) : s.tokWait t w wm c = s.openWin (.token t c) 72 w wm none := by
  simp only [State.tokWait, State.tokens, h, ne_eq, not_true_eq_false, if_false]

end TokenWaits

/-! ## Waits that are met where a condition holds (R334, R353, R364, R367, R368) -/

/-- A wait whose window is met at fire where its test succeeds. -/
theorem waitsIf_of_test {i : Instr} {f : FW} {s : State} {kind : WinKind} {test : Bool} {p : Prop}
    (h : OpensWait i f s [] kind (if test then some 1#32 else none)) (hp : test = true ↔ p) : WaitsIf i f s kind p := by
  refine ⟨_, h, ?_⟩
  cases test
  · exact ⟨.inr rfl, ⟨fun hn => (nomatch hn), fun h => absurd (hp.2 h) Bool.false_ne_true⟩⟩
  · exact ⟨.inl rfl, ⟨fun _ => hp.1 rfl, fun _ => rfl⟩⟩

section Conditions

variable {s : State} {f : FW}

/-- WAITW is met at fire where its condition held. -/
theorem waitsIf_waitw {cls : Nat} {p : Prop} (hc : bitsOf f.b 6 4 = cls)
    (hp : waitHolds s.oldE s.outRoom cls (bitsOf f.b 2 0) = true ↔ p) : WaitsIf (.waitw f) f s (.wait cls (bitsOf f.b 2 0)) p := by
  subst hc
  exact waitsIf_of_test (fires_entry (i := .waitw f) rfl rfl rfl) hp

theorem State.neighbourGone_iff (s : State) (side : Nat) : s.neighbourGone side = true ↔
    ∃ q, s.rg.chained s.focus.sg side = some q ∧ (s.rg.sig q).passed = true ∧ (s.rg.sig q).passedAt ≤ s.cycle := by
  unfold State.neighbourGone
  split <;> simp_all

end Conditions

/-! ## LATCH (R119, R335) -/

section Latch

variable {s : State} {f : FW} (hcut : s.rg.link s.focus.sg s.focus.x s.focus.y (bitsOf f.b 1 0) ≠ .cut)
include hcut

/-- LATCH's check of its link passes where it is not cut. -/
theorem latch_cut_ok : (match s.rg.link s.focus.sg s.focus.x s.focus.y (bitsOf f.b 1 0) with
    | .cut => Chk.fault 0x22 0
    | _ => .ok) = .ok := by
  split
  next h => exact absurd h hcut
  next => rfl

theorem opensWait_latch (hempty : s.inWords (bitsOf f.b 1 0) = []) : OpensWait (.latch f) f s [] (.link (bitsOf f.b 1 0)) none := by
  refine fires_entry (i := .latch f) rfl (Chk.and_eq_ok.2 ⟨latch_cut_ok hcut, if_pos hempty⟩) ?_
  simp only [hempty]

theorem fires_latch {v : Word} {rest : List Word} (hword : s.inWords (bitsOf f.b 1 0) = v :: rest)
    (hchk : s.wordChk (regWord (64 + bitsOf f.b 1 0)) 4 = .ok) : Fires (.latch f) s [] [f.d.toNat] (fun t =>
      (t.popIn (bitsOf f.b 1 0)).openWin (.link (bitsOf f.b 1 0)) f.d.toNat f.win.toNat f.wm.toNat (some v)) := by
  refine fires_entry (i := .latch f) rfl (Chk.and_eq_ok.2 ⟨latch_cut_ok hcut, ?_⟩) ?_
  · rw [if_neg (by rw [hword]; exact List.cons_ne_nil _ _), hchk]
  · simp only [hword]

end Latch

/-! ## CPYW (R173, R353) -/

section CopyWaits

variable {s : State} {f : FW}

theorem fires_cpyw (h : ∀ c ∈ s.oldE.copies, c.id = bitsOf f.b 3 0 → c.done = true) : Fires (.cpyw f) s [] [f.d.toNat] (fun t =>
    (t.modE (fun e => e.awaited (bitsOf f.b 3 0))).openWin (.copy (bitsOf f.b 3 0)) f.d.toNat f.win.toNat f.wm.toNat (some 1#32)) :=
  fires_entry (i := .cpyw f) rfl rfl (if_neg (by rw [(Elem.copyBusy_eq_false_iff _ _).2 h]; decide))

theorem opensWait_cpyw (h : ¬ ∀ c ∈ s.oldE.copies, c.id = bitsOf f.b 3 0 → c.done = true) :
    OpensWait (.cpyw f) f s [] (.copy (bitsOf f.b 3 0)) none :=
  fires_entry (i := .cpyw f) rfl rfl (if_pos (Bool.eq_true_of_not_eq_false fun hb => h ((Elem.copyBusy_eq_false_iff _ _).1 hb)))

end CopyWaits

end Sys2Proof.Machine

namespace Sys2Proof.Settled

open Sys2Proof Sys2Proof.Machine Sys2Proof.Safety

/-- Settles O10: a token is taken at fire where one is pending; every other wait is met at fire where its test succeeds. -/
theorem waits : Obligations.Waits := by
  unfold Obligations.Waits
  constructor
  · intro s f k t u n
    refine ⟨fun h => ?tokwMet, fun h => ?tokwUnmet, fun h hld => ?loopbMet, fun h hld => ?loopbLoads, fun h => ?loopbUnmet⟩
    case tokwMet => exact fires_entry (i := .tokw f) rfl rfl (State.tokWait_met s _ _ _ h)
    case tokwUnmet => exact fires_entry (i := .tokw f) rfl rfl (State.tokWait_unmet s _ _ _ h)
    case loopbMet =>
      refine fires_entry (i := .loopb k) rfl rfl ((State.tokWait_met s _ _ _ h).trans ?_)
      rw [if_neg (by rw [hld]; decide)]
      rfl
    case loopbLoads =>
      refine fires_entry (i := .loopb k) rfl rfl ((State.tokWait_met s _ _ _ h).trans ?_)
      rw [if_pos hld]
      rfl
    case loopbUnmet => exact fires_entry (i := .loopb k) rfl rfl (State.tokWait_unmet s _ _ _ h)
  · intro s f cls idx side
    refine ⟨fun hc => ?words, fun hc => ?room, fun hc => ?reads, fun hc => ?beats, opensWait_latch, fun v rest hcut => fires_latch hcut, fires_cpyw,
      opensWait_cpyw, ?barw, ?keyw, ?drain⟩
    case words => exact waitsIf_waitw hc bne_iff_ne
    case room => exact waitsIf_waitw hc Iff.rfl
    case reads => exact waitsIf_waitw hc (by simp [waitHolds, idx])
    case beats => exact waitsIf_waitw hc bne_iff_ne
    case barw => exact waitsIf_of_test (fires_entry (i := .barw f) rfl rfl rfl) decide_eq_true_iff
    case keyw => exact waitsIf_of_test (fires_entry (i := .keyw f) rfl rfl rfl) (s.neighbourGone_iff side)
    case drain => exact waitsIf_of_test (fires_entry (i := .drain f) rfl rfl rfl) (Region.drained_iff ..)

end Sys2Proof.Settled
end

section
/-! PROOFS. O15: RMW, CMO, RETN, UNPIN, ROWREL, TRAP, PMCF, PMWR, HALT, CPY and CPYT. -/

namespace Sys2Proof.Machine

open Sys2Proof Sys2Proof.Safety

/-! ## RMW (R174, R357) -/

section Rmw

variable {s : State} {f : FM} {va c a g : Nat}

/-- RMW with its access allowed, CAS's compared word readable, and its return place writable where it returns. -/
theorem fires_rmw (hacc : StreamAccess s f.strm.toNat 4 va true)
    (hcas : f.mode = 7#4 → LocalReadable s (alignDown (bitsOf f.off 17 0) 4) 0 4 c)
    (hret : bitAt f.off 20 = true → LocalWritable s (alignDown (bitsOf f.off 17 0) 4) 0 4 a g) :
    let sn := f.strm.toNat
    let acq := s.nowE.acqNext.find sn
    Fires (.rmw f) s [f.d.toNat] [] (fun t =>
      let id := t.fresh.1
      let act : Act := .rmw va f.mode.toNat (s.src f.d.toNat) (if f.mode = 7#4 then localWord s c 4 else 0#32)
        (if bitAt f.off 20 then some a else none) (s.stream sn).hint id acq
      ((((t.fresh.2.walkStore va 4).asRelease sn (fun u => u.stage sn act)).cmpBytes va 4).advance sn 4 (bitAt f.off 19)).modE
        (fun e =>
          let e := if f.mode = 7#4 then e.markRead c 4 else e
          if acq.isSome then
            { (e.addOrder { held := accessStreams, named := [], ids := [id], at_ := 0, rnd := s.rg.rnd } s.cycle).holdEpoch
                accessStreams (e.epochAfter (2 ^ sn) false) with acqNext := e.acqNext.del sn }
          else e)) := by
  obtain ⟨hat, hchk⟩ := hacc
  refine fires_entry (i := .rmw f) rfl ?check ?effect
  case check =>
    refine Chk.and_eq_ok.2 ⟨Chk.and_eq_ok.2 ⟨?cas, ?ret⟩, by simp only [hat, hchk, Chk.ok_and]⟩
    case cas =>
      split
      next hc =>
        obtain ⟨hread, hpoison⟩ := hcas hc
        rw [hread, hpoison, Chk.ok_and]
      next => rfl
    case ret =>
      split
      next hr =>
        have hwrite : s.localWrite _ _ _ = (.ok, a, g) := hret hr
        rw [hwrite]
      next => rfl
  case effect =>
    have hc : f.mode = 7#4 → (s.localRead (alignDown (bitsOf f.off 17 0) 4) 0 4).2 = c := fun h => by rw [(hcas h).1]
    have ha : bitAt f.off 20 = true → (s.localWrite (alignDown (bitsOf f.off 17 0) 4) 0 4).2.1 = a := fun h => by
      rw [show s.localWrite _ _ _ = (.ok, a, g) from hret h]
    have hword : (if f.mode = 7#4 then localWord s (s.localRead (alignDown (bitsOf f.off 17 0) 4) 0 4).2 4 else 0#32) =
        if f.mode = 7#4 then localWord s c 4 else 0#32 := ite_congr rfl (fun h => by rw [hc h]) fun _ => rfl
    have hplace : (if bitAt f.off 20 then some (s.localWrite (alignDown (bitsOf f.off 17 0) 4) 0 4).2.1 else none) =
        if bitAt f.off 20 then some a else none := ite_congr rfl (fun h => by rw [ha h]) fun _ => rfl
    have hmark : ∀ e : Elem, (if f.mode = 7#4 then e.markRead (s.localRead (alignDown (bitsOf f.off 17 0) 4) 0 4).2 4 else e) =
        if f.mode = 7#4 then e.markRead c 4 else e := fun e => ite_congr rfl (fun h => by rw [hc h]) fun _ => rfl
    simp only [localWord] at hword
    simp only [hat, hword, hplace, hmark]
    rfl

end Rmw

/-! ## Entries that take their place in the commit buffer (R413, R415) -/

section Placed

variable {s : State} {f : FK}

/-- TRAP's event carries the low bits of a register, or the number in its fields. -/
theorem fires_trap : Fires (.trap f) s (if bitAt f.param 16 then [f.a.toNat] else []) [] (fun t =>
    t.stageAt 10 t.oldSpan.periods (.event 0 (BitVec.ofNat 32
      (if bitAt f.param 16 then (s.src f.a.toNat).toNat % 2 ^ 31 else bitsOf f.param 15 0)) s.focus.stamp)) := by
  refine fires_entry (i := .trap f) rfl rfl ?_
  have hlow : s.src f.a.toNat &&& 0x7FFFFFFF#32 = BitVec.ofNat 32 ((s.src f.a.toNat).toNat % 2 ^ 31) := by
    apply BitVec.eq_of_toNat_eq
    rw [BitVec.toNat_and, show (0x7FFFFFFF#32).toNat = 2 ^ 31 - 1 from rfl, Nat.and_two_pow_sub_one_eq_mod, BitVec.toNat_ofNat]
    omega
  rw [hlow]
  split <;> rfl

theorem toNat_bitAt {w : Nat} (x : BitVec w) (k : Nat) : (bitAt x k).toNat = bitsOf x k k := by
  rw [bitAt, BitVec.getLsbD, Nat.testBit_eq_decide_div_mod_eq, bitsOf, Nat.shiftRight_eq_div_pow, Nat.add_sub_cancel_left, pow_one]
  have := Nat.mod_two_eq_zero_or_one (x.toNat / 2 ^ k)
  rcases this with h | h <;> simp [h]

/-- PMCF's word is made of its fields, or is a register without its reserved bits. -/
theorem pmcfWord_eq (f : FK) (a : Word) : pmcfWord f a = if bitAt f.param 2 then
    BitVec.ofNat 32 (2 ^ 31 + bitsOf f.param 3 3 * 2 ^ 30 + bitsOf f.param 11 4) else a &&& 0xFFC000FF#32 := by
  rw [pmcfWord, ← toNat_bitAt]
  cases bitAt f.param 3 <;> rfl

theorem fires_pmcf : Fires (.pmcf f) s (if bitAt f.param 2 then [] else [f.a.toNat]) [] (fun t =>
    t.stage 10 (.pmcf (bitsOf f.param 1 0) (pmcfWord f (s.src f.a.toNat)))) :=
  fires_entry (i := .pmcf f) rfl rfl rfl

end Placed

/-! ## CPY and CPYT (R349 to R352) -/

section Copies

variable {s : State} {f : FK} {a len : Nat} {src dst : CopySide} {tagged : Bool}

theorem exec_copy (s : State) (f : FK) (tagged : Bool) : exec (if tagged then .cpyt f else .cpy f) s = go (s.startCopy f tagged) := by
  cases tagged <;> rfl

/-- A copy of a well-formed descriptor starts in a slot that the last copy has left, with nothing moved. -/
theorem fires_copy (hread : LocalReadable s (alignDown (s.src f.a.toNat).toNat 32) 0 32 a)
    (hdesc : s.copyDesc (s.sramOld a 32) tagged = some (src, dst, len)) (hsrc : s.copySideChk src len = .ok)
    (hdst : s.copySideChk dst len = .ok) (hleft : ∀ c ∈ s.oldE.copies, c.id = bitsOf f.param 3 0 → c.done = true)
    (hroom : s.pageCmds < 1024) :
    let cid := bitsOf f.param 3 0
    let d := s.sramOld a 32
    Fires (if tagged then .cpyt f else .cpy f) s [f.a.toNat] [] (fun t =>
      t.lat.2.modE (fun e => { e.markRead a 32 with copies := e.copies.filter (fun q => q.id != cid) ++
        [{ id := cid, src := src.va, dst := dst.va, srcLocal := src.here, dstLocal := dst.here, len := len, prog := 0
           tag := if tagged then some (BitVec.ofNat 8 (leAt d 21 1)) else none, hint := leAt d 22 1, want := s.copyWant src
           piece := [], bad := [], done := false
           due := s.cycle + t.lat.1, stamp := s.focus.stamp, sched := s.focus.sched }] })) := by
  obtain ⟨hlocal, hpoison⟩ := hread
  have h := exec_copy s f tagged
  unfold State.startCopy at h
  simp only [hlocal, hdesc] at h
  refine fires_entry h ?_ rfl
  simp only [hsrc, hdst, hpoison, (Elem.copyBusy_eq_false_iff _ _).2 hleft, State.pageRoom_ok hroom, Chk.ok_and,
    Bool.false_eq_true, if_false]

end Copies

end Sys2Proof.Machine

namespace Sys2Proof.Settled

open Sys2Proof Sys2Proof.Machine Sys2Proof.Safety

/-- Settles O15, entry by entry: each completes as its own equation says, once its checks are in order. -/
theorem committedEntries : Obligations.CommittedEntries := by
  unfold Obligations.CommittedEntries
  refine ⟨fun s f va c a g => ?rmw, ?placed, fun s f a len src dst tagged => ?copies⟩
  case rmw => exact fires_rmw
  case placed =>
    intro s f a range st placed
    refine ⟨fires_entry (i := .cmo f) rfl rfl rfl, fires_entry (i := .retn f) rfl rfl rfl, fires_entry (i := .unpin f) rfl rfl rfl,
      fires_entry (i := .rowrel f) rfl rfl rfl, fun h => ?trapReg, fun h => ?trapField, fun h => ?pmcfField, fun h => ?pmcfReg,
      fires_entry (i := .pmwr f) rfl rfl rfl, fires_entry (i := .halt) rfl rfl rfl⟩
    case trapReg =>
      have hf := fires_trap (s := s) (f := f)
      simp only [h, if_true] at hf
      exact hf
    case trapField =>
      have hf := fires_trap (s := s) (f := f)
      simp only [h, Bool.false_eq_true, if_false] at hf
      exact hf
    case pmcfField =>
      have hf := fires_pmcf (s := s) (f := f)
      simp only [pmcfWord_eq, h, if_true] at hf
      exact hf
    case pmcfReg =>
      have hf := fires_pmcf (s := s) (f := f)
      simp only [pmcfWord_eq, h, Bool.false_eq_true, if_false] at hf
      exact hf
  case copies => exact fires_copy

end Sys2Proof.Settled
end

section
/-! PROOFS. O17: BARA, BART, KEYS and HANDL. -/

namespace Sys2Proof.Machine

open Sys2Proof Sys2Proof.Safety

/-! ## Changes to the running fabric that agree on it -/

theorem Tbl.modify_congr {α : Type} {t : Tbl α} {k : Nat} {f g : α → α} (h : ∀ v, t.find k = some v → f v = g v) :
    t.modify k f = t.modify k g := by
  induction t with
  | nil => rfl
  | cons p t ih =>
    obtain ⟨a, b⟩ := p
    by_cases ha : a = k
    · simp [Tbl.modify, ha, h b (by simp [Tbl.find, ha])]
    · simp [Tbl.modify, ha, ih fun v hv => h v (by simpa [Tbl.find, ha] using hv)]

/-- Two changes to the running fabric that give the same are one change. -/
theorem State.modNow_congr {s : State} {f g : Fabric → Fabric} (h : f s.rg.now = g s.rg.now) : s.modNow f = s.modNow g := by
  have hmod : s.regions.modify s.focus.r (fun r => { r with now := f r.now }) =
      s.regions.modify s.focus.r (fun r => { r with now := g r.now }) := by
    refine Tbl.modify_congr fun v hv => ?_
    rw [State.rg, State.reg, Tbl.get_eq_find, hv, Option.getD_some] at h
    rw [h]
  simp only [State.modNow, State.modR, State.modReg, hmod]

theorem State.modNow_eq_self {s : State} {f : Fabric → Fabric} (h : f s.rg.now = s.rg.now) : s.modNow f = s :=
  (State.modNow_congr (g := fun fb => fb) h).trans s.modR_id

/-! ## Barriers (R366, R367) -/

section BarrierEntries

variable {s : State} {f : FK}

/-- BARA with fewer than two phases outstanding enters the next, and its arrival is on its way. -/
theorem fires_bara :
    let b := bitsOf f.param 3 0
    let key := barKey (bitsOf f.param 5 4) s.focus.sg s.spanNo b
    let pha := s.oldE.pha.get 0 b
    pha ≠ (s.rg.old.bars.get Barrier.zero key).done + 2 → Fires (.bara f) s [] [] (fun t =>
      (t.modE (fun e => { e with pha := e.pha.set b (pha + 1) })).modNow (fun fb =>
        fb.modBar key (fun k => { k with coming := k.coming ++ [(pha + 1, s.cycle + s.rg.barDelay (bitsOf f.param 5 4))] }))) :=
  fun h => fires_entry (i := .bara f) rfl (if_neg h) rfl

/-- BARA with two phases outstanding freezes its span. -/
theorem exec_bara_stalls (h : s.oldE.pha.get 0 (bitsOf f.param 3 0) =
      (s.rg.old.bars.get Barrier.zero (barKey (bitsOf f.param 5 4) s.focus.sg s.spanNo (bitsOf f.param 3 0))).done + 2) :
    exec (.bara f) s = .next s.stall := by
  change go (s.entry [] [] (if _ then .stall else .ok) _) = _
  rw [if_pos h, State.entry_stalls, go]

end BarrierEntries

/-! ## The keystone (R118, R368) -/

/-- The cycle at whose end a keystone sent now arrives: behind every token on its page. -/
def State.keyDue (s : State) : Nat :=
  Nat.max (s.cycle + 4) (maxNat ((s.rg.now.toks.filter (fun k => k.sg == s.focus.sg)).map (·.due)))

theorem State.due_le_keyDue {s : State} {k : Tok} (hk : k ∈ s.rg.now.toks) (hsg : k.sg = s.focus.sg) : k.due ≤ s.keyDue :=
  (le_maxNat (List.mem_map_of_mem (List.mem_filter.2 ⟨hk, by simpa using hsg⟩))).trans (Nat.le_max_right _ _)

section Keystones

variable {s : State}

/-- In the keystone element the first KEYS sends the keystone. -/
theorem fires_keys_first (hx : s.focus.x = s.sig.decl.kx) (hy : s.focus.y = s.sig.decl.ky)
    (h : s.rg.now.keyFired.any (fun k => k.1 == s.focus.sg) = false) :
    Fires .keys s [] [] (fun t => t.modNow (fun fb => { fb with keyFired := fb.keyFired ++ [(s.focus.sg, s.keyDue)] })) := by
  refine fires_entry (i := .keys) rfl rfl (State.modNow_congr ?_)
  simp only [State.consume_nil, h, hx, hy, beq_self_eq_true, Bool.and_self, Bool.not_true, Bool.or_self, Bool.false_eq_true, if_false]
  rfl

/-- A second KEYS of a page changes nothing. -/
theorem fires_keys_again (h : s.rg.now.keyFired.any (fun k => k.1 == s.focus.sg) = true) : Fires .keys s [] [] (fun t => t) := by
  refine fires_entry (i := .keys) rfl rfl (State.modNow_eq_self ?_)
  simp only [State.consume_nil, h, Bool.true_or, if_true]

end Keystones

end Sys2Proof.Machine

namespace Sys2Proof.Settled

open Sys2Proof Sys2Proof.Machine Sys2Proof.Safety

/-- Settles O17: BARA's check is of the phases outstanding, and KEYS looks at what its page has sent (`State.keyDue`). -/
theorem barriersAndKeystone : Obligations.BarriersAndKeystone := by
  unfold Obligations.BarriersAndKeystone
  constructor
  · intro s f b level key pha done delay
    refine ⟨fires_bara, exec_bara_stalls, ?bart⟩
    case bart => exact lands_compute (i := .bart f) rfl rfl
  · intro s f sent word
    refine ⟨fun hx hy _ hsent => ?first, fun _ => fires_keys_again, fires_entry (i := .handl f) rfl rfl rfl⟩
    case first => exact ⟨s.keyDue, Nat.le_max_left _ _, fun k hk hsg => State.due_le_keyDue hk hsg, fires_keys_first hx hy hsent⟩

end Sys2Proof.Settled
end

section
/-! PROOFS. O11: LDL, STL, FPUSH, FPOP, LBSH, LBRD, STAG and BUFSW. -/

namespace Sys2Proof.Machine

open Sys2Proof Sys2Proof.Safety

/-! ## LDL and STL (R132, R133, R341) -/

section LocalAccesses

variable {s : State} {f : FM} {a g : Nat}

theorem fires_ldl (h : LocalReadable s (s.localOff f) 0 (localSize f.mode) a) :
    Fires (.ldl f) s (localSrcs f false) [f.d.toNat] (fun t =>
      (t.put f.d.toNat (localWord s a (localSize f.mode))).modE (fun e => e.markRead a (localSize f.mode))) := by
  obtain ⟨hread, hpoison⟩ := h
  refine fires_entry (i := .ldl f) rfl ?_ ?_
  · simp only [hread, hpoison, Chk.ok_and]
  · simp only [hread]
    rfl

theorem fires_stl (h : LocalWritable s (s.localOff f) 0 (localSize f.mode) a g) :
    Fires (.stl f) s (localSrcs f true) [] (fun t =>
      t.modE (fun e => e.writeSram a (leBytes (localSize f.mode) (s.src f.d.toNat).toNat) (.loc (s.grp g).e))) := by
  have hwrite : s.localWrite (s.localOff f) 0 (localSize f.mode) = (.ok, a, g) := h
  refine fires_entry (i := .stl f) rfl ?_ ?_
  · simp only [hwrite]
  · simp only [hwrite]

end LocalAccesses

/-! ## FIFOs and line buffers (R30, R129, R130, R348) -/

/-- Nothing wakes in a range that is awake. -/
theorem not_asleep {s : State} {a n : Nat} (h : Awake s a n) : (banksOf a n).any (fun b => s.oldE.waking.contains b) = false := by
  simpa [Awake] using h

section Groups

variable {s : State} {f : FM} {d : GroupDecl} (hd : s.group f.mode.toNat = some d) (hi : d.i = f.mode.toNat)
include hd

theorem State.fifoWake_ok (hw : Awake s d.base d.bytes) : s.fifoWake f.mode.toNat = .ok := by
  simp only [State.fifoWake, hd, Elem.asleep, not_asleep hw, Bool.false_eq_true, if_false]

include hi

/-- FPUSH with room in its FIFO appends its word, in the banks too. -/
theorem fires_fpush (hroom : (s.grp f.mode.toNat).q.length + (s.grp f.mode.toNat).promised + 1 ≤ d.n) (hw : Awake s d.base d.bytes) :
    Fires (.fpush f) s [f.d.toNat] [] (fun t => t.modE (fun e =>
      let k := e.grps.get Grp.zero f.mode.toNat
      (e.writeRaw (d.base + 4 * ((k.head + k.q.length) % d.n)) (leBytes 4 (s.src f.d.toNat).toNat)).modGrp f.mode.toNat (fun g =>
        { g with q := g.q ++ [s.src f.d.toNat] }))) := by
  refine fires_entry (i := .fpush f) rfl ?_ ?_
  · simp only [State.fifoRoom, hd, Option.map_some, Option.getD_some, if_pos hroom, State.fifoWake_ok hd hw]
  · simp only [hd, Elem.fifoPush, GroupDecl.fifoAddr, hi]

/-- FPOP with a word in its FIFO takes the one at its head. -/
theorem fires_fpop {v : Word} {rest : List Word} (hq : (s.grp f.mode.toNat).q = v :: rest) (hw : Awake s d.base d.bytes)
    (hp : s.poisonChk (d.base + 4 * (((s.grp f.mode.toNat).head + 0) % d.n)) 4 = .ok) :
    Fires (.fpop f) s [] [f.d.toNat] (fun t =>
      (t.put f.d.toNat v).modE (fun e => e.modGrp f.mode.toNat (fun g => { g with q := g.q.drop 1, head := (g.head + 1) % d.n }))) := by
  have h : exec (.fpop f) s = execFpop f s := rfl
  simp only [execFpop, hd, hi] at h
  refine fires_entry h ?_ ?_
  · rw [State.fifoWake_ok hd hw, Chk.ok_and, if_neg (by rw [hq]; exact List.cons_ne_nil _ _)]
    exact hp
  · simp only [hq, List.head?_cons, Option.getD_some, Elem.fifoPop, hi]

/-- LBSH enters its word at the column of the line in filling, and goes on to the next. -/
theorem fires_lbsh (hw : Awake s (d.base + ((s.grp f.mode.toNat).hl * d.wd + (s.grp f.mode.toNat).col) * 4) 4) :
    Fires (.lbsh f) s [f.d.toNat] [] (fun t => t.modE (fun e =>
      (e.writeRaw (d.base + ((s.grp f.mode.toNat).hl * d.wd + (s.grp f.mode.toNat).col) * 4)
        (leBytes 4 (s.src f.d.toNat).toNat)).modGrp f.mode.toNat (fun k =>
          if k.col + 1 = d.wd then { k with col := 0, hl := (k.hl + 1) % d.n } else { k with col := k.col + 1 }))) := by
  have h : exec (.lbsh f) s = execLbsh f s := rfl
  simp only [execLbsh, hd, hi, GroupDecl.lineAddr, not_asleep hw] at h
  exact fires_entry h rfl rfl

/-- LBRD lands the word at its line and column, taken modulo the size of the buffer. -/
theorem lands_lbrd {a : Nat} (ha : a = d.lineAddr (((((s.grp f.mode.toNat).hl : Int) - 1 - (s.lbrdAt f).1) % (d.n : Int)).toNat)
      ((s.lbrdAt f).2 % d.wd)) (hw : Awake s a 4) (hp : s.poisonChk a 4 = .ok) :
    Lands (.lbrd f) s (if bitAt f.off 20 || bitAt f.off 19 then [bitsOf f.off 18 15] else []) f.d.toNat (localWord s a 4) := by
  have h : exec (.lbrd f) s = execLbrd f s := rfl
  simp only [execLbrd, hd, hi, ← ha, not_asleep hw, Bool.false_eq_true, if_false, Chk.ok_and] at h
  exact fires_entry h hp rfl

omit hi in
/-- BUFSW makes the next buffer current, and the expected tag advances. -/
theorem fires_bufsw : Fires (.bufsw f) s [] [] (fun t =>
    t.modE (fun e => e.modGrp f.mode.toNat (fun g => { g with cur := (g.cur + 1) % d.n, e := g.e + 1#8 }))) := by
  refine fires_entry (i := .bufsw f) rfl rfl ?_
  simp only [hd, Option.map_some, Option.getD_some]

end Groups

end Sys2Proof.Machine
namespace Sys2Proof.Settled

open Sys2Proof Sys2Proof.Machine Sys2Proof.Safety

/-- Settles O11, entry by entry: each completes as its own equation says, in the group that it names. -/
theorem localMemory : Obligations.LocalMemory := by
  unfold Obligations.LocalMemory
  constructor
  · intro s f a g n idx off
    exact ⟨fires_ldl, fires_stl⟩
  · intro s f d i hd hi
    refine ⟨fires_fpush hd hi, fun v rest => fires_fpop hd hi, fires_lbsh hd hi, lands_lbrd hd hi rfl, ?stag, fires_bufsw hd⟩
    case stag =>
      refine fires_entry (i := .stag f) rfl rfl ?_
      rw [extractLsb'_zero_eq]

end Sys2Proof.Settled
end

section
/-! PROOFS. O18: FADD, FSUB, FMUL, FMIN, FMAX, FABS, FNEG, FRND, FSCL and FCLS. -/

namespace Sys2Proof.Machine

open Sys2Proof Sys2Proof.Safety

/-! ## Entries on float lanes (R370) -/

section FloatEntries

variable {i : Instr} {s : State} {f : FT} {g : Nat → Nat}

/-- How a two-source entry that gives the codes of its lanes completes. -/
theorem laneF2_of_lanesF {v : Word → Word → Word} (h : exec i s = go (s.alu2 f v)) (hv : v (opA s f) (opB s f) = lanesF f.ty.toNat g) :
    LaneF2 i f s g :=
  ⟨_, lands_alu2 h hv, laneWise_lanesF _ _⟩

/-- How a one-source entry that gives the codes of its lanes completes. -/
theorem laneF1_of_lanesF {v : Word → Word} (h : exec i s = go (s.alu1 f v)) (hv : v (opA s f) = lanesF f.ty.toNat g) : LaneF1 i f s g :=
  ⟨_, lands_alu1 h hv, laneWise_lanesF _ _⟩

end FloatEntries

end Sys2Proof.Machine

namespace Sys2Proof.Settled

open Sys2Proof Sys2Proof.Machine Sys2Proof.Safety

/-- Settles O18, entry by entry: each gives the codes of its lanes, rounded once or picked. -/
theorem floatLanes : Obligations.FloatLanes := by
  unfold Obligations.FloatLanes
  intro s f fm mode x y
  refine ⟨?fadd, ?fsub, ?fmul, ?fmin, ?fmax, ?fabs, ?fneg, ?frnd, ?fscl, ?fcls⟩
  case fadd => exact laneF2_of_lanesF (i := .fadd f) rfl rfl
  case fsub => exact laneF2_of_lanesF (i := .fsub f) rfl rfl
  case fmul => exact laneF2_of_lanesF (i := .fmul f) rfl rfl
  case fmin => exact laneF2_of_lanesF (i := .fmin f) rfl rfl
  case fmax => exact laneF2_of_lanesF (i := .fmax f) rfl rfl
  case fabs => exact laneF1_of_lanesF (i := .fabs f) rfl rfl
  case fneg => exact laneF1_of_lanesF (i := .fneg f) rfl rfl
  case frnd => exact laneF1_of_lanesF (i := .frnd f) rfl rfl
  case fscl => exact laneF2_of_lanesF (i := .fscl f) rfl rfl
  case fcls => exact laneF1_of_lanesF (i := .fcls f) rfl rfl

end Sys2Proof.Settled
end

section
/-! PROOFS. O20: CVT, CVTI, CVTF, BSC, BFLY, QNT, DQNT, HDRW, HDRR and RED. -/

namespace Sys2Proof.Machine

open Sys2Proof Sys2Proof.Safety

/-! ## Conversions (R381) -/

/-- A conversion fills the lanes that both types have from LO on, and leaves the rest 0. -/
theorem lane_cvtLanes (ty dt lo : Nat) (g : Nat → Nat) (a : Word) {k : Nat} (hk : k < 32 / tyWidth dt) :
    lane (cvtLanes ty dt lo g a) (tyWidth dt) k =
      if k < Min.min (32 / tyWidth ty - lo) (32 / tyWidth dt) then g (lane a (tyWidth ty) (lo + k)) % 2 ^ tyWidth dt else 0 := by
  have hn : k < Nat.min (32 / tyWidth ty - lo) (32 / tyWidth dt) ↔ k < Min.min (32 / tyWidth ty - lo) (32 / tyWidth dt) := Iff.rfl
  rw [cvtLanes, lanesF, lane_ofLanes (tyWidth_cases dt) _ hk, nN, ← Int.natCast_mod, Int.toNat_natCast]
  simp only [hn]
  split_ifs
  · rfl
  · exact Nat.zero_mod _

/-- How a conversion completes. -/
theorem lands_cvt {i : Instr} {s : State} {f : FT} {g g' : Nat → Nat}
    (h : exec i s = go (s.alu1 f (cvtLanes f.ty.toNat (cvtDt f) (cvtLo f) g))) (hg : ∀ c, g c = g' c) :
    ∃ v, Lands i s [f.a.toNat] f.d.toNat v ∧ ∀ k, k < 32 / tyWidth (cvtDt f) → lane v (tyWidth (cvtDt f)) k =
      if k < Min.min (32 / tyWidth f.ty.toNat - cvtLo f) (32 / tyWidth (cvtDt f)) then
        g' (xn s f (cvtLo f + k)) % 2 ^ tyWidth (cvtDt f) else 0 :=
  ⟨_, lands_alu1 h rfl, fun _ hk => funext hg ▸ lane_cvtLanes _ _ _ g _ hk⟩

/-- A float as an integer lane: NaN gives 0, an infinity the nearest end of the range, and the rest is rounded into the range. -/
theorem cvtiCode_eq (dt mode : Nat) (x : FV) : cvtiCode dt mode x = match x with
    | .nan => 0
    | .inf neg => (nN (tyWidth dt) (clamp dt (if neg then -(2 ^ 40) else 2 ^ 40))).toNat
    | v => (nN (tyWidth dt) (clamp dt (roundToInt mode v))).toNat := by
  cases x with
  | nan => rfl
  | inf neg => exact congrArg (fun v => (nN (tyWidth dt) v).toNat) (satTy_eq_clamp dt _)
  | fin neg m e => exact congrArg (fun v => (nN (tyWidth dt) v).toNat) (satTy_eq_clamp dt _)

/-! ## The block buffer (R382, R383) -/

section BlockEntries

variable {s : State} {f : FT}

theorem fires_bsc_write (h : f.sub = 0#4) : Fires (.bsc f) s [f.a.toNat, f.b.toNat] [] (fun u =>
    u.modE (fun e => { e with cvb := e.cvb.set ((opB s f).toNat % 128) (opA s f) })) := by
  have he : exec (.bsc f) s = execBsc f s := rfl
  simp only [execBsc, h] at he
  exact fires_entry he rfl rfl

theorem lands_bsc_read (h : f.sub = 1#4) :
    Lands (.bsc f) s [f.a.toNat] f.d.toNat (s.oldE.cvb.get 0#32 ((opA s f).toNat % 128)) := by
  have he : exec (.bsc f) s = execBsc f s := rfl
  simp only [execBsc, h] at he
  exact lands_compute he rfl

theorem fires_bsc_scale (h : f.sub = 2#4) :
    let made := bscStep s.decl.cfmt (s.oldE.block (convLen s.decl.cfmt)) (opA s f)
    Fires (.bsc f) s [f.a.toNat] [f.d.toNat] (fun u =>
      (u.modE (fun e => { e.setBlock made.1 with oh := made.2 })).put f.d.toNat made.2) := by
  have he : exec (.bsc f) s = execBsc f s := rfl
  simp only [execBsc, h] at he
  exact fires_entry he rfl rfl

end BlockEntries

/-! ## DQNT and RED (R358, R386) -/

/-- DQNT under a header of the right format restores a value, and latches a header that a link has brought. -/
theorem fires_dqnt {s : State} {f : FF} (hfmt : bitsOf (opB3 s f) 10 8 = cfCvf s.decl.cfmt) (hlen : bitsOf (opB3 s f) 15 12 ≤ 3) :
    Fires (.dqnt f) s [f.a.toNat, f.b.toNat, f.c.toNat] [f.d.toNat] (fun u =>
      let v := u.put f.d.toNat (dqntVal s.decl.cfmt (opA3 s f) (opB3 s f) (opC3 s f))
      if 64 ≤ f.b.toNat ∧ f.b.toNat < 68 then v.modE (fun e => { e with hdr := s.src f.b.toNat }) else v) := by
  refine fires_entry (i := .dqnt f) rfl (if_neg (not_or.2 ⟨not_not.2 hfmt, Nat.not_lt.2 hlen⟩)) ?_
  simp only [isLinkIn, ← Bool.decide_and, decide_eq_true_eq]
  rfl

/-- RED combines its operands in order. -/
theorem lands_red {s : State} {f : FM} {c : Nat} {cs : List Nat} (h : redCodes f = c :: cs) :
    Lands (.red f) s (redCodes f) f.d.toNat ((cs.map s.src).foldl (redOp f.mode.toNat) (s.src c)) := by
  refine lands_compute (i := .red f) rfl ?_
  rw [h]
  rfl

end Sys2Proof.Machine

namespace Sys2Proof.Settled

open Sys2Proof Sys2Proof.Machine Sys2Proof.Safety

/-- Settles O20, entry by entry: the conversions fill their lanes (`lane_cvtLanes`), and the converter's entries complete as their equations
say. -/
theorem conversionsAndBlocks : Obligations.ConversionsAndBlocks := by
  unfold Obligations.ConversionsAndBlocks
  constructor
  · intro s f ty dt lo mode n c conv
    refine ⟨?cvt, ?cvti, ?cvtf⟩
    case cvt => exact lands_cvt (i := .cvt f) rfl fun _ => rfl
    case cvti => exact lands_cvt (i := .cvti f) rfl fun _ => cvtiCode_eq _ _ _
    case cvtf => exact lands_cvt (i := .cvtf f) rfl fun _ => rfl
  · intro s t f m cf a block made h codes
    refine ⟨fires_bsc_write, lands_bsc_read, fires_bsc_scale, fires_entry (i := .bfly t) rfl rfl rfl, lands3_alu3 (i := .qnt f) rfl rfl,
      fires_dqnt, fires_entry (i := .hdrw t) rfl rfl rfl, lands_alu1 (i := .hdrr t) rfl rfl, fun c cs hcodes => ?red⟩
    case red => exact lands_red hcodes

end Sys2Proof.Settled
end

section
/-! PROOFS. O21: MCLM and MREL. -/

namespace Sys2Proof.Machine

open Sys2Proof Sys2Proof.Safety

/-! ## Bytes beside a write, and a run read back -/

/-- A byte beside the one that is written reads as before, whatever the form of the memory. -/
theorem Memory.read_write_of_ne (m : Memory) {a x : Nat} (b : Byte) (h : x ≠ a) : (m.write a b).read x = m.read x := by
  induction m with
  | nil =>
    simp only [Memory.write]
    split
    · rfl
    · simp [Memory.read, h.symm]
  | cons c t ih =>
    obtain ⟨k, v⟩ := c
    simp only [Memory.write]
    split_ifs with hlt hz heq
    · rfl
    · simp [Memory.read, h.symm]
    · subst heq
      simp [Memory.read, h.symm]
    · subst heq
      simp [Memory.read, h.symm]
    · simp [Memory.read, ih]

theorem Memory.read_writeN_of_notMem (m : Memory) {a x : Nat} {l : List Byte} (h : x < a ∨ a + l.length ≤ x) :
    (m.writeN a l).read x = m.read x := by
  induction l generalizing m a with
  | nil => rfl
  | cons b t ih =>
    rw [List.length_cons] at h
    rw [Memory.writeN, ih _ (by omega), Memory.read_write_of_ne _ _ (by omega)]

theorem Memory.readN_congr {m m' : Memory} {a n : Nat} (h : ∀ i, i < n → m.read (a + i) = m'.read (a + i)) : m.readN a n = m'.readN a n := by
  induction n generalizing a with
  | zero => rfl
  | succ n ih =>
    rw [Memory.readN, Memory.readN, show m.read a = m'.read a from h 0 (Nat.zero_lt_succ n)]
    exact congrArg _ (ih fun i hi => by
      have := h (i + 1) (by omega)
      rwa [show a + 1 + i = a + (i + 1) by omega])

/-- A run beside a write reads as before. -/
theorem Memory.readN_writeN_of_disjoint (m : Memory) {a x n : Nat} {l : List Byte} (h : x + n ≤ a ∨ a + l.length ≤ x) :
    (m.writeN a l).readN x n = m.readN x n :=
  Memory.readN_congr fun i hi => m.read_writeN_of_notMem (by omega)

theorem Memory.getElem_readN (m : Memory) (a : Nat) {n i : Nat} (hi : i < (m.readN a n).length) : (m.readN a n)[i] = m.read (a + i) := by
  induction n generalizing a i with
  | zero => exact absurd hi (Nat.not_lt_zero i)
  | succ n ih =>
    cases i with
    | zero => rfl
    | succ i =>
      have hi' : i < (m.readN (a + 1) n).length := by simpa [Memory.readN] using hi
      change (m.readN (a + 1) n)[i] = _
      rw [ih (a + 1) hi', show a + 1 + i = a + (i + 1) by omega]

/-- A part of a run that has been written reads as that part. -/
theorem Memory.readN_writeN_part {m : Memory} (h : m.wf = true) (a : Nat) {l : List Byte} {k n : Nat} (hk : k + n ≤ l.length) :
    (m.writeN a l).readN (a + k) n = (l.drop k).take n := by
  refine List.ext_getElem (by simp; omega) fun i h1 h2 => ?_
  have hi : i < n := by simpa using h1
  rw [Memory.getElem_readN, Memory.read_writeN h, dif_pos (by omega), List.getElem_take, List.getElem_drop]
  simp only [show a + k + i - a = k + i by omega]

/-- A run that has been written reads back. -/
theorem Memory.readN_writeN_self {m : Memory} (h : m.wf = true) (a : Nat) (l : List Byte) : (m.writeN a l).readN a l.length = l := by
  simpa using Memory.readN_writeN_part h a (l := l) (k := 0) (n := l.length) (by omega)

/-! ## Poison marks outside a range (R253) -/

theorem Elem.mem_unpoison (e : Elem) (a n w : Nat) : w ∈ (e.unpoison a n).poison ↔ w ∈ e.poison ∧ (w < a ∨ a + n < w + 4) := by
  simp only [Elem.unpoison, List.mem_filter, Bool.not_eq_true', Bool.and_eq_false_iff, decide_eq_false_iff_not, Nat.not_le]

/-! ## Claims and releases (R391) -/

theorem mem_insertUniq (x y : Nat) (l : List Nat) : y ∈ insertUniq x l ↔ y = x ∨ y ∈ l := by
  induction l with
  | nil => simp [insertUniq]
  | cons z t ih =>
    unfold insertUniq
    split_ifs with heq
    · subst heq
      simp
    · simp
    · simp [ih, or_left_comm]

/-- A slot claimed, with zeros in it, where it is not claimed already. -/
def Elem.claimSlot (e : Elem) (i : Nat) : Elem :=
  if e.claimed.contains i then e
  else { e.unpoison (slotWord (512 * i)) 512 with claimed := insertUniq i e.claimed, slots := e.slots.writeN (512 * i) zeroSlot }

/-- A slot released. -/
def Elem.freeSlot (e : Elem) (i : Nat) : Elem :=
  if e.claimed.contains i then
    { e.unpoison (slotWord (512 * i)) 512 with claimed := e.claimed.filter (· != i), slots := e.slots.writeN (512 * i) zeroSlot }
  else e

/-- What claims and releases of the slots of a list leave: all but slots, claims and poison, and the poison marks outside those slots. -/
structure SlotsAlone (l : List Nat) (e e' : Elem) : Prop where
  rest : e' = { e with claimed := e'.claimed, slots := e'.slots, poison := e'.poison }
  fewer : ∀ w ∈ e'.poison, w ∈ e.poison
  kept : ∀ w ∈ e.poison, (∀ i ∈ l, w < slotWord (512 * i) ∨ slotWord (512 * i) + 512 < w + 4) → w ∈ e'.poison

section Slots

variable {e e' e'' : Elem} {l : List Nat} {i j : Nat}

theorem SlotsAlone.refl : SlotsAlone l e e := ⟨rfl, fun _ h => h, fun _ h _ => h⟩

theorem SlotsAlone.cons (h : SlotsAlone [i] e e') (h' : SlotsAlone l e' e'') : SlotsAlone (i :: l) e e'' := by
  refine ⟨?_, fun w hw => h.fewer w (h'.fewer w hw), fun w hw hout => h'.kept w (h.kept w hw ?_) ?_⟩
  · rw [h'.rest, h.rest]
  · exact fun k hk => hout k (List.mem_cons.2 (.inl (List.mem_singleton.1 hk)))
  · exact fun k hk => hout k (List.mem_cons_of_mem _ hk)

/-- A slot whose bytes and claim are as before holds what it held. -/
theorem Elem.slot_congr (hc : j ∈ e'.claimed ↔ j ∈ e.claimed) (hs : e'.slots.readN (512 * j) 512 = e.slots.readN (512 * j) 512) :
    e'.slot j = e.slot j := by
  simp only [Elem.slot, List.contains_eq_mem, hc, hs]

theorem length_zeroSlot : zeroSlot.length = 512 := List.length_replicate

/-- The zeros that are written into a slot lie beside every other slot. -/
theorem readN_zeroSlot_of_ne (m : Memory) (h : j ≠ i) :
    (m.writeN (512 * i) zeroSlot).readN (512 * j) 512 = m.readN (512 * j) 512 :=
  m.readN_writeN_of_disjoint (by rw [length_zeroSlot]; omega)

theorem Elem.claimSlot_of_mem (h : i ∈ e.claimed) : e.claimSlot i = e := if_pos (by simpa using h)

theorem Elem.claimSlot_of_notMem (h : i ∉ e.claimed) : e.claimSlot i =
    { e.unpoison (slotWord (512 * i)) 512 with claimed := insertUniq i e.claimed, slots := e.slots.writeN (512 * i) zeroSlot } :=
  if_neg (by simpa using h)

theorem Elem.slots_claimSlot (h : i ∉ e.claimed) : (e.claimSlot i).slots = e.slots.writeN (512 * i) zeroSlot := by
  rw [Elem.claimSlot_of_notMem h]

theorem Elem.freeSlot_of_mem (h : i ∈ e.claimed) : e.freeSlot i =
    { e.unpoison (slotWord (512 * i)) 512 with claimed := e.claimed.filter (· != i), slots := e.slots.writeN (512 * i) zeroSlot } :=
  if_pos (by simpa using h)

theorem Elem.slots_freeSlot (h : i ∈ e.claimed) : (e.freeSlot i).slots = e.slots.writeN (512 * i) zeroSlot := by
  rw [Elem.freeSlot_of_mem h]

theorem Elem.freeSlot_of_notMem (h : i ∉ e.claimed) : e.freeSlot i = e := if_neg (by simpa using h)

/-- A range of an element's poison removed with a slot of it. -/
theorem slotsAlone_unpoison (c : List Nat) (m : Memory) :
    SlotsAlone [i] e { e.unpoison (slotWord (512 * i)) 512 with claimed := c, slots := m } :=
  ⟨rfl, fun w hw => ((e.mem_unpoison _ _ w).1 hw).1, fun w hw hout => (e.mem_unpoison _ _ w).2 ⟨hw, hout i (List.mem_singleton_self i)⟩⟩

theorem Elem.claimSlot_alone (e : Elem) (i : Nat) : SlotsAlone [i] e (e.claimSlot i) := by
  by_cases h : i ∈ e.claimed
  · rw [Elem.claimSlot_of_mem h]
    exact .refl
  · rw [Elem.claimSlot_of_notMem h]
    exact slotsAlone_unpoison _ _

theorem Elem.freeSlot_alone (e : Elem) (i : Nat) : SlotsAlone [i] e (e.freeSlot i) := by
  by_cases h : i ∈ e.claimed
  · rw [Elem.freeSlot_of_mem h]
    exact slotsAlone_unpoison _ _
  · rw [Elem.freeSlot_of_notMem h]
    exact .refl

theorem Elem.mem_claimed_claimSlot (e : Elem) (i j : Nat) : j ∈ (e.claimSlot i).claimed ↔ j ∈ e.claimed ∨ j = i := by
  by_cases h : i ∈ e.claimed
  · rw [Elem.claimSlot_of_mem h, or_iff_left_of_imp]
    rintro rfl
    exact h
  · rw [Elem.claimSlot_of_notMem h]
    exact (mem_insertUniq i j _).trans or_comm

theorem Elem.mem_claimed_freeSlot (e : Elem) (i j : Nat) : j ∈ (e.freeSlot i).claimed ↔ j ∈ e.claimed ∧ j ≠ i := by
  by_cases h : i ∈ e.claimed
  · rw [Elem.freeSlot_of_mem h]
    simp
  · rw [Elem.freeSlot_of_notMem h, and_iff_left_of_imp]
    rintro hj rfl
    exact h hj

/-- A claim leaves the slots that are claimed already, and those that it does not name. -/
theorem Elem.slot_claimSlot (h : j ∈ e.claimed ∨ j ≠ i) : (e.claimSlot i).slot j = e.slot j := by
  by_cases hi : i ∈ e.claimed
  · rw [Elem.claimSlot_of_mem hi]
  · have hne : j ≠ i := h.elim (fun hj heq => hi (heq ▸ hj)) id
    refine Elem.slot_congr ((e.mem_claimed_claimSlot i j).trans (or_iff_left hne)) ?_
    rw [Elem.slots_claimSlot hi, readN_zeroSlot_of_ne _ hne]

/-- A release leaves the slots that are not claimed, and those that it does not name. -/
theorem Elem.slot_freeSlot (h : j ≠ i ∨ j ∉ e.claimed) : (e.freeSlot i).slot j = e.slot j := by
  by_cases hi : i ∈ e.claimed
  · have hne : j ≠ i := h.elim id (fun hj heq => hj (heq ▸ hi))
    refine Elem.slot_congr ((e.mem_claimed_freeSlot i j).trans (and_iff_left hne)) ?_
    rw [Elem.slots_freeSlot hi, readN_zeroSlot_of_ne _ hne]
  · rw [Elem.freeSlot_of_notMem hi]

theorem Elem.slots_wf_claimSlot (h : e.slots.wf = true) (i : Nat) : (e.claimSlot i).slots.wf = true := by
  by_cases hi : i ∈ e.claimed
  · rwa [Elem.claimSlot_of_mem hi]
  · rw [Elem.slots_claimSlot hi]
    exact Memory.wf_writeN _ _ h

/-- A slot that is claimed holds zeros. -/
theorem Elem.slot_claimSlot_self (h : e.slots.wf = true) (hi : i ∉ e.claimed) : (e.claimSlot i).slot i = zeroSlot := by
  have hin : i ∈ (e.claimSlot i).claimed := (e.mem_claimed_claimSlot i i).2 (.inr rfl)
  have hread := Memory.readN_writeN_self h (512 * i) zeroSlot
  rw [length_zeroSlot] at hread
  rw [Elem.slot, if_pos (by simpa using hin), Elem.slots_claimSlot hi, hread]

/-! ## Ranges of slots -/

theorem foldl_alone {step : Elem → Nat → Elem} (h : ∀ e i, SlotsAlone [i] e (step e i)) (l : List Nat) (e : Elem) :
    SlotsAlone l e (l.foldl step e) := by
  induction l generalizing e with
  | nil => exact .refl
  | cons i l ih => exact (h e i).cons (ih _)

theorem mem_claimed_foldl_claimSlot (l : List Nat) (e : Elem) (j : Nat) :
    j ∈ (l.foldl Elem.claimSlot e).claimed ↔ j ∈ e.claimed ∨ j ∈ l := by
  induction l generalizing e with
  | nil => simp
  | cons i l ih => rw [List.foldl_cons, ih, Elem.mem_claimed_claimSlot, List.mem_cons, or_assoc]

theorem mem_claimed_foldl_freeSlot (l : List Nat) (e : Elem) (j : Nat) :
    j ∈ (l.foldl Elem.freeSlot e).claimed ↔ j ∈ e.claimed ∧ j ∉ l := by
  induction l generalizing e with
  | nil => simp
  | cons i l ih => rw [List.foldl_cons, ih, Elem.mem_claimed_freeSlot, List.mem_cons, not_or, and_assoc]

theorem slot_foldl_claimSlot (l : List Nat) (e : Elem) {j : Nat} (h : j ∈ e.claimed ∨ j ∉ l) :
    (l.foldl Elem.claimSlot e).slot j = e.slot j := by
  induction l generalizing e with
  | nil => rfl
  | cons i l ih =>
    have hj : j ∈ e.claimed ∨ j ≠ i := h.imp_right fun hn heq => hn (heq ▸ List.mem_cons_self)
    rw [List.foldl_cons, ih (e.claimSlot i) ?_, Elem.slot_claimSlot hj]
    exact h.imp (fun hc => (e.mem_claimed_claimSlot i j).2 (.inl hc)) fun hn hl => hn (List.mem_cons_of_mem _ hl)

theorem slot_foldl_freeSlot (l : List Nat) (e : Elem) {j : Nat} (h : j ∉ l ∨ j ∉ e.claimed) :
    (l.foldl Elem.freeSlot e).slot j = e.slot j := by
  induction l generalizing e with
  | nil => rfl
  | cons i l ih =>
    have hj : j ≠ i ∨ j ∉ e.claimed := h.imp_left fun hn heq => hn (heq ▸ List.mem_cons_self)
    rw [List.foldl_cons, ih (e.freeSlot i) ?_, Elem.slot_freeSlot hj]
    exact h.imp (fun hn hl => hn (List.mem_cons_of_mem _ hl)) fun hc hf => hc ((e.mem_claimed_freeSlot i j).1 hf).1

/-- Each slot of the range that was not claimed holds zeros. -/
theorem slot_foldl_claimSlot_zero (l : List Nat) (e : Elem) {j : Nat} (hwf : e.slots.wf = true) (hj : j ∉ e.claimed) (hl : j ∈ l) :
    (l.foldl Elem.claimSlot e).slot j = zeroSlot := by
  induction l generalizing e with
  | nil => cases hl
  | cons i l ih =>
    rw [List.foldl_cons]
    by_cases heq : j = i
    · subst heq
      rw [slot_foldl_claimSlot l _ (.inl ((e.mem_claimed_claimSlot j j).2 (.inr rfl))), Elem.slot_claimSlot_self hwf hj]
    · exact ih _ (Elem.slots_wf_claimSlot hwf i) (fun hc => ((e.mem_claimed_claimSlot i j).1 hc).elim hj heq)
        ((List.mem_cons.1 hl).resolve_left heq)

end Slots

end Sys2Proof.Machine

namespace Sys2Proof.Settled

open Sys2Proof Sys2Proof.Machine Sys2Proof.Safety

/-- Settles O21: MCLM claims the slots of its range one after another (`Elem.claimSlot`), and MREL releases them (`Elem.freeSlot`). -/
theorem slotClaims : Obligations.SlotClaims := by
  unfold Obligations.SlotClaims
  intro s f slots zeros marks taken freed
  refine ⟨⟨_, fun e => slots.foldl Elem.claimSlot e, fires_entry (i := .mclm f) rfl rfl rfl, fun e => ?taken, boolWord_cases _, ?all⟩,
    fun e => slots.foldl Elem.freeSlot e, fires_entry (i := .mrel f) rfl rfl rfl, fun e => ?freed⟩
  case taken =>
    have halone := foldl_alone Elem.claimSlot_alone slots e
    exact ⟨halone.rest, ⟨halone.fewer, halone.kept⟩, mem_claimed_foldl_claimSlot slots e, fun i => slot_foldl_claimSlot slots e,
      fun i => slot_foldl_claimSlot_zero slots e⟩
  case all =>
    rw [boolWord_eq_one_iff]
    simp [slots, slotRange]
  case freed =>
    have halone := foldl_alone Elem.freeSlot_alone slots e
    exact ⟨halone.rest, ⟨halone.fewer, halone.kept⟩, mem_claimed_foldl_freeSlot slots e, fun i => slot_foldl_freeSlot slots e⟩

end Sys2Proof.Settled
end

section
/-! PROOFS. O22: MZRO and MACC. -/

namespace Sys2Proof

/-- A word of format X whose reserved fields are not 0 is refused (R295, R304). -/
theorem chkX_ne_none_of_reserved (k : Kind) (f : FX) (d : Role) (lim : Bool) : chkX k f d false lim ≠ none := by
  simp only [chkX, Bool.and_false, List.cons_append, List.nil_append, firstBad]
  split <;> simp

end Sys2Proof

namespace Sys2Proof.Machine

open Sys2Proof Sys2Proof.Safety

/-! ## Accumulators written (R393) -/

/-- A run of keys set to the values of a list. -/
theorem Tbl.get_foldl_zipIdx {α : Type} (d : α) (b : Nat) (l : List α) (n : Nat) (t : Tbl α) (j : Nat) :
    ((l.zipIdx n).foldl (fun (t : Tbl α) p => t.set (b + p.2) p.1) t).get d j =
      if b + n ≤ j then (l[j - (b + n)]?).getD (t.get d j) else t.get d j := by
  induction l generalizing n t with
  | nil => simp
  | cons v l ih =>
    rw [List.zipIdx_cons, List.foldl_cons, ih, Tbl.get_set]
    by_cases hj : b + n = j
    · subst hj
      rw [if_neg (by omega), if_pos rfl, if_pos (Nat.le_refl _), Nat.sub_self]
      rfl
    · rw [if_neg hj]
      by_cases hlt : b + n ≤ j
      · rw [if_pos (by omega), if_pos hlt, show j - (b + n) = j - (b + (n + 1)) + 1 by omega, List.getElem?_cons_succ]
      · rw [if_neg (by omega), if_neg hlt]

/-- The accumulators with one of them cleared. -/
def clearedAcc (a : Nat) (acc : Tbl Word) : Tbl Word :=
  ((List.replicate 256 (0#32)).zipIdx).foldl (fun (t : Tbl Word) p => t.set (a * 256 + p.2) p.1) acc

theorem get_clearedAcc (a : Nat) (acc : Tbl Word) (c : Nat) {k : Nat} (hk : k < 256) :
    (clearedAcc a acc).get 0#32 (c * 256 + k) = if c = a then 0#32 else acc.get 0#32 (c * 256 + k) := by
  rw [clearedAcc, Tbl.get_foldl_zipIdx, Nat.add_zero, List.getElem?_replicate]
  by_cases hc : c = a
  · rw [if_pos hc, if_pos (by omega), if_pos (by omega)]
    rfl
  · rw [if_neg hc]
    split_ifs with hle hlt
    · omega
    · rfl
    · rfl

section AccumulatorEntries

variable {s : State} {f : FX}

theorem fires_mzro : Fires (.mzro f) s [] [] (fun t => t.modE (fun e =>
    { e.unpoison (accWord f.acc.toNat 0) 1024 with acc := clearedAcc f.acc.toNat e.acc })) := by
  refine fires_entry (i := .mzro f) rfl rfl ?_
  simp only [Elem.setAcc, List.length_replicate]
  rfl

/-- MACC lands the element of its fields. -/
theorem lands_macc (h : bitAt f.opt 0 = false) (hchk : s.wordChk (accWord f.acc.toNat (f.asl.toNat * 4 + bitsOf f.bsl 1 0)) 4 = .ok) :
    Lands (.macc f) s [] f.d.toNat (s.oldE.accAt f.acc.toNat (f.asl.toNat * 4 + bitsOf f.bsl 1 0)) := by
  have he : exec (.macc f) s = execMacc f s := rfl
  simp only [execMacc, h, Bool.false_eq_true, if_false] at he
  exact fires_entry he hchk rfl

/-- With DYN it lands the element of its register modulo 256. -/
theorem lands_macc_dyn (h : bitAt f.opt 0 = true)
    (hchk : s.wordChk (accWord f.acc.toNat ((s.src (bitsOf f.bsl 4 0)).toNat % 256)) 4 = .ok) :
    Lands (.macc f) s [bitsOf f.bsl 4 0] f.d.toNat (s.oldE.accAt f.acc.toNat ((s.src (bitsOf f.bsl 4 0)).toNat % 256)) := by
  have he : exec (.macc f) s = execMacc f s := rfl
  simp only [execMacc, h, if_true] at he
  exact fires_entry he hchk rfl

end AccumulatorEntries

/-! ## Words of MACC that are refused (R295, R393) -/

/-- MACC's reserved fields. -/
def maccReserved (f : FX) : Bool :=
  f.shp == 0#4 && f.opt.toNat < 2 && (if f.opt == 0#3 then f.bsl.toNat < 4 else f.asl == 0#6 && f.bsl.toNat < 32)

theorem macc_refused {f : FX} (h : maccReserved f = false) (k : Kind) (cf : Word) : Instr.bad k cf (.macc f) ≠ none := by
  change chkX k f .mdst (maccReserved f) true ≠ none
  rw [h]
  exact chkX_ne_none_of_reserved k f _ _

/-- The low bit of OPT tells its two values without reserved bits apart. -/
theorem opt_cases {o : BitVec 3} (h : o.toNat < 2) : o = 0#3 ∧ bitAt o 0 = false ∨ o = 1#3 ∧ bitAt o 0 = true := by
  have ho : o.toNat = 0 ∨ o.toNat = 1 := by omega
  rcases ho with ho | ho
  · exact .inl ⟨BitVec.eq_of_toNat_eq ho, by simp [bitAt, BitVec.getLsbD, ho]⟩
  · exact .inr ⟨BitVec.eq_of_toNat_eq ho, by simp [bitAt, BitVec.getLsbD, ho]⟩

theorem maccReserved_field {f : FX} (h : bitAt f.opt 0 = false) (hb : bitsOf f.bsl 5 2 ≠ 0) : maccReserved f = false := by
  by_contra hne
  simp only [maccReserved, Bool.not_eq_false, Bool.and_eq_true, decide_eq_true_eq] at hne
  obtain ⟨⟨-, hopt⟩, hrest⟩ := hne
  obtain ⟨ho, -⟩ | ⟨-, hbit⟩ := opt_cases hopt
  · rw [ho] at hrest
    have hlt : f.bsl.toNat < 4 := by simpa using hrest
    rw [bitsOf, Nat.shiftRight_eq_div_pow] at hb
    omega
  · rw [h] at hbit
    cases hbit

theorem maccReserved_dyn {f : FX} (h : bitAt f.opt 0 = true) (hb : f.asl ≠ 0#6 ∨ bitsOf f.bsl 5 5 ≠ 0) : maccReserved f = false := by
  by_contra hne
  simp only [maccReserved, Bool.not_eq_false, Bool.and_eq_true, decide_eq_true_eq] at hne
  obtain ⟨⟨-, hopt⟩, hrest⟩ := hne
  obtain ⟨-, hbit⟩ | ⟨ho, -⟩ := opt_cases hopt
  · rw [h] at hbit
    cases hbit
  · rw [ho] at hrest
    obtain ⟨hasl, hlt⟩ : f.asl = 0#6 ∧ f.bsl.toNat < 32 := by simpa using hrest
    rw [bitsOf, Nat.shiftRight_eq_div_pow] at hb
    exact hb.elim (fun hn => hn hasl) (fun hn => by omega)

end Sys2Proof.Machine

namespace Sys2Proof.Settled

open Sys2Proof Sys2Proof.Machine Sys2Proof.Safety

/-- Settles O22: MZRO clears the keys of its accumulator alone, and MACC lands an element or has a word that is refused. -/
theorem accumulatorEntries : Obligations.AccumulatorEntries := by
  unfold Obligations.AccumulatorEntries
  intro s f i r j elem
  exact ⟨⟨clearedAcc f.acc.toNat, fires_mzro, fun a c k => get_clearedAcc _ a c⟩,
    fun h => ⟨lands_macc h, fun hb => macc_refused (maccReserved_field h hb)⟩,
    fun h => ⟨lands_macc_dyn h, fun hb => macc_refused (maccReserved_dyn h hb)⟩⟩

end Sys2Proof.Settled
end

section
/-! PROOFS. O23: MLD, MST, MTRN, MOUT and MKEY. -/

namespace Sys2Proof.Machine

open Sys2Proof Sys2Proof.Safety

/-! ## Transfers of the slot port (R392) -/

section Transfers

variable {s : State} {f : FX} {a : Nat} {tag : Byte}

theorem fires_mld (h : s.sideRead (bitsOf f.opt 1 0) (alignDown (s.src f.d.toNat).toNat 512) (bitsOf f.bsl 1 0) 512 = (.ok, a)) :
    Fires (.mld f) s [f.d.toNat] [] (fun t =>
      (t.slotPort 8 (.mld f) ((s.sideElem (bitsOf f.opt 1 0)).sram.readN a 512) (512 * f.asl.toNat)).modSide (bitsOf f.opt 1 0)
        (fun e => e.markRead a 512)) :=
  fires_entry (i := .mld f) rfl (by simp only [h]) (by simp only [h])

theorem fires_mout (h : s.sideWrite (bitsOf f.opt 1 0) (alignDown (s.src f.d.toNat).toNat 512) (bitsOf f.bsl 1 0) 1024 = (.ok, a, tag))
    (hacc : s.accChk f.acc.toNat true = .ok) :
    Fires (.mout f) s [f.d.toNat] [] (fun t => t.inFlight (s.cycle + 16) (.mout f) false []
      (wordBytes (s.oldE.accAll f.acc.toNat)) [tag + BitVec.ofNat 8 (bitsOf f.bsl 1 0)] 0#32 a [] false) :=
  fires_entry (i := .mout f) rfl (by simp only [h, hacc, Chk.ok_and]) (by simp only [h])

/-- MKEY reads what stands at rank RK, which may advance. -/
theorem fires_mkey : Fires (.mkey f) s [] [f.d.toNat] (fun t =>
    (t.put f.d.toNat (if 64 ≤ s.oldE.rk then 0xFFFFFFFF#32
      else if bitAt f.opt 0 then BitVec.ofNat 32 ((s.oldE.sortI[s.oldE.rk]?).getD 0#16).toNat
      else (s.oldE.sortK[s.oldE.rk]?).getD 0#32)).modE (fun e =>
        if bitAt f.opt 1 then { e with rk := Min.min (s.oldE.rk + 1) 64 } else e)) := by
  refine fires_entry (i := .mkey f) rfl rfl ?_
  simp only [BitVec.ofNat_toNat]

end Transfers

end Sys2Proof.Machine

namespace Sys2Proof.Settled

open Sys2Proof Sys2Proof.Machine Sys2Proof.Safety

/-- Settles O23, entry by entry: each completes as its own equation says, once its place can be reached and its operand read. -/
theorem slotPortAndKeys : Obligations.SlotPortAndKeys := by
  unfold Obligations.SlotPortAndKeys
  constructor
  · intro s f a tag side off j acc
    exact ⟨fires_mld, fun h => fires_entry (i := .mst f) rfl h rfl, fun h => fires_entry (i := .mtrn f) rfl h rfl, fires_mout⟩
  · intro s f rk
    exact fires_mkey

end Sys2Proof.Settled
end

section
/-! PROOFS. O24: MMA, MMAS, MCTR and MSRT. -/

namespace Sys2Proof.Machine

open Sys2Proof Sys2Proof.Safety

theorem bitsOf_self_eq_one_iff {w : Nat} (x : BitVec w) (k : Nat) : bitsOf x k k = 1 ↔ bitAt x k = true := by
  rw [← toNat_bitAt]
  cases bitAt x k <;> decide

section TileEntries

variable {s : State} {f : FX}

/-- MMA reads its slots, or the halves that its fields name. -/
theorem fires_mma (ha : s.slotChk f.asl.toNat 1 = .ok) (hb : s.slotChk f.bsl.toNat 1 = .ok)
    (hc : s.accChk f.acc.toNat (bitAt f.opt 0) = .ok) :
    Fires (.mma f) s [] [] (fun t => t.nodeOp 68 (.mma f) [f.acc.toNat] (s.mmaSlot (cfMfa s.decl.cfmt) f.asl.toNat (bitsOf f.shp 0 0))
      (s.mmaSlot (cfMfb s.decl.cfmt) f.bsl.toNat (bitsOf f.shp 1 1)) 0#32 0 [] false) :=
  fires_entry (i := .mma f) rfl (by simp only [ha, hb, hc, Chk.ok_and]) rfl

/-- No scale header disagrees where each has the format and the block length. -/
theorem any_scaleBad_eq_false {mf l : Nat} {hs : List Word} (h : ∀ w ∈ hs, bitsOf w 10 8 = mf ∧ bitsOf w 15 12 = l) :
    hs.any (scaleBad mf l) = false := by
  simpa [scaleBad] using h

/-- MMAS with every header in order reads its operands and the headers. -/
theorem fires_mmas :
    let cf := s.decl.cfmt
    let sc := (s.src f.d.toNat).toNat % 64
    let hd := (List.range 128).map (wordAt (s.oldE.slot sc))
    let l := bitsOf f.opt 2 1
    let nb := tileK (cfMfa cf) / (16 * 2 ^ l)
    s.slotChk f.asl.toNat 1 = .ok → s.slotChk f.bsl.toNat 1 = .ok → s.slotChk sc 1 = .ok → s.accChk f.acc.toNat (bitAt f.opt 0) = .ok →
    (∀ h ∈ hd.take (16 * nb), bitsOf h 10 8 = cfMfa cf ∧ bitsOf h 15 12 = l) →
    (∀ h ∈ (hd.drop 64).take (16 * nb), bitsOf h 10 8 = cfMfb cf ∧ bitsOf h 15 12 = l) →
    Fires (.mmas f) s [f.d.toNat] [] (fun t =>
      t.nodeOp 68 (.mmas f) [f.acc.toNat] (s.oldE.slot f.asl.toNat) (s.oldE.slot f.bsl.toNat) 0#32 0 hd false) := by
  intro cf sc hd l nb ha hb hs hc hheadA hheadB
  refine fires_entry (i := .mmas f) rfl (Chk.and_eq_ok.2 ⟨if_neg ?heads, ?operands⟩) rfl
  case heads =>
    exact fun h => (Bool.or_eq_true_iff.1 h).elim (Bool.eq_false_iff.1 (any_scaleBad_eq_false hheadA))
      (Bool.eq_false_iff.1 (any_scaleBad_eq_false hheadB))
  case operands => exact Chk.and_eq_ok.2 ⟨ha, Chk.and_eq_ok.2 ⟨hb, Chk.and_eq_ok.2 ⟨hs, hc⟩⟩⟩

theorem fires_mctr :
    let n := if cfMfa s.decl.cfmt = 3 then 2 else 4
    s.slotChk f.asl.toNat 1 = .ok → s.slotChk f.bsl.toNat n = .ok → s.accChk f.acc.toNat (bitAt f.opt 2) = .ok →
    s.accChk (f.acc.toNat + 1) (bitAt f.opt 2) = .ok →
    Fires (.mctr f) s [] [] (fun t => t.nodeOp 260 (.mctr f) [f.acc.toNat, f.acc.toNat + 1] (s.oldE.slot f.asl.toNat)
      ((List.range n).flatMap (fun i => s.oldE.slot (f.bsl.toNat + i))) 0#32 0 [] false) := by
  intro n ha hb hc hd
  exact fires_entry (i := .mctr f) rfl (Chk.and_eq_ok.2 ⟨ha, Chk.and_eq_ok.2 ⟨hb, Chk.and_eq_ok.2 ⟨hc, hd⟩⟩⟩) rfl

end TileEntries

end Sys2Proof.Machine

namespace Sys2Proof.Settled

open Sys2Proof Sys2Proof.Machine Sys2Proof.Safety

/-- Settles O24, entry by entry: with its operands readable each reads them at fire and puts its operation in flight. -/
theorem tileOperations : Obligations.TileOperations := by
  unfold Obligations.TileOperations
  intro s f cf slot a b c half sc hd l nb n
  refine ⟨fun ha hb hc => ?mma, fires_mmas, fires_mctr, fun ha => fires_entry (i := .msrt f) rfl ha rfl⟩
  case mma =>
    have h := fires_mma ha hb hc
    simp only [State.mmaSlot, bitsOf_self_eq_one_iff] at h
    exact h

end Sys2Proof.Settled
end

section
/-! PROOFS. O32: RNGS. -/

namespace Sys2Proof.Machine

open Sys2Proof Sys2Proof.Safety

section Rngs

variable {s : State} {f : FK}

/-- A seed writes one word of the generator. -/
theorem fires_rngs_seed (h : bitAt f.param 2 = false) :
    Fires (.rngs f) s [f.a.toNat] [] (fun t => t.modE (fun e => e.seed (bitsOf f.param 1 0) (s.src f.a.toNat))) := by
  have he : exec (.rngs f) s = execRngs f s := rfl
  simp only [execRngs, h, Bool.false_eq_true, if_false] at he
  exact fires_entry he rfl rfl

/-- A draw lands the output of the generator as it stood, and steps it. -/
theorem fires_rngs_next (h : bitAt f.param 2 = true) : Fires (.rngs f) s [] [f.d.toNat] (fun t =>
    (t.put f.d.toNat s.oldE.rngNext.1).modE (fun e => { e with
      gs0 := s.oldE.rngNext.2.gs0, gs1 := s.oldE.rngNext.2.gs1, gs2 := s.oldE.rngNext.2.gs2, gs3 := s.oldE.rngNext.2.gs3 })) := by
  have he : exec (.rngs f) s = execRngs f s := rfl
  simp only [execRngs, h, if_true] at he
  exact fires_entry he rfl rfl

end Rngs

end Sys2Proof.Machine

namespace Sys2Proof.Settled

open Sys2Proof Sys2Proof.Machine Sys2Proof.Safety

/-- Settles O32: seed and next by RNGS's own equations; a nullified entry is counted, which changes no element. -/
theorem randomEntries : Obligations.RandomEntries := by
  unfold Obligations.RandomEntries
  intro s f a old x y fix
  exact ⟨fires_rngs_seed, fires_rngs_next, fun e _ hchk hfalse => ⟨State.runEntry_nullified hchk hfalse, s.nowE_count 0x02⟩⟩

end Sys2Proof.Settled
end

section
/-! PROOFS. O50: what lands at the end of transfers, node operations, soft-token operations and FOLDs. -/

namespace Sys2Proof.Machine

open Sys2Proof Sys2Proof.Safety

/-! ## The slot port and the node (R392, R394 to R399, R404) -/

section Lands

variable {s : State} {o : NodeOp}

/-- The state without an operation of the element in focus that is in flight. -/
def State.withoutOp (s : State) (o : NodeOp) : State := s.modE (fun e => { e with node := e.node.filter (fun q => q.id != o.id) })

/-- The state in which an operation's entry fired, as far as its comparison names it (R211). -/
def State.firedAs (s : State) (o : NodeOp) : State := { s with focus := { s.focus with stamp := o.stamp, sched := o.sched } }

/-- A transfer that is no MOUT lands in its slot. -/
theorem slotPortEffect_slot (h : s.nowE.node.find? (fun q => q.id == s.focus.n && !q.tile) = some o)
    (hi : ∀ f, o.instr ≠ .mout f) : exec .slotPortEffect s = .next ((s.withoutOp o).modE (fun e => e.writeSlot o.y o.a)) := by
  change execSlotPortEffect s = _
  simp only [execSlotPortEffect, h, go]
  rfl

theorem slotPortEffect_mout {f : FX} (h : s.nowE.node.find? (fun q => q.id == s.focus.n && !q.tile) = some o) (hi : o.instr = .mout f) :
    exec .slotPortEffect s =
      .next ((s.withoutOp o).modSide (bitsOf f.opt 1 0) (fun e => e.writeSram o.y o.a (.loc (o.b.headD 0#8)))) := by
  change execSlotPortEffect s = _
  simp only [execSlotPortEffect, h, hi, go]
  rfl

/-- A node operation that is no FOLM writes its results into its element, and is compared. -/
theorem nodeOperationLand_elem (h : s.nowE.node.find? (fun q => q.id == s.focus.n && q.tile) = some o) (hi : ∀ f, o.instr ≠ .folm f) :
    exec .nodeOperationLand s =
      .next (((s.withoutOp o).modE (fun e => e.landNode s.decl.cfmt o)).compared (s.firedAs o) o.instr true) := by
  change execNodeOperationLand s = _
  simp only [execNodeOperationLand, h, go]
  rfl

theorem nodeOperationLand_folm {f : FX} (h : s.nowE.node.find? (fun q => q.id == s.focus.n && q.tile) = some o)
    (hi : o.instr = .folm f) :
    exec .nodeOperationLand s = .next (((s.withoutOp o).landFolm f o).compared (s.firedAs o) o.instr true) := by
  change execNodeOperationLand s = _
  simp only [execNodeOperationLand, h, hi, go]
  rfl

end Lands

/-! ## Soft-token operations (R137, R229, R408 to R411) -/

section SoftCompletions

variable {s : State} {q : SoftOp}

/-- The state in which a soft-token operation's entry fired, as far as its waits name it. -/
def State.atSoft (s : State) (q : SoftOp) : State := { s with focus := { s.focus with stamp := q.stamp, sched := q.sched } }

/-- The state without a soft-token operation of the element in focus and without its marks. -/
def State.withoutSoft (s : State) (q : SoftOp) : State :=
  s.modE (fun e => { e with softOps := e.softOps.filter (fun k => k.id != q.id), marks := e.marks.filter (fun m => !(q.marks.contains m)) })

/-- The effect of a soft-token operation that completes. -/
def State.softEffect (t : State) (d : ElemDecl) (q : SoftOp) : State :=
  match q.instr with
  | .stkh f => t.stkhDone f
  | .stke _ => t.modE (fun e => e.writeSram q.a.toNat (stkeWords e.dc q) (d.locTag e q.a.toNat))
  | .collapse f => t.collapseDone f q
  | .gmsk f => t.gmskDone f q
  | .gstp f => t.gstpDone f q
  | .prpl f => t.prplDone f q
  | _ => t

variable (h : s.nowE.softOps.find? (fun o => o.id == s.focus.n) = some q)
include h

theorem softTokenComplete_waits {v : State} (hw : (s.atSoft q).needsWait q.stamp q.sched ((s.atSoft q).softNeeds q) = some v) :
    exec .softTokenComplete s = .next v := by
  unfold State.atSoft at hw
  change execSoftTokenComplete s = _
  simp only [execSoftTokenComplete, h, hw, go]

theorem softTokenComplete_done (hw : (s.atSoft q).needsWait q.stamp q.sched ((s.atSoft q).softNeeds q) = none) :
    exec .softTokenComplete s =
      .next ((((s.atSoft q).withoutSoft q).softEffect (s.atSoft q).decl q).modR (fun g => g.joinCommit s.cycle)) := by
  unfold State.atSoft at hw
  change execSoftTokenComplete s = _
  simp only [execSoftTokenComplete, h, hw, go]
  rfl

end SoftCompletions

/-! ## Lists of blocks -/

section Blocks

variable {α : Type} {g : Nat → List α} {m n : Nat} (hg : ∀ i, i < n → (g i).length = m)
include hg

theorem length_flatMap_range : ((List.range n).flatMap g).length = m * n := by
  induction n with
  | zero => rfl
  | succ n ih =>
    rw [List.range_succ, List.flatMap_append, List.length_append, ih fun i hi => hg i (by omega), List.flatMap_singleton,
      hg n (Nat.lt_succ_self n), Nat.mul_succ]

/-- Block b of a list of blocks of one length. -/
theorem flatMap_range_part {b : Nat} (hb : b < n) : (((List.range n).flatMap g).drop (m * b)).take m = g b := by
  induction n with
  | zero => omega
  | succ n ih =>
    have hlen := length_flatMap_range (n := n) fun i hi => hg i (by omega)
    rw [List.range_succ, List.flatMap_append, List.flatMap_singleton]
    rcases Nat.lt_or_eq_of_le (Nat.lt_succ_iff.1 hb) with hlt | rfl
    · have hmul := Nat.mul_le_mul_left m hlt
      rw [Nat.mul_succ] at hmul
      rw [List.drop_append_of_le_length (by omega), List.take_append_of_le_length (by rw [List.length_drop]; omega)]
      exact ih (fun i hi => hg i (by omega)) hlt
    · rw [← hlen, List.drop_left, ← hg b (Nat.lt_succ_self b), List.take_length]

end Blocks

/-! ## What FOLD computes of a block (R218, R403) -/

theorem length_wordBytes (l : List Word) : (wordBytes l).length = 4 * l.length := by
  induction l with
  | nil => rfl
  | cons w l ih =>
    change (leBytes 4 w.toNat ++ wordBytes l).length = _
    rw [List.length_append, length_leBytes, ih, List.length_cons]
    omega

/-- The header of a block of FOLD: its scale, BLEN code 1, FMT 1 and TAG (log 45). -/
def foldHeader (sc b : Nat) : Word := BitVec.ofNat 32 (sc * 2 ^ 24 + 1 * 2 ^ 12 + 1 * 2 ^ 8 + b % 256)

theorem foldHeader_fields (sc b : Nat) : bitsOf (foldHeader sc b) 7 0 = b % 256 ∧ bitsOf (foldHeader sc b) 10 8 = 1 ∧
    bitsOf (foldHeader sc b) 15 12 = 1 ∧ bitsOf (foldHeader sc b) 23 16 = 0 := by
  simp only [bitsOf, foldHeader, BitVec.toNat_ofNat, Nat.shiftRight_eq_div_pow, Nat.reducePow, Nat.reduceAdd, Nat.reduceSub]
  omega

/-- A block's burst is its header and one code for each element. -/
theorem foldBlock_burst (full : Bool) (tau : Word) (b : Nat) (xs xps : List Word) : ∃ sc codes,
    (foldBlock full tau b xs xps).1 = leBytes 4 (foldHeader sc b).toNat ++ codes ∧ codes.length = Min.min xs.length xps.length :=
  ⟨_, _, rfl, by simp⟩

section FoldBlocks

variable {xs xps : List Word} (hx : xs.length = 32) (hxp : xps.length = 32) (full : Bool) (tau : Word) (b : Nat)
include hx hxp

theorem length_foldBlock_burst : (foldBlock full tau b xs xps).1.length = 36 := by
  obtain ⟨sc, codes, hburst, hlen⟩ := foldBlock_burst full tau b xs xps
  rw [hburst, List.length_append, length_leBytes, hlen, hx, hxp]
  rfl

theorem length_foldBlock_xp : (wordBytes (foldBlock full tau b xs xps).2.1).length = 128 := by
  rw [length_wordBytes]
  simp [foldBlock, hx, hxp]

end FoldBlocks

/-- The header of a burst is its first word. -/
theorem wordAt_foldBlock (full : Bool) (tau : Word) (b : Nat) (xs xps : List Word) :
    ∃ sc, wordAt (foldBlock full tau b xs xps).1 0 = foldHeader sc b := by
  obtain ⟨sc, codes, hburst, -⟩ := foldBlock_burst full tau b xs xps
  refine ⟨sc, ?_⟩
  rw [hburst, wordAt, leAt, Nat.mul_zero, sliceBytes_append_left (length_leBytes 4 _), ofNat_leNat_leBytes 4 _ rfl]

/-- FOLD's result on block b of its operands. -/
def foldPart (full : Bool) (tau : Word) (xs xps : List Word) (b : Nat) : List Byte × List Word × List Word :=
  foldBlock full tau b ((xs.drop (32 * b)).take 32) ((xps.drop (32 * b)).take 32)

/-- FOLD's result is that of its blocks in order. -/
theorem foldAll_eq (full : Bool) (tau : Word) (nb : Nat) (xs xps : List Word) : foldAll full tau nb xs xps =
    ((List.range nb).flatMap (fun b => (foldPart full tau xs xps b).1),
      (List.range nb).flatMap (fun b => (foldPart full tau xs xps b).2.1),
      (List.range nb).flatMap (fun b => (foldPart full tau xs xps b).2.2)) := by
  induction nb with
  | zero => rfl
  | succ nb ih =>
    have hstep : foldAll full tau (nb + 1) xs xps = ((foldAll full tau nb xs xps).1 ++ (foldPart full tau xs xps nb).1,
        (foldAll full tau nb xs xps).2.1 ++ (foldPart full tau xs xps nb).2.1,
        (foldAll full tau nb xs xps).2.2 ++ (foldPart full tau xs xps nb).2.2) := by
      simp only [foldAll, List.range_succ, List.foldl_append, List.foldl_cons, List.foldl_nil]
      rfl
    simp only [hstep, ih, List.range_succ, List.flatMap_append, List.flatMap_singleton]

/-! ## FOLD_COMPLETE (R218, R403) -/

/-- What a FOLD that completes makes of its home ME: the bursts and XP written, the operation and its marks gone. -/
def Elem.foldDone (e : Elem) (o : NodeOp) (marks : List Pend) (burst xp : List Byte) (xOff g gx : Nat) : Elem :=
  let e := { e with node := e.node.filter (fun q => q.id != o.id), marks := e.marks.filter (fun m => !(marks.contains m)) }
  let e := e.writeSram o.y burst (.loc (e.grps.get Grp.zero g).e)
  e.writeSram xOff xp (.loc (e.grps.get Grp.zero gx).e)

section FoldDone

variable (e : Elem) (o : NodeOp) (marks : List Pend) (burst xp : List Byte) (xOff g gx : Nat)

@[simp] theorem Elem.foldDone_node : (e.foldDone o marks burst xp xOff g gx).node = e.node.filter (fun q => q.id != o.id) := rfl

@[simp] theorem Elem.foldDone_marks :
    (e.foldDone o marks burst xp xOff g gx).marks = e.marks.filter (fun m => !(marks.contains m)) := rfl

@[simp] theorem Elem.foldDone_sram : (e.foldDone o marks burst xp xOff g gx).sram = (e.sram.writeN o.y burst).writeN xOff xp := rfl

end FoldDone

theorem State.nowE_modFolio (s : State) (fx : Nat) (g : Folio → Folio) : (s.modFolio fx g).nowE = s.nowE :=
  State.nowE_modR_of_elems s (g := fun r => { r with now := r.now.modFolio s.focus.sg fx g }) fun _ => rfl

section FoldCompletion

variable {s : State} {o : NodeOp} {f : FM}

/-- The state after a FOLD of folio fx has completed. -/
def State.folded (s : State) (o : NodeOp) (fx : Nat) : State :=
  let d := s.folioDecl fx
  let k := s.rg.now.folios.get Folio.zero (folioKey s.focus.sg fx)
  let xs := o.z.take d.n
  let xps := o.z.drop d.n
  let r := foldAll o.full d.tau (d.n / 32) xs xps
  (s.modE (fun e => e.foldDone o (foldMarks fx k d.n o.y) r.1 (wordBytes r.2.1) k.xOff (s.decl.storeAt o.y) (s.decl.storeAt k.xOff))).modFolio
    fx (fun q => { q with nfin := q.nfin || (xs ++ xps).any (fun v => !(f32 v).isFinite), pend := fsumTreeF32 r.2.2, ph := 3 })

theorem foldComplete_eq (h : s.nowE.node.find? (fun q => q.id == s.focus.n) = some o) (hi : o.instr = .fold f) :
    exec .foldComplete s = .next (s.folded o (bitsOf f.mode 1 0)) := by
  change execFoldComplete s = _
  simp only [execFoldComplete, h, hi, go]
  rfl

variable (hb : Bound s) (o) (fx : Nat)
include hb

theorem State.folded_only : OnlyFabric s (s.folded o fx) := by
  unfold State.folded State.modFolio
  exact (State.modNow_only hb _).trans (State.modNow_only ((State.modNow_bound _).2 hb) _)

theorem State.nowE_folded :
    let d := s.folioDecl fx
    let k := s.rg.now.folios.get Folio.zero (folioKey s.focus.sg fx)
    let r := foldAll o.full d.tau (d.n / 32) (o.z.take d.n) (o.z.drop d.n)
    (s.folded o fx).nowE = s.nowE.foldDone o (foldMarks fx k d.n o.y) r.1 (wordBytes r.2.1) k.xOff (s.decl.storeAt o.y)
      (s.decl.storeAt k.xOff) := by
  intro d k r
  exact (State.nowE_modFolio _ _ _).trans (State.nowE_modE hb _)

theorem State.folio_folded :
    let d := s.folioDecl fx
    let k := s.rg.now.folios.get Folio.zero (folioKey s.focus.sg fx)
    let xs := o.z.take d.n
    let xps := o.z.drop d.n
    (s.folded o fx).rg.now.folios.get Folio.zero (folioKey s.focus.sg fx) =
      { k with nfin := k.nfin || (xs ++ xps).any (fun v => !(f32 v).isFinite)
               pend := fsumTreeF32 (foldAll o.full d.tau (d.n / 32) xs xps).2.2, ph := 3 } := by
  intro d k xs xps
  have hb' : ∀ g, Bound (s.modE g) := fun g => (State.modNow_bound _).2 hb
  rw [State.folded, State.modFolio, State.modNow_now (hb' _), Fabric.modFolio]
  change Tbl.get _ (Tbl.set _ (folioKey s.focus.sg fx) _) _ = _
  rw [Tbl.get_set_self, State.modE, State.modNow_now hb]
  rfl

end FoldCompletion

/-- Block b of a FOLD's result stands in its burst under its header, and in XP, where the two places do not meet. -/
theorem foldDone_block {m : Memory} (hm : m.wf = true) (full : Bool) (tau : Word) {n : Nat} {z : List Word} (hz : z.length = 2 * n)
    {y xOff : Nat} (hapart : y + 36 * (n / 32) ≤ xOff ∨ xOff + 4 * n ≤ y) {b : Nat} (hb : b < n / 32) :
    let r := foldAll full tau (n / 32) (z.take n) (z.drop n)
    let block := foldPart full tau (z.take n) (z.drop n) b
    let m' := (m.writeN y r.1).writeN xOff (wordBytes r.2.1)
    m'.readN (y + 36 * b) 36 = block.1 ∧ m'.readN (xOff + 128 * b) 128 = wordBytes block.2.1 := by
  intro r block m'
  have hpart : ∀ (l : List Word), l.length = n → ∀ i, i < n / 32 → ((l.drop (32 * i)).take 32).length = 32 := fun l hl i hi => by
    rw [List.length_take, List.length_drop]
    omega
  have hxs := hpart (z.take n) (by rw [List.length_take]; omega)
  have hxps := hpart (z.drop n) (by rw [List.length_drop]; omega)
  have hburst : ∀ i, i < n / 32 → (foldPart full tau (z.take n) (z.drop n) i).1.length = 36 := fun i hi =>
    length_foldBlock_burst (hxs i hi) (hxps i hi) full tau i
  have hxp : ∀ i, i < n / 32 → (wordBytes (foldPart full tau (z.take n) (z.drop n) i).2.1).length = 128 := fun i hi =>
    length_foldBlock_xp (hxs i hi) (hxps i hi) full tau i
  have hr1 : r.1 = (List.range (n / 32)).flatMap (fun i => (foldPart full tau (z.take n) (z.drop n) i).1) := by
    simp only [r, foldAll_eq]
  have hr2 : wordBytes r.2.1 = (List.range (n / 32)).flatMap (fun i => wordBytes (foldPart full tau (z.take n) (z.drop n) i).2.1) := by
    simp only [r, foldAll_eq, wordBytes, List.flatMap_assoc]
  have hlen1 : r.1.length = 36 * (n / 32) := hr1 ▸ length_flatMap_range hburst
  have hlen2 : (wordBytes r.2.1).length = 128 * (n / 32) := hr2 ▸ length_flatMap_range hxp
  constructor
  · rw [Memory.readN_writeN_of_disjoint _ (by rw [hlen2]; omega), Memory.readN_writeN_part hm _ (by rw [hlen1]; omega), hr1]
    exact flatMap_range_part hburst hb
  · rw [Memory.readN_writeN_part (Memory.wf_writeN _ _ hm) _ (by rw [hlen2]; omega), hr2]
    exact flatMap_range_part hxp hb

end Sys2Proof.Machine

namespace Sys2Proof.Settled

open Sys2Proof Sys2Proof.Machine Sys2Proof.Safety

/-- Settles O50, kind by kind of what lands; a FOLD's result is read back block by block from its two places (`foldDone_block`). -/
theorem landings : Obligations.Landings := by
  unfold Obligations.Landings
  intro s o at_ gone
  refine ⟨fun h => ⟨fun f hi => ?slot, fun f => slotPortEffect_mout h⟩, fun h => ⟨fun f hi => ?mma, fun f hi => ?mmas, fun f hi => ?mctr,
    fun f hi => ?msrt, fun f => nodeOperationLand_folm h⟩, fun q h => ?soft, fun f h hi hb => ?fold⟩
  case slot =>
    refine slotPortEffect_slot h fun g hg => ?_
    rw [hg] at hi
    rcases hi with hi | hi | hi <;> cases hi
  case mma | mmas | mctr | msrt =>
    rw [nodeOperationLand_elem h (by simp [hi])]
    simp only [Elem.landNode, hi]
    rfl
  case soft =>
    intro u
    refine ⟨fun v => softTokenComplete_waits h, ?done⟩
    intro hw t joined
    have hdone := softTokenComplete_done h hw
    refine ⟨?_, ?_, ?_, ?_, ?_, ?_⟩ <;> intro f hi
    all_goals
      simp only [State.softEffect, hi] at hdone
      exact hdone
  case fold =>
    intro fx d xs xps r old
    refine ⟨s.folded o fx, foldComplete_eq h hi, State.folded_only o hb fx, State.folio_folded o hb fx, ?_⟩
    rw [State.nowE_folded o hb fx]
    refine ⟨fun q hq => ?node, fun m hm => ?marks, fun hwf hz hapart b hlt => ?block⟩
    case node => simpa using (List.mem_filter.1 hq).2
    case marks =>
      intro hin
      have hout := (List.mem_filter.1 hin).2
      simp only [Bool.not_eq_true', List.contains_eq_mem, decide_eq_false_iff_not] at hout
      exact hout hm
    case block =>
      intro block burst hd
      obtain ⟨hburst, hxp⟩ := foldDone_block hwf o.full d.tau hz hapart hlt
      obtain ⟨sc, hhead⟩ := wordAt_foldBlock o.full d.tau b ((xs.drop (32 * b)).take 32) ((xps.drop (32 * b)).take 32)
      have hhd : hd = foldHeader sc b := (congrArg (fun l => wordAt l 0) hburst).trans hhead
      rw [hhd]
      exact ⟨hburst, hxp, foldHeader_fields sc b⟩

end Sys2Proof.Settled
end
